-- ==== Sys2Proof/Word.lean ====
section
/-! DEFINITION. The machine's word types: scalar words, predicates, accumulator rows and bytes (R81, R96). -/

namespace Sys2Proof

/-- A scalar register's 64 bits (R81). -/
abbrev Word := BitVec 64

/-- One byte of memory. -/
abbrev Byte := BitVec 8

/-- A predicate register's 256 bits, one bit for each byte of a row (R81, R32). -/
abbrev Pred := BitVec 256

/-- One accumulator row of 256 bytes (R96); byte `i` is bits `8i+7` to `8i`. -/
abbrev Row := BitVec 2048

/-- The seven sticky arithmetic flags of R55, bit 0 IV to bit 6 SPM. -/
abbrev Flags := BitVec 7

end Sys2Proof
end

