-- ==== Sys2Proof/Syntax.lean ====
section
/-! DEFINITION. The operations and events of the SCX-16 as syntax: one constructor of `Instr` for each row of
spec/opcode_table.json. The first 221 are the operations a bundle's slots hold (R43), with their fields; the last 79 are
the indivisible steps that engines, ports, supervisors and the tick make and that no bundle encodes. The table gives
those no fields; what such a step acts on stands in the state (`State.sel`), and an `Ev` names both. -/

namespace Sys2Proof

/-- A guard (R32): a predicate number and whether it is negated. -/
structure Guard where
  neg : Bool
  k : Nat
  deriving DecidableEq, Repr

/-- The type codes of R42. -/
inductive Ty where
  | i8 | i16 | i32 | i64 | n8 | n16 | n32 | n64
  | e2m1 | e4m3 | e5m2 | bf16 | f16 | f32 | f64
  deriving DecidableEq, Repr

/-- The scope codes of R36 and R294. -/
inductive Scope where
  | ctx | core | cl | die | pkg | sys
  deriving DecidableEq, Repr

/-- The sync pair of R40. -/
structure Sync where
  wsem : Nat
  wthr : Nat
  ssem : Nat
  sinc : Nat
  spt : Bool
  deriving DecidableEq, Repr

/-- The address and modifier fields that the L and S operations share (R36). -/
structure LSArgs where
  base : Nat
  idx : Nat
  off : Int
  g : Guard
  ord : Bool
  scope : Scope
  deriving DecidableEq, Repr

/-- The rounding modes of R51. -/
inductive Rnd where
  | rne | rtz | rup | rdn | sr
  deriving DecidableEq, Repr

/-- The VCOR functions of R35. -/
inductive CorFn where
  | sin | cos | atan2 | exp | ln | sqrt | div | tanh | sigm | silu
  deriving DecidableEq, Repr

/-- The format sources of R37. -/
inductive FmtSrc where
  | entry | lc0 | lc1
  deriving DecidableEq, Repr

/-- The fields of the shadow configuration set (R37, R126). -/
inductive MField where
  | aaddr | baddr | maddr | saddr | k | astr | bstr | banda | bandb
  deriving DecidableEq, Repr

/-- The atomic operations of CAMO (R168) and XAMO (R250), by their codes 0 to 7. -/
inductive AmoOp where
  | add | min | max | and | or | xchg | cas | fadd
  deriving DecidableEq, Repr

/-- The accumulate operations of XACC (R250), by their codes 0 to 5. -/
inductive AccOp where
  | add | min | max | and | or | xor
  deriving DecidableEq, Repr

/-- The reductions of XRED (R288), by their codes 0 to 3. -/
inductive RedOp where
  | add | min | max | addSat
  deriving DecidableEq, Repr

/-- The fields of the auction configuration set (R341). -/
inductive AField where
  | aeps | arounds | aphases | adiv | ainit
  deriving DecidableEq, Repr

/-- The fields the local copy commands share (R157): queue, barrier register and sync pair. -/
structure CopyArgs where
  q : Nat
  bar : Nat
  y : Sync
  deriving DecidableEq, Repr

/-- The fields the remote commands share (R38, R250): handle, flow, traffic class and sync pair. -/
structure XArgs where
  hnd : Option Nat
  flow : Nat
  tc : Nat
  y : Sync
  deriving DecidableEq, Repr

/-- The permissions a translation can need (R206). -/
inductive Access where
  | read | write | atomic | none
  deriving DecidableEq, Repr

/-- One constructor for each row of the opcode table. -/
inductive Instr where
  -- X slot, register-register (R85)
  | add (d a b : Nat) (g : Guard)
  | sub (d a b : Nat) (g : Guard)
  | mul (d a b : Nat) (g : Guard)
  | mulh (d a b : Nat) (g : Guard)
  | mulhn (d a b : Nat) (g : Guard)
  | div (d a b : Nat) (g : Guard)
  | divn (d a b : Nat) (g : Guard)
  | rem (d a b : Nat) (g : Guard)
  | remn (d a b : Nat) (g : Guard)
  | and (d a b : Nat) (g : Guard)
  | or (d a b : Nat) (g : Guard)
  | xor (d a b : Nat) (g : Guard)
  | shl (d a b : Nat) (g : Guard)
  | shr (d a b : Nat) (g : Guard)
  | sra (d a b : Nat) (g : Guard)
  | min (d a b : Nat) (g : Guard)
  | minn (d a b : Nat) (g : Guard)
  | max (d a b : Nat) (g : Guard)
  | maxn (d a b : Nat) (g : Guard)
  | addsh (d a b n : Nat) (g : Guard)
  | sel (d a b : Nat) (g : Guard)
  | clz (d a : Nat) (g : Guard)
  | popc (d a : Nat) (g : Guard)
  | sext (d a w : Nat) (g : Guard)
  | zext (d a w : Nat) (g : Guard)
  | cmpeq (d a b : Nat) (g : Guard)
  | cmpne (d a b : Nat) (g : Guard)
  | cmplt (d a b : Nat) (g : Guard)
  | cmple (d a b : Nat) (g : Guard)
  | cmpltn (d a b : Nat) (g : Guard)
  | cmplen (d a b : Nat) (g : Guard)
  -- X slot, immediate (R86, R87)
  | addi (d a : Nat) (imm : Int)
  | andi (d a : Nat) (imm : Int)
  | ori (d a : Nat) (imm : Int)
  | xori (d a : Nat) (imm : Int)
  | shli (d a n : Nat)
  | shri (d a n : Nat)
  | srai (d a n : Nat)
  | cmpeqi (d a : Nat) (imm : Int)
  | cmplti (d a : Nat) (imm : Int)
  | cmpltni (d a : Nat) (imm : Int)
  | sethi (d : Nat) (imm : Int)
  -- X slot, predicates (R88)
  | kand (d a b : Nat) (g : Guard)
  | kandn (d a b : Nat) (g : Guard)
  | kor (d a b : Nat) (g : Guard)
  | kxor (d a b : Nat) (g : Guard)
  | knot (d a : Nat) (g : Guard)
  | kmov (d a : Nat) (g : Guard)
  | kmovB (d sr : Nat) (g : Guard)
  | kmovLo (d sr : Nat) (g : Guard)
  | krd (sr a q : Nat) (g : Guard)
  | kfirst (sr a : Nat) (g : Guard)
  -- X slot, control (R89 to R95)
  | br (g : Guard) (off : Int)
  | jmp (g : Guard) (off : Nat)
  | jr (a : Nat) (g : Guard)
  | call (g : Guard) (off : Int)
  | callr (d a : Nat) (g : Guard)
  | ret (a : Nat) (g : Guard)
  | loop (lc n fin : Nat)
  | lbrk (g : Guard) (off : Int)
  | mfs (d n : Nat)
  | mts (a n : Nat)
  | trapi (code : Nat)
  | tfence (g : Guard)
  | eret
  | nop (e : Nat) (sp : Bool)
  -- V slots (R100)
  | vadd (t : Ty) (d a b : Nat) (g : Guard) (m : Bool)
  | vsub (t : Ty) (d a b : Nat) (g : Guard) (m : Bool)
  | vmul (t : Ty) (d a b : Nat) (g : Guard) (m : Bool)
  | vfma (t : Ty) (d a b : Nat) (g : Guard) (m : Bool)
  | vfms (t : Ty) (d a b : Nat) (g : Guard) (m : Bool)
  | vmin (t : Ty) (d a b : Nat) (g : Guard) (m : Bool)
  | vmax (t : Ty) (d a b : Nat) (g : Guard) (m : Bool)
  | vabs (t : Ty) (d a : Nat) (g : Guard) (m : Bool)
  | vneg (t : Ty) (d a : Nat) (g : Guard) (m : Bool)
  | vdot4 (t : Ty) (d a b : Nat) (g : Guard) (m : Bool)
  | vdot2 (t : Ty) (d a b : Nat) (g : Guard) (m : Bool)
  | vand (t : Ty) (d a b : Nat) (g : Guard)
  | vor (t : Ty) (d a b : Nat) (g : Guard)
  | vxor (t : Ty) (d a b : Nat) (g : Guard)
  | vnot (t : Ty) (d a : Nat) (g : Guard)
  | vshl (t : Ty) (d a b : Nat) (g : Guard)
  | vshlImm (t : Ty) (d a n : Nat) (g : Guard)
  | vshr (t : Ty) (d a b : Nat) (g : Guard)
  | vshrImm (t : Ty) (d a n : Nat) (g : Guard)
  | vsra (t : Ty) (d a b : Nat) (g : Guard)
  | vsraImm (t : Ty) (d a n : Nat) (g : Guard)
  | vcmpeq (t : Ty) (kd a b : Nat) (g : Guard)
  | vcmpne (t : Ty) (kd a b : Nat) (g : Guard)
  | vcmplt (t : Ty) (kd a b : Nat) (g : Guard)
  | vcmple (t : Ty) (kd a b : Nat) (g : Guard)
  | vsel (t : Ty) (d a b : Nat) (g : Guard)
  | vmov (t : Ty) (d a : Nat) (g : Guard)
  | vbcast (t : Ty) (d a c : Nat) (g : Guard)
  | vbcastScalar (t : Ty) (d sa : Nat) (g : Guard)
  | vlaneInsert (t : Ty) (d sa c : Nat) (g : Guard)
  | vlaneExtract (t : Ty) (sd a c : Nat) (g : Guard)
  | vperm (t : Ty) (d a b : Nat) (g : Guard) (m : Bool)
  | vrot (t : Ty) (d a c : Nat) (g : Guard) (m : Bool)
  | vcvt (dt st : Ty) (mode : Rnd) (p d a : Nat) (g : Guard) (m : Bool)
  | vscl (t : Ty) (d a b : Nat) (g : Guard)
  | vredadd (t : Ty) (d a : Nat) (g : Guard) (m : Bool)
  | vredmax (t : Ty) (d a : Nat) (g : Guard) (m : Bool)
  | vredmin (t : Ty) (d a : Nat) (g : Guard) (m : Bool)
  | vscan (t : Ty) (d a : Nat) (ex : Bool) (g : Guard) (m : Bool)
  | vcnt (t : Ty) (d a : Nat) (g : Guard)
  | vcntLz (t : Ty) (d a : Nat) (g : Guard)
  | vtop2 (t : Ty) (d a : Nat) (g : Guard)
  | vquant (t : Ty) (d a p : Nat) (g : Guard)
  | vquantScale (t : Ty) (d a p : Nat) (g : Guard)
  | vdeq (t : Ty) (d a b : Nat) (g : Guard)
  | vcor (t : Ty) (f : CorFn) (n d a : Nat) (g : Guard)
  -- M slot (R127, R136 to R141)
  | mcfg (f : MField) (sr : Nat) (y : Sync)
  | mcfgi (f : MField) (imm : Nat) (y : Sync)
  | mma (tile : Nat) (src : FmtSrc) (e : Nat) (acc : Bool) (y : Sync)
  | mmas (tile : Nat) (src : FmtSrc) (e : Nat) (acc : Bool) (y : Sync)
  | mmac (tile : Nat) (src : FmtSrc) (e : Nat) (acc : Bool) (y : Sync)
  | mzero (tile : Nat) (y : Sync)
  | mrestart (off : Int) (y : Sync)
  | mrestartOff (y : Sync)
  | mkeep (mask : Nat) (y : Sync)
  | mdrop (mask : Nat) (y : Sync)
  | mfmt (src : FmtSrc) (e sr : Nat) (y : Sync)
  | mshad (y : Sync)
  -- L and S slots (R149, R153, R154, R300)
  | ld (t : Ty) (d : Nat) (x : LSArgs)
  | ldv (t : Ty) (d : Nat) (x : LSArgs)
  | ldvh (t : Ty) (hi : Bool) (d : Nat) (x : LSArgs)
  | ldk (d : Nat) (x : LSArgs)
  | ldg (t : Ty) (d vx : Nat) (x : LSArgs)
  | st (t : Ty) (d : Nat) (x : LSArgs)
  | stv (t : Ty) (d : Nat) (x : LSArgs)
  | stvh (t : Ty) (hi : Bool) (d : Nat) (x : LSArgs)
  | stk (d : Nat) (x : LSArgs)
  | sts (t : Ty) (d vx : Nat) (x : LSArgs)
  | aadd (t : Ty) (d : Nat) (x : LSArgs)
  | amin (t : Ty) (d : Nat) (x : LSArgs)
  | amax (t : Ty) (d : Nat) (x : LSArgs)
  | aand (t : Ty) (d : Nat) (x : LSArgs)
  | aor (t : Ty) (d : Nat) (x : LSArgs)
  | axch (t : Ty) (d : Nat) (x : LSArgs)
  | acas (t : Ty) (d : Nat) (x : LSArgs)
  | afadd (t : Ty) (d : Nat) (x : LSArgs)
  | fenceAcq (scope : Scope)
  | fenceRel (scope : Scope)
  | fenceAr (scope : Scope)
  -- C slot, local copies (R157, R163 to R169)
  | tmov (a b c e : Nat) (x : CopyArgs)
  | tmov2 (a b c e : Nat) (x : CopyArgs)
  | tmcast (a b c e mask : Nat) (x : CopyArgs)
  | tgath (a b c e : Nat) (x : CopyArgs)
  | tscat (a b c e : Nat) (x : CopyArgs)
  | tfill (a b c e : Nat) (x : CopyArgs)
  | camo (op : AmoOp) (t : Ty) (a b c e : Nat) (x : CopyArgs)
  | qjoin (mask : Nat) (y : Sync)
  | migr (a b c tier : Nat) (hnd : Option Nat) (y : Sync)
  | tlbinv (a b : Nat) (y : Sync)
  | tlbinvAll (y : Sync)
  | dirty (a b c : Nat) (y : Sync)
  | dirtyKeep (a b c : Nat) (y : Sync)
  -- Y slot: semaphores, barriers, handles, tasks (R174 to R200)
  | semadd (n : Nat) (gl : Bool) (c imm : Nat) (y : Sync)
  | semset (n : Nat) (gl : Bool) (c : Nat) (y : Sync)
  | semwait (n : Nat) (gl : Bool) (c imm : Nat) (y : Sync)
  | semrd (n : Nat) (gl : Bool) (c : Nat) (y : Sync)
  | barinit (a b : Nat) (y : Sync)
  | bararr (a b imm : Nat) (y : Sync)
  | barexp (a b : Nat) (y : Sync)
  | barwait (a b : Nat) (y : Sync)
  | barwaitT (a b c : Nat) (y : Sync)
  | hwaitL (h : Nat) (y : Sync)
  | hwaitR (h : Nat) (y : Sync)
  | hstat (h c sel : Nat) (y : Sync)
  | hrel (h : Nat) (y : Sync)
  | tspawn (c a : Nat) (y : Sync)
  | tspawnR (c a b : Nat) (y : Sync)
  | tdep (a imm : Nat) (y : Sync)
  | tsuspL (h a b : Nat) (y : Sync)
  | tsuspR (h a b : Nat) (y : Sync)
  | tsuspM (c a b : Nat) (y : Sync)
  | texit (y : Sync)
  | tmatch (a b c : Nat) (y : Sync)
  | tmatchS (a b c : Nat) (y : Sync)
  | tcancel (a : Nat) (y : Sync)
  | tjobq (c a : Nat) (y : Sync)
  -- hull (R237 to R241)
  | vwnew (c b : Nat) (y : Sync)
  | vwdup (c a b : Nat) (y : Sync)
  | vwnar (a b : Nat) (y : Sync)
  | vwdrop (a : Nat) (y : Sync)
  | vwq (c a sel : Nat) (y : Sync)
  | vwsync (y : Sync)
  -- windows (R247 to R262)
  | wcreate (w c a : Nat) (y : Sync)
  | wfree (w : Nat) (y : Sync)
  | wfence (w c : Nat) (y : Sync)
  | wfenceClose (w c : Nat) (y : Sync)
  | wpost (w c : Nat) (y : Sync)
  | wstart (w c : Nat) (y : Sync)
  | wcompl (w c : Nat) (y : Sync)
  | wwait (w c : Nat) (y : Sync)
  | wlockSh (w c : Nat) (y : Sync)
  | wlockEx (w c : Nat) (y : Sync)
  | wunlock (w c : Nat) (y : Sync)
  -- remote commands and the port (R250 to R274)
  | xget (a b c e : Nat) (x : XArgs)
  | xput (a b c e tag : Nat) (x : XArgs)
  | xputRel (a b c e tag : Nat) (x : XArgs)
  | xacc (op : AccOp) (t : Ty) (a b c e tag : Nat) (x : XArgs)
  | xamo (op : AmoOp) (t : Ty) (a b c e : Nat) (x : XArgs)
  | flowcfg (a b : Nat) (y : Sync)
  -- channels (R278 to R286)
  | csend (q a b : Nat) (x : XArgs)
  | crecv (c a : Nat) (y : Sync)
  | cret (c a : Nat) (y : Sync)
  -- reduce aperture (R288 to R291)
  | xred (op : RedOp) (t : Ty) (a b c tag : Nat) (x : XArgs)
  -- pre-emption, kills, faults, images (R22, R330 to R338)
  | preempt (a c : Nat) (y : Sync)
  | preemptSelf (y : Sync)
  | ctxsv (q a b e : Nat) (y : Sync)
  | ctxsvUpad (q a b e : Nat) (y : Sync)
  | ctxsvCpad (q a b e : Nat) (y : Sync)
  | ctxld (q a b e : Nat) (y : Sync)
  | ctxldUpad (q a b e : Nat) (y : Sync)
  | ctxldCpad (q a b e : Nat) (y : Sync)
  -- the Apex engine (R341 to R350)
  | acfg (f : AField) (a : Nat) (y : Sync)
  | ago (a b : Nat) (hnd : Option Nat) (y : Sync)
  | aq (c sel : Nat) (y : Sync)
  -- system (R353 to R363)
  | event (a b code : Nat) (y : Sync)
  -- steps that no bundle encodes: their operands stand in the state (`State.sel`)
  | shadnWrite
  | resultWriteback
  | lateAccessPerform
  | agingDue
  | matrixStart
  | matrixComplete
  | shadowRecord
  | copyComplete
  | pageWalk
  | fltreplay
  | frpush
  | trgWrite
  | migrationMove
  | rcntDecay
  | barrierUpdate
  | barrierAutoPhase
  | remoteSpawnArrival
  | spawnAckArrival
  | tdepArrival
  | cancelArrival
  | tjobqAnswer
  | jobJoinNotice
  | jobWave
  | jobDoneNotice
  | taskDispatch
  | taskPriorityRise
  | chordDeltaApply
  | fenceAnnounce
  | wfenceComplete
  | postArrival
  | completeArrival
  | lockRequestArrival
  | lockReleaseArrival
  | lockGrantArrival
  | lockRetry
  | remoteRequest
  | remoteAck
  | getDataLand
  | flowRetry
  | portArbitration
  | vdcapWindow
  | placeDown
  | placeUp
  | csendSend
  | cretPermitSend
  | permitArrival
  | chanStall
  | chaudit
  | auditMark
  | auditBack
  | auditTimeout
  | reduceResultArrival
  | reduceTimeout
  | reduceKeyAbort
  | preemptStop
  | preemptTimeoutKill
  | killFinish
  | machineCheck
  | faultRecordDrain
  | fqtail
  | apexStart
  | apexEnd
  | eventDeliver
  | launch
  | resetContext
  | resetCore
  | resetCluster
  | resetVd
  | resetDie
  | resetPackage
  | chantabWrite
  | vdfreeze
  | vdexport
  | vdimport
  | attgo
  | attestQuoteDone
  | powerOn
  | registerWrite
  | releaseAcknowledgement
  deriving DecidableEq, Repr

/-- A step that no bundle encodes, with the numbers of what it acts on. -/
structure Ev where
  op : Instr
  args : List Nat
  deriving DecidableEq, Repr

end Sys2Proof
end

