-- ==== Sys2Proof/Config.lean ====
section
/-! DEFINITION. What the spec leaves to an implementation, a run or another party: free values, none with a body. A claim
holds whatever they are. -/

namespace Sys2Proof

/-- Whether an endpoint number names a host (R10); the fabric manager hands endpoint numbers out. -/
opaque Config.isHost : Nat → Bool

/-- The steps of engines, ports, supervisors and the outside that come before the issue of a cycle, by clock (R17, R146,
R161, R256: their timing is not architectural). -/
opaque Config.events : Nat → List Ev

/-- Which of two or more possible contexts, frames or partners an engine takes, by draw (R17, R214, R290). -/
opaque Config.choice : Nat → Nat

/-- How many of the writes made while a matrix operation streamed a 64-byte operand beat sees, by draw and by beat (R134). -/
opaque Config.beat : Nat → Nat → Nat

/-- The reduce groups as the fabric manager sets them in the switches: each group's members (R287). -/
opaque Config.redGroups : List (Nat × List Nat)

/-- The firmware measurement: the SHA-256 digest of the verified image (R362), as 32 bytes in one number. -/
opaque Config.measurement : Nat

/-- The top-level LMS public key, 56 bytes in one number: the device's HSS public key after its level count (R363). -/
opaque Config.publicKey : Nat

/-- The HSS signature of a quote after its leading Nspk: 2960 bytes as one number, by die, leaf index and the 72 bytes signed
(R363). -/
opaque Config.signature : Nat → Nat → List Byte → Nat

/-- A byte that the spec leaves free, by draw and index: the fields of a shadow record that R67 does not give, and what a
command reads where no rule gives it. -/
opaque Config.freeByte : Nat → Nat → Byte

/-- What the host has itself written to a byte of its memory, by clock and home address; none where what a page of TIER 3 was
last given still stands (R215). -/
opaque Config.hostByte : Nat → Nat → Option Byte

/-- The bytes that lay out a virtual device's state image (R361 lists the contents, not the layout), by draw. -/
opaque Config.imageBytes : Nat → List Byte

end Sys2Proof
end

