-- ==== Sys2Proof/Machine/Num.lean ====
section
/-! DEFINITION. Number formats, exact values, RoundTo, Saturate, ExactSum and Draw (R42, R46 to R57). An exact real is
a fraction; every value of a format is one. -/

namespace Sys2Proof

/-! ## Types -/

/-- The width of a type in bits (R42, R46). -/
def Ty.bits : Ty → Nat
  | .i8 | .n8 | .e4m3 | .e5m2 => 8
  | .i16 | .n16 | .bf16 | .f16 => 16
  | .i32 | .n32 | .f32 => 32
  | .i64 | .n64 | .f64 => 64
  | .e2m1 => 4

/-- The width of a lane in bytes; E2M1 elements are packed and are no lanes of their own (R97). -/
def Ty.bytes (t : Ty) : Nat := t.bits / 8

/-- The lanes of a row (R97). -/
def Ty.lanes (t : Ty) : Nat := 256 / t.bytes

/-- The .i types (R42). -/
def Ty.isSigned : Ty → Bool
  | .i8 | .i16 | .i32 | .i64 => true
  | _ => false

/-- The .n types (R42). -/
def Ty.isUnsigned : Ty → Bool
  | .n8 | .n16 | .n32 | .n64 => true
  | _ => false

/-- The integer types, set I of R100. -/
def Ty.isInt (t : Ty) : Bool := t.isSigned || t.isUnsigned

/-- Set F of R100. -/
def Ty.isF : Ty → Bool
  | .bf16 | .f16 | .f32 | .f64 => true
  | _ => false

/-- The type codes of R42. -/
def Ty.code : Ty → Nat
  | .i8 => 0 | .i16 => 1 | .i32 => 2 | .i64 => 3 | .n8 => 4 | .n16 => 5 | .n32 => 6 | .n64 => 7
  | .e2m1 => 8 | .e4m3 => 9 | .e5m2 => 10 | .bf16 => 11 | .f16 => 12 | .f32 => 13 | .f64 => 14

/-- The type of a code; code 15 is reserved (R42). -/
def Ty.ofCode : Nat → Option Ty
  | 0 => some .i8 | 1 => some .i16 | 2 => some .i32 | 3 => some .i64 | 4 => some .n8 | 5 => some .n16
  | 6 => some .n32 | 7 => some .n64 | 8 => some .e2m1 | 9 => some .e4m3 | 10 => some .e5m2 | 11 => some .bf16
  | 12 => some .f16 | 13 => some .f32 | 14 => some .f64 | _ => none

/-- The rounding-mode codes of R51. -/
def Rnd.code : Rnd → Nat
  | .rne => 0 | .rtz => 1 | .rup => 2 | .rdn => 3 | .sr => 4

/-- The rounding mode of a code; codes 5 to 7 are reserved (R51). -/
def Rnd.ofCode : Nat → Option Rnd
  | 0 => some .rne | 1 => some .rtz | 2 => some .rup | 3 => some .rdn | 4 => some .sr | _ => none

/-- Mantissa bits of a floating format (R46). -/
def Ty.mant : Ty → Nat
  | .e2m1 => 1 | .e4m3 => 3 | .e5m2 => 2 | .bf16 => 7 | .f16 => 10 | .f32 => 23 | .f64 => 52
  | _ => 0

/-- The exponent bias of a floating format (R46). -/
def Ty.bias : Ty → Nat
  | .e2m1 => 1 | .e4m3 => 7 | .e5m2 => 15 | .bf16 => 127 | .f16 => 15 | .f32 => 127 | .f64 => 1023
  | _ => 0

/-- Whether the format has infinities (R46). -/
def Ty.hasInf : Ty → Bool
  | .e2m1 | .e4m3 => false
  | _ => true

/-- The magnitude bits of the largest finite value (R46). -/
def Ty.maxBits : Ty → Nat
  | .e2m1 => 0x7 | .e4m3 => 0x7E | .e5m2 => 0x7B | .bf16 => 0x7F7F | .f16 => 0x7BFF | .f32 => 0x7F7FFFFF
  | .f64 => 0x7FEFFFFFFFFFFFFF
  | _ => 0

/-- The canonical NaN (R49); E2M1 has none. -/
def Ty.canonNan : Ty → Nat
  | .e4m3 => 0x7F | .e5m2 => 0x7F | .bf16 => 0x7FC0 | .f16 => 0x7E00 | .f32 => 0x7FC00000
  | .f64 => 0x7FF8000000000000
  | _ => 0

/-- The least value of an integer type. -/
def Ty.intMin (t : Ty) : Int := if t.isSigned then -(2 ^ (t.bits - 1)) else 0

/-- The greatest value of an integer type. -/
def Ty.intMax (t : Ty) : Int := if t.isSigned then 2 ^ (t.bits - 1) - 1 else 2 ^ t.bits - 1

end Sys2Proof

namespace Sys2Proof.Machine

/-! ## Flags (R55) -/

def flIV : Flags := 0x01
def flDZ : Flags := 0x02
def flOF : Flags := 0x04
def flUF : Flags := 0x08
def flIX : Flags := 0x10
def flSAT : Flags := 0x20
def flSPM : Flags := 0x40

/-! ## Exact values -/

/-- An exact real with a sign of zero, an infinity, or NaN (signalling or quiet). A finite value is ± n / d. -/
inductive FVal where
  | nan (sig : Bool)
  | inf (neg : Bool)
  | fin (neg : Bool) (n d : Nat)
  deriving DecidableEq, Repr

/-- The power 2^e as a fraction's two parts. -/
def pow2 (e : Int) : Nat × Nat := if e < 0 then (1, 2 ^ (-e).toNat) else (2 ^ e.toNat, 1)

/-- The value ± n · 2^e. -/
def FVal.scaled (neg : Bool) (n : Nat) (e : Int) : FVal := .fin neg (n * (pow2 e).1) (pow2 e).2

/-- The sign bit. -/
def FVal.neg? : FVal → Bool
  | .nan _ => false
  | .inf s => s
  | .fin s _ _ => s

/-- Whether it is NaN. -/
def FVal.isNan : FVal → Bool
  | .nan _ => true
  | _ => false

/-- Whether it is a signalling NaN (R49). -/
def FVal.isSig : FVal → Bool
  | .nan s => s
  | _ => false

/-- Whether it is an infinity. -/
def FVal.isInf : FVal → Bool
  | .inf _ => true
  | _ => false

/-- Whether it is a zero. -/
def FVal.isZero : FVal → Bool
  | .fin _ 0 _ => true
  | _ => false

/-- The value with its sign flipped. -/
def FVal.negate : FVal → FVal
  | .nan s => .nan s
  | .inf s => .inf !s
  | .fin s n d => .fin (!s) n d

/-- The magnitude. -/
def FVal.abs : FVal → FVal
  | .nan s => .nan s
  | .inf _ => .inf false
  | .fin _ n d => .fin false n d

/-- The signed numerator. -/
def snum (neg : Bool) (n : Nat) : Int := if neg then -(n : Int) else (n : Int)

/-- Numeric order x < y of two values that are no NaN; −0 equals +0. -/
def FVal.lt : FVal → FVal → Bool
  | .fin s n d, .fin s' n' d' => decide (snum s n * d' < snum s' n' * d)
  | .inf s, .inf s' => s && !s'
  | .inf s, _ => s
  | _, .inf s' => !s'
  | _, _ => false

/-- Numeric equality of two values that are no NaN; −0 equals +0. -/
def FVal.eq : FVal → FVal → Bool
  | .fin s n d, .fin s' n' d' => decide (snum s n * d' = snum s' n' * d)
  | .inf s, .inf s' => s == s'
  | _, _ => false

/-- The exact value of an integer. -/
def FVal.ofInt (i : Int) : FVal := .fin (decide (i < 0)) i.natAbs 1

/-! ## Reading a lane -/

/-- The integer a lane of an integer type holds: two's complement for .i, unsigned for .n (R50). -/
def intOf (t : Ty) (b : Nat) : Int :=
  if t.isSigned && decide (2 ^ (t.bits - 1) ≤ b) then (b : Int) - 2 ^ t.bits else b

/-- The value a floating lane holds (R46, R49); an integer type has none, and zero stands for it. -/
def floatOf (t : Ty) (b : Nat) : FVal :=
  if t.isInt then .scaled false 0 0
  else
  let m := t.mant
  let neg := b / 2 ^ (t.bits - 1) % 2 == 1
  let mag := b % 2 ^ (t.bits - 1)
  let ex := mag / 2 ^ m
  let fr := mag % 2 ^ m
  let top := 2 ^ (t.bits - 1 - m) - 1
  if t == .e4m3 then
    if mag == 0x7F then .nan false
    else if ex == 0 then .scaled neg fr (-9) else .scaled neg (8 + fr) ((ex : Int) - 10)
  else if t != .e2m1 && ex == top then
    if fr == 0 then .inf neg else .nan (t.isF && decide (fr < 2 ^ (m - 1)))
  else if ex == 0 then .scaled neg fr (1 - (t.bias : Int) - m)
  else .scaled neg (2 ^ m + fr) ((ex : Int) - t.bias - m)

/-- The exact value of a lane of any type. -/
def valOf (t : Ty) (b : Nat) : FVal := if t.isInt then .ofInt (intOf t b) else floatOf t b

/-! ## RoundTo (R52) and Saturate (R57) -/

/-- An integer wrapped to the bits of a type (R50). -/
def wrapInt (t : Ty) (i : Int) : Nat := (i % 2 ^ t.bits).toNat

/-- Saturate of R57, as the bits of the type and the SAT flag. -/
def saturate (t : Ty) (i : Int) : Nat × Flags :=
  if i < t.intMin then (wrapInt t t.intMin, flSAT)
  else if t.intMax < i then (wrapInt t t.intMax, flSAT)
  else (wrapInt t i, 0)

/-- Pick of R52 on x = i + rem / d in units of u, with 0 < rem < d: the integer chosen between i and i + 1. -/
def pick (mode : Rnd) (draw : Nat) (neg : Bool) (i : Int) (rem d : Nat) : Int :=
  match mode with
  | .rne => if 2 * rem < d then i else if d < 2 * rem then i + 1 else if i % 2 = 0 then i else i + 1
  | .rtz => if neg then i + 1 else i
  | .rup => i + 1
  | .rdn => i
  | .sr => if draw < rem * 65536 / d then i + 1 else i

/-- The value ± n / d rounded to an integer, and whether it was inexact. -/
def roundInt (mode : Rnd) (draw : Nat) (neg : Bool) (n d : Nat) : Int × Bool :=
  let i := snum neg n / (d : Int)
  let rem := (snum neg n % (d : Int)).toNat
  if rem = 0 then (i, false) else (pick mode draw neg i rem d, true)

/-- floor(log2 (n / d)) for n, d > 0. -/
def floorLog2 (n d : Nat) : Int :=
  let k : Int := (Nat.log2 n : Int) - (Nat.log2 d : Int)
  if n * (pow2 (-k)).1 < d * (pow2 (-k)).2 then k - 1 else k

/-- The bits of a sign and a magnitude. -/
def signBits (t : Ty) (neg : Bool) (mag : Nat) : Nat := if neg then 2 ^ (t.bits - 1) + mag else mag

/-- The bits of an infinity. -/
def infBits (t : Ty) (neg : Bool) : Nat := signBits t neg (t.maxBits + 1)

/-- RoundTo of R52 for a nonzero finite value into a floating format. -/
def roundFin (t : Ty) (mode : Rnd) (draw : Nat) (neg : Bool) (n d : Nat) : Nat × Flags :=
  let emin : Int := 1 - (t.bias : Int)
  let e := max (floorLog2 n d) emin
  let s := e - t.mant
  let r := roundInt mode draw neg (n * (pow2 (-s)).1) (d * (pow2 (-s)).2)
  let k := r.1.natAbs
  let mag := (e - emin).toNat * 2 ^ t.mant + k
  let ix : Flags := if r.2 then flIX else 0
  if t.maxBits < mag then
    if t == .e2m1 || t == .e4m3 then (signBits t neg t.maxBits, ix ||| flSAT)
    else if mode == .rtz || (mode == .rup && neg) || (mode == .rdn && !neg) then
      (signBits t neg t.maxBits, ix ||| flOF)
    else (infBits t neg, ix ||| flOF)
  else if r.2 && decide (mag < 2 ^ t.mant) then (signBits t neg mag, ix ||| flUF)
  else (signBits t neg mag, ix)

/-- RoundTo (R52): the bits of the result in type `t` and the flags set. `draw` is the value Draw() returns, used by SR
only. -/
def roundTo (t : Ty) (mode : Rnd) (draw : Nat) (x : FVal) : Nat × Flags :=
  if t.isInt then
    match x with
    | .nan _ => (0, flIV)
    | .inf neg => (wrapInt t (if neg then t.intMin else t.intMax), flSAT)
    | .fin neg n d =>
      let r := roundInt mode draw neg n d
      let y := saturate t r.1
      (y.1, if r.2 then y.2 ||| flIX else y.2)
  else
    match x with
    | .nan _ => if t == .e2m1 then (0, flIV) else (t.canonNan, 0)
    | .inf neg => if t.hasInf then (infBits t neg, 0) else (signBits t neg t.maxBits, flSAT)
    | .fin neg 0 _ => (signBits t neg 0, 0)
    | .fin neg n d => roundFin t mode draw neg n d

/-- RoundTo with RNE. -/
def rne (t : Ty) (x : FVal) : Nat × Flags := roundTo t .rne 0 x

/-! ## Sums and products (R57) -/

/-- Two finite values added. Zeros of one sign give that zero, and every other zero sum is +0 (R52); `rdn` makes it −0. -/
def addFin (rdn : Bool) (s : Bool) (n d : Nat) (s' : Bool) (n' d' : Nat) : FVal :=
  let g := Nat.gcd d d'
  let den := d / g * d'
  let i := snum s (n * (d' / g)) + snum s' (n' * (d / g))
  if i = 0 then .fin (if n = 0 ∧ n' = 0 ∧ s = s' then s else rdn) 0 1
  else .fin (decide (i < 0)) i.natAbs den

/-- One term added to a running exact sum, with IV for a signalling NaN and for +∞ with −∞. -/
def addTerm (rdn : Bool) (a : FVal × Flags) (x : FVal) : FVal × Flags :=
  let f := if x.isSig then a.2 ||| flIV else a.2
  match a.1, x with
  | .nan _, _ => (.nan false, f)
  | _, .nan _ => (.nan false, f)
  | .inf s, .inf s' => if s = s' then (.inf s, f) else (.nan false, f ||| flIV)
  | .inf s, .fin .. => (.inf s, f)
  | .fin .., .inf s => (.inf s, f)
  | .fin s n d, .fin s' n' d' => (addFin rdn s n d s' n' d', f)

/-- Whether the list holds both infinities: then the sum is invalid whatever NaN it meets first (R57). -/
def bothInf (l : List FVal) : Bool := l.any (· == .inf true) && l.any (· == .inf false)

/-- ExactSum of R57. -/
def exactSum : List FVal → FVal × Flags
  | [] => (.fin false 0 1, 0)
  | x :: l =>
    let r := l.foldl (addTerm false) (match x with | .nan s => (.nan false, if s then flIV else 0) | _ => (x, 0))
    if bothInf (x :: l) then (.nan false, r.2 ||| flIV) else r

/-- The exact product (R57): 0 × ∞ is NaN and sets IV, and so does a signalling NaN operand. -/
def mulVal (x y : FVal) : FVal × Flags :=
  let f : Flags := if x.isSig || y.isSig then flIV else 0
  match x, y with
  | .nan _, _ => (.nan false, f)
  | _, .nan _ => (.nan false, f)
  | .inf s, .inf s' => (.inf (s != s'), f)
  | .inf s, .fin s' n _ => if n = 0 then (.nan false, f ||| flIV) else (.inf (s != s'), f)
  | .fin s n _, .inf s' => if n = 0 then (.nan false, f ||| flIV) else (.inf (s != s'), f)
  | .fin s n d, .fin s' n' d' => (.fin (s != s') (n * n') (d * d'), f)

/-! ## The generator (R53) -/

/-- One advance of the generator state. -/
def drawNext (s : Word) : Word :=
  let s1 := s ^^^ (s <<< 13)
  let s2 := s1 ^^^ (s1 >>> 7)
  s2 ^^^ (s2 <<< 17)

/-- The 16 bits Draw returns of the advanced state. -/
def drawBits (s : Word) : Nat := s.toNat / 65536 % 65536

/-- The state after `n` draws. -/
def drawSkip (s : Word) : Nat → Word
  | 0 => s
  | n + 1 => drawSkip (drawNext s) n

/-- A write of SRSEED: zero stores the reset value (R54). -/
def seedWrite (v : Word) : Word := if v = 0 then 0x9E3779B97F4A7C15 else v

end Sys2Proof.Machine
end

