-- ==== Sys2Proof/Machine/Tbl.lean ====
section
/-! DEFINITION. Sparse tables by number: a sorted list of (number, value) pairs. An entry that is not listed reads as
a default the reader names. Registers, contexts, cores, rows and every die-wide table are held this way. -/

namespace Sys2Proof.Machine

/-- Entries by number, in rising order of the number. -/
abbrev Tbl (α : Type) := List (Nat × α)

/-- The value at `k`, or `dflt` when nothing is listed there. -/
def tget {α : Type} (dflt : α) : Tbl α → Nat → α
  | [], _ => dflt
  | (j, v) :: t, k => if k = j then v else tget dflt t k

/-- The table with `v` at `k`. -/
def tput {α : Type} : Tbl α → Nat → α → Tbl α
  | [], k, v => [(k, v)]
  | (j, w) :: t, k, v =>
    if k = j then (k, v) :: t
    else if k < j then (k, v) :: (j, w) :: t
    else (j, w) :: tput t k v

/-- The value listed at `k`, when one is. -/
def tfind {α : Type} : Tbl α → Nat → Option α
  | [], _ => none
  | (j, v) :: t, k => if k = j then some v else tfind t k

/-- Whether `k` is listed. -/
def thas {α : Type} : Tbl α → Nat → Bool
  | [], _ => false
  | (j, _) :: t, k => if k = j then true else thas t k

/-- The table without the entry at `k`. -/
def tdel {α : Type} : Tbl α → Nat → Tbl α
  | [], _ => []
  | (j, w) :: t, k => if k = j then t else (j, w) :: tdel t k

end Sys2Proof.Machine
end

