-- ==== Sys2Proof/Machine/State.lean ====
section
/-! DEFINITION. The whole state of one SCX-16 package as plain data: its contexts, cores and dies, its memory and
program store, the messages on its mesh and ports, and what the tick keeps to say which step comes next. Every name
follows the rule of spec/ that names the thing. -/

namespace Sys2Proof.Machine

/-- The trap causes of R325 that TRAPINFO reports. -/
inductive Cause where
  | illegalOpcode | illegalBundle | illegalType | delaySlot | regRange | privilege | addrClass | align
  | matrixBank | arith | viewRange | viewWiden | viewStale | chanStall | trapi
  deriving DecidableEq, Repr

/-- The cause codes of R325. -/
def Cause.code : Cause → Nat
  | illegalOpcode => 0x01 | illegalBundle => 0x02 | illegalType => 0x03 | delaySlot => 0x04
  | regRange => 0x05 | privilege => 0x06 | addrClass => 0x07 | align => 0x08 | matrixBank => 0x09
  | arith => 0x0A | viewRange => 0x0B | viewWiden => 0x0C | viewStale => 0x0D | chanStall => 0x0E | trapi => 0x0F

/-- A trap as TRAPINFO and TRAPADDR report it (R323, R324). -/
structure Trap where
  cause : Cause
  slot : Nat
  detail : Nat
  addr : Word
  deriving DecidableEq, Repr

/-- The issue slots (R25, R324). -/
inductive Slot where
  | hdr | x | va | vb | m | l | s | c | y
  deriving DecidableEq, Repr

/-- The SLOT codes of R324. -/
def Slot.code : Slot → Nat
  | hdr => 0 | x => 1 | va => 2 | vb => 3 | m => 4 | l => 5 | s => 6 | c => 7 | y => 8

/-- What a result is written to at the end of its latency (R75, R322): a scalar, a predicate, a physical row of the
core, nothing but flags, a special register (an MTS, R77), a handle's OUT (R182), or OUT, LOC and REM of a command that is
complete when accepted (R253). `under` is a row whose tile a matrix operation held at its issue, the number of the command
accepted next then: its write comes after that operation (R78, R99). `nib` is the 4-bit elements of a row that a mask names,
bit j for element j, `under` a matrix operation when a number is given (R112, R118). -/
inductive Dest where
  | sreg (n : Nat) | kreg (n : Nat) | row (n : Nat) | under (n id : Nat) | nib (n mask : Nat) (id : Option Nat) | none | special (n : Nat) | out (h : Nat) | whole (h : Nat)
  deriving DecidableEq, Repr

/-- A register result in flight or in a shadow latch (R322). `left` is the count r: the result is written at the end
of the cycle in which it is 1, and one at 0 waits for a matrix operation (R78). For a row, bit i of the mask enables byte i; for a predicate, bit i. `acq` marks the
result of an acquire load, which holds its context's next bundle (R301). -/
structure Result where
  dest : Dest
  val : Row
  mask : Pred
  flags : Flags
  left : Nat
  src : Slot
  acq : Bool
  deriving DecidableEq, Repr

/-- A hardware loop counter: LC, LS, LE and LA (R90). -/
structure LoopSt where
  lc : Word
  ls : Word
  le : Word
  la : Bool
  deriving DecidableEq, Repr

/-- What happens when a control transfer takes effect (R89 to R95). -/
inductive XferKind where
  | jump (target : Word) | fall | trapi (code : Nat) (link : Word) | eret
  deriving DecidableEq, Repr

/-- A control transfer that has issued, with the delay bundles still to issue (R89). -/
structure Xfer where
  kind : XferKind
  delay : Nat
  deriving DecidableEq, Repr

/-- A completion handle (R182). -/
structure Handle where
  out : Nat
  loc : Nat
  rem : Nat
  bytes : Nat
  err : Nat
  deriving DecidableEq, Repr

/-- The shadow configuration set (R126). -/
structure Shadow where
  aaddr : BitVec 32
  baddr : BitVec 32
  maddr : BitVec 32
  saddr : BitVec 32
  k : BitVec 32
  astr : BitVec 32
  bstr : BitVec 32
  banda : BitVec 16
  bandb : BitVec 16
  deriving DecidableEq, Repr

/-- The auction configuration set (R341). -/
structure Auction where
  eps : BitVec 32
  rounds : BitVec 32
  phases : BitVec 4
  div : BitVec 32
  init : BitVec 2
  deriving DecidableEq, Repr

/-- The continuation a TSUSP names (R191): its kind (0 .l, 1 .r, 2 .m), the handle or match entry, LIVE and PC. -/
structure Susp where
  kind : Nat
  obj : Nat
  live : Word
  pc : Word
  deriving DecidableEq, Repr

/-- Whether a context is free, holds a task, is leaving it by TEXIT or TSUSP (R192), is stopping by PREEMPT.self
(R333), is stopped (STATE 0, 1 or 2 of R335) or is being killed (R330). -/
inductive CtxSt where
  | free | running | leaving (susp : Option Susp) | ending | stopped (st : Nat) | dying (reason : Nat)
  deriving DecidableEq, Repr

/-- Where a command's completion is reported: its context and task, its handle, and the core semaphore signalled at
completion with its increment (R40, R182). -/
structure Done where
  ctx : Nat
  task : Nat
  hnd : Option Nat
  sig : Option (Nat × Nat)
  deriving DecidableEq, Repr

/-- A pending pre-emption request (R333): the unfrozen cycles left (R22), the clock of the cycle in which it was made, and the
PREEMPT that made it: its number, its status register and its completion. -/
structure Preempt where
  left : Nat
  since : Nat
  waiter : Option (Nat × Nat × Done)
  deriving DecidableEq, Repr

/-- A W instruction that has issued and holds its context until it completes (R259, R260, R262). -/
inductive HeldOp where
  | fence | compl | unlock
  deriving DecidableEq, Repr

/-- The instruction a context is held by: which, the window, the status register, the place of an unlock with whether its
release has been sent, and its completion. -/
structure Held where
  op : HeldOp
  win : Nat
  c : Nat
  place : Nat
  sent : Bool
  done : Done
  deriving DecidableEq, Repr

/-- The question of a blocked TJOBQ (R200), by its number, with its answer once it has arrived. -/
structure Ask where
  subj : Nat
  answer : Option Nat
  deriving DecidableEq, Repr

/-- One hardware context (R16, R81 to R83, R126, R181, R322 to R324, R341). `aqid` is its most recent AGO (R350). `wdown` lists the places that have gone down
while its bundle is blocked by a window instruction (R265); `before` the remote commands and channel puts of its task that
were under way when it was dispatched or restored (R267, R304); `blocked` says that its bundle was blocked when it was last judged; `synced` is the clock when it last passed a wait or issued a read
(R298, R299). -/
structure Ctx where
  st : CtxSt
  task : Nat
  job : Nat
  pc : Word
  idle : Nat
  lastPc : Word
  xfer : Option Xfer
  sregs : Tbl Word
  kregs : Tbl Pred
  lc0 : LoopSt
  lc1 : LoopSt
  side0 : LoopSt
  side1 : LoopSt
  hnd : Tbl Handle
  flags : Flags
  trapen : Flags
  srseed : Word
  fmt : Tbl (BitVec 32)
  sh : Shadow
  mshad : Bool
  rlabel : Option Word
  keep : BitVec 16
  vbase : Nat
  vlim : Nat
  sbase : Nat
  slim : Nat
  wcur : Option Nat
  ord : BitVec 16
  au : Auction
  aqid : Option Nat
  aqcode : Nat
  aqrounds : Nat
  trappc : Word
  trapaddr : Word
  cause : Nat
  tslot : Nat
  detail : Nat
  sscr : Tbl Word
  sup : Bool
  inflight : List Result
  latches : List Result
  resuming : Bool
  aging : Nat
  due : Bool
  pre : Option Preempt
  stall : Nat
  vwSeq : Nat
  held : Option Held
  ask : Option Ask
  wdown : Option (List Nat)
  synced : Nat
  before : List Nat
  blocked : Bool
  deriving DecidableEq, Repr

/-- One update of a core semaphore made in the current cycle (R173). -/
inductive SemUpd where
  | sub (n t : Nat) | set (n v : Nat) | add (n a : Nat)
  deriving DecidableEq, Repr

/-- The matrix operations that take an engine slot (R131). -/
inductive MatKind where
  | mma | mmas | mmac | mzero
  deriving DecidableEq, Repr

/-- A matrix operation holding an engine slot (R131 to R136): its tile as a physical row, its format entry and its
copy of the shadow set; the cycle in which it began to stream, the old rows of its tile as it did (R133), memory as it stood
before that cycle, and the writes to its unit pad while it streamed, in their order, which its beats can have read (R134).
`sees` is the cycle of its issue and how many writes of that cycle its bundle has waited for (R298). -/
structure MatOp where
  kind : MatKind
  ctx : Nat
  tile : Nat
  tnum : Nat
  eidx : Nat
  entry : BitVec 32
  acc : Bool
  sh : Shadow
  stream : Nat
  start : Option Nat
  olds : List Row
  base : List Host.Cell
  writes : List (Nat × List Byte)
  sees : Nat × Nat
  shadow : Bool
  opnum : Nat
  id : Nat
  done : Done
  deriving DecidableEq, Repr

/-- A command accepted into a copy queue (R156): the operation, its operand values, the row it has come to, the bytes of
that row read and written and those read and not yet written, the row's index entry once read (R166) or a CSEND's slot once
its permit is taken (R278), when a CSEND came to the head of its queue (R282), the fault token
that holds it (R210) and its pins (R233). -/
structure CopyCmd where
  id : Nat
  op : Instr
  vd : Nat
  a : Word
  b : Word
  c : Word
  e : Word
  bar : Word
  row : Nat
  rd : Nat
  wr : Nat
  buf : List Byte
  idx : Option Int
  headAt : Option Nat
  hold : Option Nat
  pins : List (Nat × Nat)
  done : Done
  deriving DecidableEq, Repr

/-- A range-scoreboard entry (R162): the command and the home addresses it covers. -/
structure Score where
  id : Nat
  lo : Nat
  hi : Nat
  deriving DecidableEq, Repr

/-- One entry of the deferred-store log (R211). `q` is 4 for get data, and `row` the row of its command. -/
structure LogBeat where
  id : Nat
  q : Nat
  row : Nat
  vd : Nat
  va : Nat
  data : List Byte
  token : Nat
  deriving DecidableEq, Repr

/-- A command in a core's remote queue (R251), or a channel put that has left its copy queue (R278): its operands, its key,
its flow, class, tag and the ORD bit of its flow as it was accepted, for a channel put as it was taken (R268, R271), the source bytes read so far (for a cas its comparand), the pad banks that the read of its comparand has
still to take (R146) and the token that holds it. For a channel put, `seq` is its slot's sequence number and `chan` the receiver's channel. -/
structure RemCmd where
  id : Nat
  op : Instr
  vd : Nat
  place : Nat
  a : Word
  b : Word
  c : Word
  gv : Bool
  gen : Nat
  win : Nat
  flow : Nat
  tc : Nat
  tag : Nat
  rel : Bool
  ord : Bool
  buf : List Byte
  owed : List Nat
  chan : Nat
  seq : Nat
  hold : Option Nat
  done : Done
  deriving DecidableEq, Repr

/-- A late access (R78): the operation, its context and slot, the registers and rows its bundle read, how often it was passed
over (R146), the number of the command accepted next when its bundle issued, the bytes it has still to access and those it
has read (R151). -/
structure Late where
  ctx : Nat
  slot : Slot
  op : Instr
  sregs : Tbl Word
  kregs : Tbl Pred
  rows : Tbl Row
  seed : Word
  passed : Nat
  mark : Nat
  touch : List (Nat × Nat)
  got : List Host.Cell
  deriving DecidableEq, Repr

/-- One core (R66, R96, R124, R156, R162, R172, R211, R251). `beatAt` is the clock of its copy engine's last beat
and `beatQ` the queue it served. -/
structure Core where
  rows : Tbl Row
  sems : Tbl Nat
  semUpd : List SemUpd
  shadn : BitVec 16
  shcount : Nat
  opnum : Nat
  act : Option MatOp
  pend : Option MatOp
  shadq : List (Nat × List Byte)
  q : Tbl (List CopyCmd)
  score : List Score
  log : List LogBeat
  remote : List RemCmd
  late : List Late
  freeze : Bool
  beatAt : Option Nat
  beatQ : Nat
  deriving DecidableEq, Repr

/-- A TLB entry (R208, R209): virtual device, level, the page's first VA, the HBM offset of the leaf, and the leaf as the
walk read it. -/
structure TlbE where
  vd : Nat
  lvl : Nat
  va : Nat
  pte : Nat
  leaf : Word
  deriving DecidableEq, Repr

/-- A frame in a tier's pool (R214): tier, size code and first 64 KiB unit. -/
structure PoolFrame where
  tier : Nat
  size : Nat
  frame : Nat
  deriving DecidableEq, Repr

/-- What a fault token holds (R210, R211, R345): a copy queue, a logged page, or the Apex engine. -/
inductive FaultOf where
  | queue (core q : Nat) | page (core vd va : Nat) | apex
  deriving DecidableEq, Repr

/-- A MIGR command in the migration queue (R221). -/
structure MigrCmd where
  id : Nat
  vd : Nat
  va : Nat
  len : Nat
  tier : Nat
  slotAddr : Nat
  next : Nat
  moved : Nat
  there : Nat
  skipped : Nat
  done : Done
  deriving DecidableEq, Repr

/-- A view-table entry (R229). -/
structure View where
  gen : Nat
  live : Bool
  vd : Nat
  region : Nat
  lo : Nat
  hi : Nat
  deriving DecidableEq, Repr

/-- A hull region record (R238): its first VA and length, and for each granule its coverage count, pin count and
whether it still has its page (R233 to R235). -/
structure Region where
  live : Bool
  vd : Nat
  base : Nat
  len : Nat
  cover : Tbl Nat
  pins : Tbl Nat
  freed : Tbl Bool
  deriving DecidableEq, Repr

/-- A queued coverage delta (R234): which granules of a region, and up or down. -/
structure Delta where
  seq : Nat
  region : Nat
  up : Bool
  granules : List Nat
  deriving DecidableEq, Repr

/-- The states of a fence window (R258). -/
inductive FenceSt where
  | isOpen | closing (close : Bool) | final
  deriving DecidableEq, Repr

/-- A window-table entry with its mode state (R243, R258, R260, R261). `downs` lists the members that the fence or the
WCOMPL under way has stopped waiting for (R265); `ends` the targets whose access epochs a WCOMPL ends; `early` the commands
accepted before the fence or WCOMPL under way that have still to leave, and `told` says that its counts have been sent. -/
structure Win where
  live : Bool
  closing : Bool
  gen : Nat
  vd : Nat
  base : Word
  len : Nat
  view : Bool
  group : Nat
  mode : Nat
  rights : Nat
  n : Nat
  fst : FenceSt
  sent : Tbl Nat
  recv : Tbl Nat
  recvNext : Tbl Nat
  ann : Tbl Nat
  annNext : Tbl Nat
  stamped : List Nat
  downs : List Nat
  ends : List Nat
  early : List Nat
  told : Bool
  xn : Nat
  exposing : Bool
  exposed : Nat
  compl : Tbl Nat
  ax : Tbl Nat
  posts : Tbl Nat
  holders : List (Nat × Nat)
  excl : Bool
  deriving DecidableEq, Repr

/-- Where the task of a record is, when it is running (R193, R337). -/
inductive TaskAt where
  | nowhere | onCtx (ctx : Nat) | saved (image : Nat)
  deriving DecidableEq, Repr

/-- A task record (R184 to R186). `since` orders ready tasks, `waited` is the clock from which the wait for promotion counts (R23); `armed` names
the barrier in whose armed list the record is linked (R180); `origin` the die from which it was imported, whose number its
saved image carries (R360, R361); `vwSeq` the deltas that the context of a saved task had queued (R241). -/
structure Rec where
  gen : Nat
  vd : Nat
  st : Nat
  pc : Word
  live : BitVec 64
  vals : List Word
  dep : Nat
  aff : Nat
  job : Nat
  prio : Nat
  rows : Nat
  sems : Nat
  wkind : Nat
  link : Nat
  himg : Handle
  hnum : Nat
  wobj : Nat
  at_ : TaskAt
  armed : Option Nat
  since : Nat
  level : Nat
  waited : Nat
  origin : Option Nat
  vwSeq : Nat
  deriving DecidableEq, Repr

/-- A remote spawn whose acknowledgement has not come (R189): its number, job and completion. -/
structure SpawnOut where
  id : Nat
  vd : Nat
  job : Nat
  done : Done
  deriving DecidableEq, Repr

/-- A job-table entry (R197 to R199). `wave` is what the last wave found at the members, when one was taken. -/
structure Job where
  num : Nat
  vd : Nat
  part : Int
  chg : Nat
  disc : Nat
  cancel : Bool
  mask : Nat
  wave : Option (Nat × List (Int × Nat))
  sumDisc : Nat
  done : Bool
  deriving DecidableEq, Repr

/-- What an arrival match entry does when it fires (R195). -/
inductive MatchAct where
  | decr (task : Nat) | sem (core n : Nat)
  deriving DecidableEq, Repr

/-- An arrival match entry (R195, R196). -/
structure Match where
  armed : Bool
  win : Nat
  tag : Nat
  count : Nat
  got : Nat
  act : MatchAct
  deriving DecidableEq, Repr

/-- A channel entry's state (R275 to R281). `filled` lists the sequence numbers of filled slots. -/
structure Chan where
  role : Nat
  vd : Nat
  ty : Nat
  peer : Nat
  peerch : Nat
  eps : Nat
  depth : Nat
  ring : Word
  key : Nat
  permits : Nat
  seq : Nat
  head : Nat
  ret : Nat
  filled : List Nat
  deriving DecidableEq, Repr

/-- The permit audit of a port (R285). STATE is 0 idle, 1 running, 2 passed, 3 failed. `got` lists the return numbers of the
permits received since it began, `back` the number of returns that BACK reported. -/
structure Audit where
  st : Nat
  ch : Nat
  p : Nat
  sseq : Nat
  got : List Nat
  k : Nat
  d : Nat
  f : Nat
  back : Option Nat
  deriving DecidableEq, Repr

/-- A permit that waits for the earlier commands of a task (R281). -/
structure PermitWait where
  task : Nat
  ch : Nat
  num : Nat
  waits : List Nat
  deriving DecidableEq, Repr

/-- A command in the Apex queue (R339, R343). -/
structure AgoCmd where
  id : Nat
  vd : Nat
  cfg : Auction
  desc : Word
  stat : Word
  done : Done
  deriving DecidableEq, Repr

/-- An auction under way (R342, R346): its sizes and addresses, the capacities, the stranded rows, ε, the rounds and phases
so far, and by column the base prices, prices and holders with their bids; `asg` gives the column of each assigned row. The
`out` fields are what the last completed round left (R347). -/
structure Auc where
  r : Nat
  c : Nat
  w : Nat
  score : Word
  sstr : Nat
  priceA : Word
  assignA : Word
  fillA : Word
  caps : List Nat
  stranded : List Nat
  eps : Nat
  rounds : Nat
  ph : Nat
  base : Tbl Nat
  price : Tbl Nat
  held : Tbl (List (Nat × Nat))
  asg : Tbl Nat
  outPrice : Tbl Nat
  outHeld : Tbl (List (Nat × Nat))
  outAsg : Tbl Nat
  deriving DecidableEq, Repr

/-- How far the running command has come: its inputs are read, its rounds run, or its outputs are written, with the status
record still to come, or it has written that and ends with the cycle (R339, R345 to R347). -/
inductive AgoStage where
  | start | rounds (a : Auc) | writes (l : List (Word × List Byte)) (status : List Byte) (code rounds : Nat)
  | ended (code rounds : Nat)
  deriving DecidableEq, Repr

/-- The command the Apex engine runs: when it started, how far it has come, the beats that it has read at this point in
order, and the fault that holds it (R345). -/
structure AgoRun where
  cmd : AgoCmd
  start : Nat
  stage : AgoStage
  got : List (List Byte)
  hold : Option Nat
  deriving DecidableEq, Repr

/-- The four kinds of request that name a window (R250), and slot puts and reduction results (R279, R289). -/
inductive ReqKind where
  | get | put | acc (op : AccOp) (t : Ty) | amo (op : AmoOp) (t : Ty) | slot (ch seq : Nat) | result
  deriving DecidableEq, Repr

/-- A request on its way to a target port (R256, R267). A stamp's kind is 0 none, 1 fence, 2 post. `prog` is how many of
its bytes the target has performed once it has passed R257, for the virtual device `vd` under `pins`. -/
structure Req where
  id : Nat
  kind : ReqKind
  src : Nat
  ctx : Nat
  task : Nat
  flow : Nat
  inc : Nat
  seq : Nat
  ordered : Bool
  gv : Bool
  gen : Nat
  win : Nat
  skind : Nat
  stamp : Nat
  tag : Nat
  tc : Nat
  addr : Word
  count : Nat
  data : List Byte
  cmp : Nat
  prog : Option Nat
  vd : Nat
  pins : List (Nat × Nat)
  deriving DecidableEq, Repr

/-- What a message carries between places, switches and the host. A response has the class of its request (R273). -/
inductive Body where
  | req (r : Req)
  | retry (r : Req) (at_ : Nat)
  | ack (id err bytes tc : Nat)
  | data (id : Nat) (bytes : List Byte) (tc : Nat)
  | spawn (image : List Byte) (id vd : Nat)
  | spawnAck (id job : Nat)
  | tdep (task n : Nat)
  | cancel (job vd : Nat)
  | join (job die vd : Nat)
  | jobDone (job : Nat)
  | jobAsk (job ctx id : Nat)
  | jobAnswer (ctx id v : Nat)
  | announce (win epoch count : Nat)
  | post (win xn : Nat)
  | complete (win count : Nat)
  | lockReq (win ctx task : Nat) (ex : Bool)
  | lockBusy (win ctx task : Nat) (ex : Bool) (at_ : Nat)
  | lockGrant (win ctx task status : Nat)
  | lockRel (win ctx task : Nat)
  | relAck (win ctx task status : Nat)
  | permit (ch num : Nat)
  | mark (ch sseq : Nat)
  | back (ch ri f d : Nat)
  | contrib (grp off tag op ty count : Nat) (data : List Byte)
  | redFail (grp off tag : Nat)
  | hostEvent (addr : Nat) (record : List Byte)
  deriving DecidableEq, Repr

/-- A message in flight, from place to place (R245). -/
structure Msg where
  src : Nat
  dst : Nat
  body : Body
  deriving DecidableEq, Repr

/-- A request that has left the port and is not yet remotely complete (R255): where its data lands and how much of it has,
whether it has been counted locally complete, and when it left. For an XRED, `win` is the group, `landing` the offset and
`flow` the tag of its key (R289). -/
structure Outst where
  id : Nat
  op : Instr
  place : Nat
  ctx : Nat
  flow : Nat
  win : Nat
  bytes : Nat
  landing : Word
  landed : Nat
  vd : Nat
  counted : Bool
  sentAt : Nat
  done : Done
  deriving DecidableEq, Repr

/-- A flow-table entry at the source port (R267). -/
structure FlowE where
  ctx : Nat
  flow : Nat
  place : Nat
  inc : Nat
  next : Nat
  deriving DecidableEq, Repr

/-- What the destination port knows of a flow's incarnation: the lowest sequence number not yet performed or rejected, and
those above it that have been (R268). -/
structure FlowIn where
  src : Nat
  ctx : Nat
  flow : Nat
  inc : Nat
  next : Nat
  seen : List Nat
  deriving DecidableEq, Repr

/-- A locker waiting in the port's lock queue (R261). -/
structure LockWait where
  win : Nat
  place : Nat
  ctx : Nat
  task : Nat
  ex : Bool
  deriving DecidableEq, Repr

/-- The lock request of a task whose WLOCK has not issued (R262): its window and target, and its answer once it has arrived. -/
structure LockAsk where
  task : Nat
  win : Nat
  place : Nat
  answer : Option Nat
  deriving DecidableEq, Repr

/-- An event in the port's event queue (R357): its record and the earlier remote commands it waits for. -/
structure EvCmd where
  id : Nat
  vd : Nat
  record : List Byte
  after : List Nat
  done : Done
  deriving DecidableEq, Repr

/-- A fault record that waits for room (R328). -/
structure HeldRec where
  bytes : List Byte
  deriving DecidableEq, Repr

/-- What an update asks of a barrier unit (R178 to R180). -/
inductive BarOp where
  | init (count : Nat) | arrive (n : Nat) | expect (n : Nat) | arm (task parity : Nat)
  deriving DecidableEq, Repr

/-- One update on its way to a barrier unit (R176): the context it comes from, the object's home address, the clock at its
acceptance, the number of the command accepted next, and the clock at which its context, as it sent it, had last passed a wait
or issued a read (R298). -/
structure BarUpd where
  src : Nat
  key : Nat
  op : BarOp
  at_ : Nat
  seq : Nat
  seen : Nat
  deriving DecidableEq, Repr

/-- A kill in progress on a context (R330): the commands and matrix operations the task had, those discarded so far, the
log entries discarded and the pins to release. -/
structure KillCount where
  ctx : Nat
  task : Nat
  reason : Nat
  total : Nat
  discarded : Nat
  logs : Nat
  pins : List (Nat × Nat)
  deriving DecidableEq, Repr

/-- A machine check whose killed contexts have not all ended (R331): DETAIL, the cluster, core and context of its PLACE, the
chunk, the mask of contexts killed, the contexts still ending with their tasks, and DONE and DISCARDED so far. -/
structure Check where
  detail : Nat
  cl : Nat
  co : Nat
  cx : Nat
  addr : Nat
  mask : Nat
  left : List (Nat × Nat)
  ended : Nat
  discarded : Nat
  deriving DecidableEq, Repr

/-- A reset under way (R358): its scope, 1 a core to 4 a die, the virtual device that made it and its target. -/
structure ResetReq where
  scope : Nat
  vd : Nat
  target : Nat
  deriving DecidableEq, Repr

/-- What one die owns besides its registers and memory. -/
structure Die where
  cycle0 : Nat
  nclus : Nat
  tlb : List TlbE
  pool : List PoolFrame
  faults : Tbl FaultOf
  nextTok : Nat
  migrQ : List MigrCmd
  coldFell : Bool
  demoting : List Nat
  views : Tbl View
  regions : Tbl Region
  hfree : List Nat
  deltas : List Delta
  deltaSeq : Nat
  wins : Tbl Win
  recs : Tbl Rec
  schedSeq : Nat
  resv : Tbl Nat
  spawns : List SpawnOut
  jobs : List Job
  matches_ : Tbl Match
  chans : Tbl Chan
  audit : Audit
  auditAt : Option Nat
  permitWaits : List PermitWait
  apexQ : List AgoCmd
  apexRun : Option AgoRun
  heldRecs : List HeldRec
  halted : Bool
  outq : List RemCmd
  outst : List Outst
  resend : List (Nat × Req)
  flows : List FlowE
  flowsIn : List FlowIn
  rob : List Req
  credit : Tbl Nat
  used : Tbl Nat
  lockQ : List LockWait
  lockAsks : List LockAsk
  evQ : List EvCmd
  down : List Nat
  barQ : List BarUpd
  deadVds : List Nat
  kills : List KillCount
  checks : List Check
  quote : Bool
  resets : List ResetReq
  deriving DecidableEq, Repr

/-- A key of the reduce aperture as the switches hold it (R289): what the first contribution fixed, and the carry
values contributed so far, one list of lane bits for each contribution. -/
structure RedKey where
  grp : Nat
  off : Nat
  tag : Nat
  op : Nat
  ty : Nat
  count : Nat
  bad : Bool
  members : List Nat
  parts : List (List Nat)
  deriving DecidableEq, Repr

/-- A virtual device's exported state (R361), as VDEXPORT took it on `die`. -/
structure VdImage where
  die : Nat
  recs : Tbl Rec
  jobs : List Job
  wins : Tbl Win
  chans : Tbl Chan
  matches_ : Tbl Match
  views : Tbl View
  regions : Tbl Region
  notStarted : List (Nat × List Byte)
  deriving DecidableEq, Repr

/-- A completion to be counted at the end of the cycle (R183): its counts, or with `sig` its signal alone. One of a saved task
stays until its image can be written (R337). -/
structure CountUpd where
  done : Done
  dl : Nat
  dr : Nat
  bytes : Nat
  err : Nat
  sig : Bool
  deriving DecidableEq, Repr

/-- How the last issue ended: the bundle issued, is blocked (R74), or trapped. -/
inductive Issued where
  | issued | blocked | trapped
  deriving DecidableEq, Repr

/-- The package. `ctxs` is keyed by context (256·die + 16·cluster + 4·core + ctx), `cores` by core (64·die + 4·cluster
+ core), `dies` by logical die, `creg` by control-space address (R353) and `mem` and `code` by byte address (a die's program memory from 2^64 times its number on). `clock`
counts ticks; `agenda` lists the events that come before the next issue and `sel` the operands of the one that acts, `turn`
the cores still to issue in this cycle; `cur` and `slot` say who acts, `last` how its issue ended and `mark` what `bids` was as
it began; `bids` numbers commands; `free` counts the free values drawn; `attleft` counts the attestation leaves left (R363);
`banks` lists the pad banks taken in this cycle and by whom: 0 an engine or port, else a context's key plus 1; `counts` the
completions to be counted; `mem0` is memory as the last cycle left it and `writes` what has been written since. -/
structure State where
  clock : Nat
  agenda : List Ev
  sel : List Nat
  turn : List Nat
  cur : Nat
  slot : Slot
  last : Issued
  mark : Nat
  ctxs : Tbl Ctx
  cores : Tbl Core
  dies : Tbl Die
  creg : Tbl Word
  mem : List Host.Cell
  dirty : Tbl Bool
  bad : List Nat
  code : List Host.Cell
  wire : List Msg
  reduce : List RedKey
  rgroups : Tbl (List Nat)
  exported : List (List Byte × VdImage)
  banks : List (Nat × Nat)
  counts : List CountUpd
  mem0 : List Host.Cell
  writes : List (Nat × List Byte)
  bids : Nat
  free : Nat
  epid : Nat
  stage : Nat
  fail : Nat
  attleft : Nat
  deriving DecidableEq, Repr

/-- Why the machine stops with a fault. -/
inductive Fault where
  /-- Raised by a command that reaches the HBM slice of a cluster its die does not present (R215). Safe: the
  hardware has no such memory. -/
  | absentSlice (die off : Nat)
  deriving DecidableEq, Repr

/-- Why a meaning is refused. -/
inductive Refusal where
  /-- Raised by `exec` for an instruction that has no meaning yet. Safe. -/
  | notModelled (mnemonic : String)
  deriving DecidableEq, Repr

/-! ## Reset values -/

/-- A loop counter at dispatch: zero, no loop active (R81). -/
def LoopSt.reset : LoopSt := ⟨0, 0, 0, false⟩

/-- A handle at dispatch (R181). -/
def Handle.reset : Handle := ⟨0, 0, 0, 0, 0⟩

/-- The shadow configuration set at dispatch (R126). -/
def Shadow.reset : Shadow := ⟨0, 0, 0, 0, 0, 0, 0, 0x3F80, 0x3F80⟩

/-- The auction configuration set at dispatch (R341). -/
def Auction.reset : Auction := ⟨0x3F800000, 0x00010000, 1, 0x40800000, 0⟩

/-- SRSEED's reset value (R54). -/
def seedReset : Word := 0x9E3779B97F4A7C15

/-- A format-table entry's reset value (R63). -/
def fmtReset : BitVec 32 := 0xBBD0F000

/-- A context at reset: free, with every register at its dispatch value (R54, R55, R63, R81, R126, R181, R270, R341). -/
def Ctx.reset : Ctx :=
  { st := .free, task := 0, job := 0, pc := 0, idle := 0, lastPc := 0, xfer := none, sregs := [], kregs := [],
    lc0 := .reset, lc1 := .reset, side0 := .reset, side1 := .reset, hnd := [], flags := 0, trapen := 0,
    srseed := seedReset, fmt := [], sh := .reset, mshad := false, rlabel := none, keep := 0,
    vbase := 0, vlim := 0, sbase := 0, slim := 0, wcur := none, ord := 1, au := .reset, aqid := none, aqcode := 0,
    aqrounds := 0, trappc := 0, trapaddr := 0, cause := 0, tslot := 0, detail := 0, sscr := [], sup := false,
    inflight := [], latches := [], resuming := false, aging := 0, due := false, pre := none, stall := 0,
    vwSeq := 0, held := none, ask := none, wdown := none, synced := 0, before := [], blocked := false }

/-- A core at reset: rows and semaphores zero, SHADN zero, no command anywhere (R66, R98, R173). -/
def Core.reset : Core :=
  { rows := [], sems := [], semUpd := [], shadn := 0, shcount := 0, opnum := 0, act := none, pend := none,
    shadq := [], q := [], score := [], log := [], remote := [], late := [], freeze := false, beatAt := none, beatQ := 0 }

/-- A view-table entry never taken. -/
def View.reset : View := ⟨0, false, 0, 0, 0, 0⟩

/-- A region record in no use. -/
def Region.reset : Region := ⟨false, 0, 0, 0, [], [], []⟩

/-- A window-table entry never taken (R243). -/
def Win.reset : Win :=
  { live := false, closing := false, gen := 0, vd := 0, base := 0, len := 0, view := false, group := 0, mode := 0,
    rights := 0, n := 0, fst := .isOpen, sent := [], recv := [], recvNext := [], ann := [], annNext := [],
    stamped := [], downs := [], ends := [], early := [], told := false, xn := 0, exposing := false, exposed := 0, compl := [], ax := [], posts := [], holders := [],
    excl := false }

/-- A free task record (R185). -/
def Rec.reset : Rec :=
  { gen := 0, vd := 0, st := 0, pc := 0, live := 0, vals := [], dep := 0, aff := 0, job := 0, prio := 0, rows := 0,
    sems := 0, wkind := 0, link := 0xFFFF, himg := .reset, hnum := 0, wobj := 0, at_ := .nowhere, armed := none, since := 0,
    level := 0, waited := 0, origin := none, vwSeq := 0 }

/-- A free match entry (R195). -/
def Match.reset : Match := ⟨false, 0, 0, 0, 0, .decr 0⟩

/-- A free channel entry (R276). -/
def Chan.reset : Chan :=
  { role := 0, vd := 0, ty := 0, peer := 0, peerch := 0, eps := 0, depth := 0, ring := 0, key := 0, permits := 0,
    seq := 0, head := 0, ret := 0, filled := [] }

/-- No audit has run (R293). -/
def Audit.reset : Audit := ⟨0, 0, 0, 0, [], 0, 0, 0, none⟩

/-- A die at reset: sixteen clusters (R13), every table empty (R226, R242, R275). -/
def Die.reset : Die :=
  { cycle0 := 0, nclus := 16, tlb := [], pool := [], faults := [], nextTok := 0, migrQ := [], coldFell := false, demoting := [],
    views := [], regions := [], hfree := [], deltas := [], deltaSeq := 0, wins := [], recs := [], schedSeq := 0, resv := [], spawns := [],
    jobs := [], matches_ := [], chans := [], audit := .reset, auditAt := none, permitWaits := [], apexQ := [],
    apexRun := none, heldRecs := [], halted := false, outq := [], outst := [], resend := [], flows := [],
    flowsIn := [], rob := [], credit := [], used := [], lockQ := [], lockAsks := [], evQ := [], down := [], barQ := [],
    deadVds := [], kills := [], checks := [], quote := false, resets := [] }

/-- The package right after reset: every context free, every register at its reset value, pads zero (R147), nothing
listed in memory, no message in flight and start-up not yet run (R362). -/
def State.reset : State :=
  { clock := 0, agenda := [], sel := [], turn := [], cur := 0, slot := .x, last := .issued, mark := 0, ctxs := [], cores := [], dies := [],
    creg := [], mem := [], dirty := [], bad := [], code := [], wire := [], reduce := [], rgroups := [],
    exported := [], banks := [], counts := [], mem0 := [], writes := [], bids := 0, free := 0, epid := 0xFFF, stage := 0, fail := 0, attleft := 2 ^ 20 }

end Sys2Proof.Machine
end

