-- ==== Sys2Proof/Machine/Regs.lean ====
section
/-! DEFINITION. The register space of control space (R353, R354): where each register lies, how it is reached and what
it resets to. The names are those of R199, R214, R227, R246, R293, R327, R69, R351, R355, R362 and R363. -/

namespace Sys2Proof.Machine

/-- The access codes of R5. -/
inductive RegAcc where
  | ro | rw | w1c | wo
  deriving DecidableEq, Repr

/-- A register's access, the bits its fields occupy and its reset value. -/
structure RegInfo where
  acc : RegAcc
  bits : Word
  rst : Word
  deriving DecidableEq, Repr

/-- The bits hi down to lo set. -/
def field (hi lo : Nat) : Word := BitVec.ofNat 64 (2 ^ (hi + 1) - 2 ^ lo)

/-- A register whose fields reset to zero. -/
def reg0 (a : RegAcc) (hi lo : Nat) : Option RegInfo := some ⟨a, field hi lo, 0⟩

/-- The registers of a virtual device's copies, by block and offset (R354). -/
def vdRegRows : List (Nat × Nat × RegInfo) :=
  [(0x00, 0x000, ⟨.ro, field 1 0, 0⟩),
   (0x00, 0x008, ⟨.ro, field 15 0, 0⟩),
   (0x00, 0x010, ⟨.rw, field 63 1, 0⟩),
   (0x00, 0x018, ⟨.rw, field 63 0, 0⟩),
   (0x00, 0x020, ⟨.rw, field 63 0, 0⟩),
   (0x00, 0x028, ⟨.rw, field 63 0, 0⟩),
   (0x00, 0x030, ⟨.rw, field 63 0, 0⟩),
   (0x00, 0x038, ⟨.rw, field 63 0, 0⟩),
   (0x00, 0x040, ⟨.rw, field 63 0, 0⟩),
   (0x00, 0x048, ⟨.rw, field 8 0, 0⟩),
   (0x00, 0x050, ⟨.rw, field 63 0, 0⟩),
   (0x00, 0x058, ⟨.rw, field 15 0, 0⟩),
   (0x00, 0x060, ⟨.ro, field 15 0, 0⟩),
   (0x00, 0x068, ⟨.rw, field 15 0, 0⟩),
   (0x00, 0x070, ⟨.rw, field 3 0, 1⟩),
   (0x00, 0x078, ⟨.rw, field 0 0, 0⟩),
   (0x00, 0x080, ⟨.wo, field 24 6, 0⟩),
   (0x00, 0x088, ⟨.wo, field 24 6, 0⟩),
   (0x00, 0x090, ⟨.wo, field 10 0, 0⟩),
   (0x02, 0x000, ⟨.rw, field 35 13, 0⟩),
   (0x02, 0x008, ⟨.rw, field 35 16, 0⟩),
   (0x02, 0x010, ⟨.rw, field 35 16, 0⟩),
   (0x03, 0x000, ⟨.rw, field 43 25, 0⟩),
   (0x03, 0x008, ⟨.rw, field 43 25, 0⟩),
   (0x03, 0x010, ⟨.rw, field 31 0, 0⟩),
   (0x03, 0x018, ⟨.ro, field 31 0, 0⟩),
   (0x05, 0x000, ⟨.rw, field 8 0, 0⟩),
   (0x05, 0x008, ⟨.rw, field 31 0, 0x01000000⟩),
   (0x06, 0x000, ⟨.rw, field 4 0, 16⟩),
   (0x06, 0x008, ⟨.ro, field 4 0, 0⟩),
   (0xFF, 0x000, ⟨.rw, field 31 0, 0x00010000⟩)]

/-- The register in one of the two lists at a block and offset. -/
def regRow : List (Nat × Nat × RegInfo) → Nat → Nat → Option RegInfo
  | [], _, _ => none
  | (b, o, r) :: t, block, off => if block = b ∧ off = o then some r else regRow t block off

/-- The register at an offset of a virtual device's copy of a block (R354). PREEMPTLIM, a special register that is one
per virtual device (R83), is kept beside them as offset 0 of block 0xFF, which control space does not reach. -/
def vdReg (block off : Nat) : Option RegInfo := regRow vdRegRows block off

/-- The single registers of the die-wide copy, by block and offset (R354). -/
def dieRegRows : List (Nat × Nat × RegInfo) :=
  [(0x00, 0x100, ⟨.ro, field 15 0, 0⟩),
   (0x00, 0x108, ⟨.rw, field 63 0, 0⟩),
   (0x00, 0x110, ⟨.rw, field 63 0, 0⟩),
   (0x00, 0x118, ⟨.rw, field 63 0, 0⟩),
   (0x00, 0x120, ⟨.rw, field 63 0, 0⟩),
   (0x00, 0x128, ⟨.rw, field 0 0, 0⟩),
   (0x00, 0x130, ⟨.ro, field 20 0, 0x100000⟩),
   (0x00, 0x138, ⟨.rw, field 24 6, 0⟩),
   (0x01, 0x000, ⟨.ro, field 12 0, 0⟩),
   (0x01, 0x008, ⟨.w1c, field 31 0, 0⟩),
   (0x01, 0x010, ⟨.ro, field 8 0, 0⟩),
   (0x02, 0x000, ⟨.wo, field 31 0, 0⟩),
   (0x02, 0x008, ⟨.wo, field 63 0, 0⟩),
   (0x02, 0x010, ⟨.ro, field 31 0, 0⟩),
   (0x02, 0x018, ⟨.ro, field 31 0, 0⟩),
   (0x02, 0x020, ⟨.ro, field 31 0, 0⟩),
   (0x02, 0x028, ⟨.rw, field 63 0, 0⟩),
   (0x02, 0x030, ⟨.rw, field 63 0, 0⟩),
   (0x02, 0x038, ⟨.rw, field 63 0, 0⟩),
   (0x02, 0x040, ⟨.ro, field 63 0, 0⟩),
   (0x02, 0x048, ⟨.ro, field 63 0, 0⟩),
   (0x02, 0x050, ⟨.rw, field 5 0, 24⟩),
   (0x03, 0x000, ⟨.ro, field 63 0, 0⟩),
   (0x03, 0x008, ⟨.ro, field 14 0, 0⟩),
   (0x03, 0x010, ⟨.ro, field 10 0, 0⟩),
   (0x04, 0x000, ⟨.ro, field 8 0, 0⟩),
   (0x05, 0x0000, ⟨.ro, field 0 0, 1⟩),
   (0x05, 0x0008, ⟨.rw, field 31 0, 0x01010101⟩),
   (0x05, 0x0010, ⟨.ro, field 10 0, 0⟩),
   (0x05, 0x0018, ⟨.ro, field 8 0, 0⟩),
   (0x05, 0x0020, ⟨.w1c, field 31 0, 0⟩),
   (0x05, 0x0028, ⟨.wo, field 7 0, 0⟩),
   (0x05, 0x0030, ⟨.ro, field 37 0, 0⟩),
   (0x05, 0x0038, ⟨.rw, field 31 0, 0x00010000⟩),
   (0x05, 0x8040, ⟨.rw, field 31 0, 0x01000000⟩),
   (0x06, 0x000, ⟨.w1c, field 31 0, 0⟩),
   (0x07, 0x000, ⟨.rw, field 24 14, 0⟩),
   (0x07, 0x008, ⟨.ro, field 7 0, 0⟩),
   (0x07, 0x010, ⟨.rw, field 7 0, 0⟩),
   (0x07, 0x018, ⟨.ro, field 8 0, 0⟩),
   (0x07, 0x020, ⟨.ro, field 32 0, 0⟩),
   (0x07, 0x028, ⟨.rw, field 24 6, 0⟩),
   (0x07, 0x030, ⟨.rw, field 15 0, 0⟩),
   (0x07, 0x038, ⟨.ro, field 15 0, 0⟩),
   (0x07, 0x040, ⟨.rw, field 15 0, 0⟩),
   (0x07, 0x048, ⟨.w1c, field 31 0, 0⟩)]

/-- The arrays of the die-wide copy and the public key: RCNT, WUNM, GRPCNT, GRPMEM, RGRP and CHANTAB (R354). -/
def dieArray (b o : Nat) : Option RegInfo :=
  if o % 8 ≠ 0 then none
  else if b = 0 then if 0x140 ≤ o ∧ o < 0x180 then reg0 .ro 63 0 else none
  else if b = 2 then if 0x58 ≤ o ∧ o < 0x8058 then reg0 .rw 31 0 else none
  else if b = 4 then
    if 0x08 ≤ o ∧ o < 0x828 then reg0 .w1c 31 0
    else if 0x828 ≤ o ∧ o < 0xA28 then reg0 .rw 6 0
    else if 0xA28 ≤ o ∧ o < 0x8A28 then reg0 .rw 15 0
    else none
  else if b = 5 then
    if 0x40 ≤ o ∧ o < 0x8040 then some ⟨.rw, 0xFF01, 0⟩
    else if 0xC000 ≤ o ∧ o < 0xE000 then reg0 .rw 63 0
    else none
  else none

/-- The register at an offset of the die-wide copy of a block (R354). -/
def dieReg (block off : Nat) : Option RegInfo :=
  match regRow dieRegRows block off with
  | some r => some r
  | none => dieArray block off

/-- The copy field of the die-wide registers (R353). -/
def dieWide : Nat := 0xF

/-- The register a copy, block and offset name. -/
def regInfo (copy block off : Nat) : Option RegInfo :=
  if copy < 4 then vdReg block off else if copy = dieWide then dieReg block off else none

/-- Where a register is kept. -/
def regKey (die copy block off : Nat) : Nat := die * 2 ^ 28 + copy * 2 ^ 24 + block * 2 ^ 16 + off

/-- The stored value of a register: its reset value until something is written. -/
def State.reg (s : State) (die copy block off : Nat) : Word :=
  tget (match regInfo copy block off with | some r => r.rst | none => 0) s.creg (regKey die copy block off)

/-- The state with a register's stored value set. -/
def State.setReg (s : State) (die copy block off : Nat) (v : Word) : State :=
  { s with creg := tput s.creg (regKey die copy block off) v }

/-- Bits hi down to lo of a word, as a number. -/
def bitsOf (v : Word) (hi lo : Nat) : Nat := v.toNat / 2 ^ lo % 2 ^ (hi + 1 - lo)

/-- A die-wide register. -/
def State.dreg (s : State) (die block off : Nat) : Word := s.reg die dieWide block off

/-- The state with a die-wide register set. -/
def State.setDreg (s : State) (die block off : Nat) (v : Word) : State := s.setReg die dieWide block off v

/-- A saturating 32-bit counter of the die rises by `n`. -/
def State.bumpDreg (s : State) (die block off n : Nat) : State :=
  s.setDreg die block off (BitVec.ofNat 64 (min 0xFFFFFFFF ((s.dreg die block off).toNat + n)))

/-- BASE and LIM of one of the bounds of R355. -/
def State.bound (s : State) (die vd off : Nat) : Nat × Nat :=
  let v := s.reg die vd 0 off
  (bitsOf v 31 0, bitsOf v 63 32)

/-- The offsets of R355's bounds. -/
def boundDp : Nat := 0x18
def boundRec : Nat := 0x20
def boundMat : Nat := 0x28
def boundWin : Nat := 0x30
def boundCh : Nat := 0x38
def boundRc : Nat := 0x40

/-- The clusters a virtual device owns on a die, as a mask (VDCLUS, R355). -/
def State.vdClus (s : State) (die vd : Nat) : Nat := bitsOf (s.reg die vd 0 0x008) 15 0

/-- Whether a virtual device exists (VDCTL.EN). -/
def State.vdEn (s : State) (die vd : Nat) : Bool := (s.reg die vd 0 0x000).getLsbD 0

/-- Whether its supervisor may write die-wide registers (VDCTL.DIEADM). -/
def State.vdAdm (s : State) (die vd : Nat) : Bool := (s.reg die vd 0 0x000).getLsbD 1

/-- The virtual device of a die that owns a cluster: the lowest whose VDCLUS names it (R355). -/
def State.ownerOf (s : State) (die cl : Nat) : Option Nat :=
  [0, 1, 2, 3].find? fun vd => s.vdEn die vd && (s.vdClus die vd).testBit cl

/-- PREEMPTLIM of a virtual device (R83). -/
def State.preemptLim (s : State) (die vd : Nat) : Nat := (s.reg die vd 0xFF 0).toNat

end Sys2Proof.Machine
end

