-- ==== Sys2Proof/Machine/Ops.lean ====
section
/-! DEFINITION. The named operations over registers, rows, memory and results; the fault queue; the kill; taking a trap
and returning from one. Every read and write of a context, a core, a die, a row or a byte of memory goes through here. -/

namespace Sys2Proof.Machine

/-! ## Who and where -/

/-- The die of a context. -/
def dieOf (k : Nat) : Nat := k / 256

/-- The core key of a context. -/
def coreOf (k : Nat) : Nat := k / 4

/-- The logical cluster of a context (R1). -/
def clusOf (k : Nat) : Nat := k / 16 % 16

/-- The core number of a context in its cluster. -/
def coreNo (k : Nat) : Nat := k / 4 % 4

/-- The context number of a context in its core. -/
def ctxNo (k : Nat) : Nat := k % 4

/-- The four contexts of a core. -/
def ctxsOf (core : Nat) : List Nat := [4 * core, 4 * core + 1, 4 * core + 2, 4 * core + 3]

/-- The place number of a die of this package (R245). -/
def State.place (s : State) (die : Nat) : Nat := s.epid * 16 + die

/-- A context. -/
def State.ctx (s : State) (k : Nat) : Ctx := tget Ctx.reset s.ctxs k

/-- The state with a context replaced. -/
def State.setCtx (s : State) (k : Nat) (c : Ctx) : State := { s with ctxs := tput s.ctxs k c }

/-- The state with a context changed. -/
def State.modCtx (s : State) (k : Nat) (f : Ctx → Ctx) : State := s.setCtx k (f (s.ctx k))

/-- A core. -/
def State.core (s : State) (n : Nat) : Core := tget Core.reset s.cores n

/-- The state with a core replaced. -/
def State.setCore (s : State) (n : Nat) (c : Core) : State := { s with cores := tput s.cores n c }

/-- The state with a core changed. -/
def State.modCore (s : State) (n : Nat) (f : Core → Core) : State := s.setCore n (f (s.core n))

/-- A die. -/
def State.die (s : State) (n : Nat) : Die := tget Die.reset s.dies n

/-- The state with a die replaced. -/
def State.setDie (s : State) (n : Nat) (d : Die) : State := { s with dies := tput s.dies n d }

/-- The state with a die changed. -/
def State.modDie (s : State) (n : Nat) (f : Die → Die) : State := s.setDie n (f (s.die n))

/-- Whether a context has late accesses (R78). -/
def State.hasLate (s : State) (k : Nat) : Bool := (s.core (coreOf k)).late.any fun x => x.ctx == k

/-- The acting context. -/
def State.me (s : State) : Ctx := s.ctx s.cur

/-- The state with the acting context changed. -/
def State.modMe (s : State) (f : Ctx → Ctx) : State := s.modCtx s.cur f

/-- An operand of the event that acts. -/
def State.arg (s : State) (i : Nat) : Nat := s.sel.getD i 0

/-- CYCLE of a die (R83). -/
def State.cycle (s : State) (die : Nat) : Nat := s.clock - (s.die die).cycle0

/-- The virtual device that owns a context's cluster (VDID, R83); 0 when none does. -/
def State.vdOf (s : State) (k : Nat) : Nat := (s.ownerOf (dieOf k) (clusOf k)).getD 0

/-! ## Registers of a context (R81, R82) -/

/-- A scalar register; s0 reads zero. -/
def Ctx.s (c : Ctx) (n : Nat) : Word := if n = 0 then 0 else tget 0 c.sregs n

/-- A predicate register; k0 reads all ones. -/
def Ctx.k (c : Ctx) (n : Nat) : Pred := if n = 0 then BitVec.allOnes 256 else tget 0 c.kregs n

/-- A write of a scalar register; a write to s0 is discarded (R34). -/
def Ctx.setS (c : Ctx) (n : Nat) (v : Word) : Ctx := if n = 0 then c else { c with sregs := tput c.sregs n v }

/-- A write of a predicate register; a write to k0 is discarded (R34). -/
def Ctx.setK (c : Ctx) (n : Nat) (v : Pred) : Ctx := if n = 0 then c else { c with kregs := tput c.kregs n v }

/-- A handle. -/
def Ctx.h (c : Ctx) (n : Nat) : Handle := tget Handle.reset c.hnd n

/-- The context with a handle replaced. -/
def Ctx.setH (c : Ctx) (n : Nat) (h : Handle) : Ctx := { c with hnd := tput c.hnd n h }

/-- A format-table entry (R63). -/
def Ctx.fmtE (c : Ctx) (n : Nat) : BitVec 32 := tget fmtReset c.fmt n

/-- Whether a context row exists (R82). -/
def Ctx.hasRow (c : Ctx) (n : Nat) : Bool := decide (c.vbase + n < c.vlim)

/-- Whether a context tile exists (R37, R82). -/
def Ctx.hasTile (c : Ctx) (n : Nat) : Bool := decide (c.vbase + 64 * n + 63 < c.vlim)

/-- Whether a context semaphore exists (R82). -/
def Ctx.hasSem (c : Ctx) (n : Nat) : Bool := decide (c.sbase + n < c.slim)

/-- A core's physical row. -/
def Core.row (c : Core) (n : Nat) : Row := tget 0 c.rows n

/-- A core with a physical row written under a byte mask. -/
def Core.setRow (c : Core) (n : Nat) (v : Row) : Core := { c with rows := tput c.rows n v }

/-- The row a context names, as the bundle reads it. -/
def State.rowOf (s : State) (k n : Nat) : Row := (s.core (coreOf k)).row ((s.ctx k).vbase + n)

/-- A core semaphore's value. -/
def Core.sem (c : Core) (n : Nat) : Nat := tget 0 c.sems n

/-- A byte mask spread over a row's bits: byte i is all ones where bit i is set. -/
def spread : Nat → Nat → Nat
  | 0, _ => 0
  | n + 1, m => spread n m + (if m.testBit n then 0xFF * 2 ^ (8 * n) else 0)

/-- A row with the masked bytes of `v` written over `old`. -/
def mergeRow (old v : Row) (mask : Pred) : Row :=
  let m : Row := BitVec.ofNat 2048 (spread 256 mask.toNat)
  (v &&& m) ||| (old &&& ~~~m)

/-- A mask of 4-bit elements spread over a row's bits. -/
def spreadNibs : Nat → Nat → Nat
  | 0, _ => 0
  | n + 1, m => spreadNibs n m + (if m.testBit n then 0xF * 2 ^ (4 * n) else 0)

/-- A row with the masked 4-bit elements of `v` written over `old`. -/
def mergeNibs (old v : Row) (mask : Nat) : Row :=
  let m : Row := BitVec.ofNat 2048 (spreadNibs 512 mask)
  (v &&& m) ||| (old &&& ~~~m)

/-- Every byte of a row, or every bit of a predicate. -/
def fullMask : Pred := BitVec.allOnes 256

/-! ## Memory -/

/-- One byte of memory by its home address. An unlisted byte reads zero. -/
def memGet : List Host.Cell → Nat → Byte
  | [], _ => 0
  | (b, v) :: t, a => if a = b then v else memGet t a

/-- A listed byte set, or put where its address belongs. -/
def memIns : List Host.Cell → Nat → Byte → List Host.Cell
  | [], a, v => [(a, v)]
  | (b, w) :: t, a, v =>
    if a = b then (a, v) :: t else if a < b then (a, v) :: (b, w) :: t else (b, w) :: memIns t a v

/-- Memory with one byte written; its form stays canonical: addresses rising and no zero listed. -/
def memPut (m : List Host.Cell) (a : Nat) (v : Byte) : List Host.Cell :=
  if v = 0 then m.filter fun c => c.1 != a else memIns m a v

/-- Whether every address of a list is above `lo`, rising, and no listed byte is zero. -/
def wfAbove : Nat → List Host.Cell → Bool
  | _, [] => true
  | lo, (b, v) :: t => decide (lo < b) && decide (v ≠ 0) && wfAbove b t

/-- The canonical form of memory: addresses strictly rising and no listed byte equal to what an unlisted one reads. -/
def Memory.wf : List Host.Cell → Bool
  | [] => true
  | (b, v) :: t => decide (v ≠ 0) && wfAbove b t

/-- `n` bytes of memory from an address up. -/
def memBytes (m : List Host.Cell) (a : Nat) : Nat → List Byte
  | 0 => []
  | n + 1 => memGet m a :: memBytes m (a + 1) n

/-- Memory with bytes written from an address up. -/
def memPuts (m : List Host.Cell) (a : Nat) : List Byte → List Host.Cell
  | [] => m
  | v :: l => memPuts (memPut m a v) (a + 1) l

/-- The unsigned value of little-endian bytes. -/
def leNat : List Byte → Nat
  | [] => 0
  | b :: l => b.toNat + 256 * leNat l

/-- `n` little-endian bytes of a number. -/
def leBytes (v : Nat) : Nat → List Byte
  | 0 => []
  | n + 1 => BitVec.ofNat 8 v :: leBytes (v / 256) n

/-- `n` bytes of zero. -/
def zeros (n : Nat) : List Byte := List.replicate n 0

/-- Home addresses (R8, R9): a pad or the HBM aperture of a die of this package, at an offset within its kind. -/
def homeKey (die kind low : Nat) : Nat := 0xFFF * 2 ^ 52 + die * 2 ^ 48 + kind * 2 ^ 44 + low

/-- The home of a byte of a die pad. -/
def dieKey (die off : Nat) : Nat := homeKey die 0x8 off

/-- The home of a byte of a cluster pad. -/
def clusKey (die cl off : Nat) : Nat := homeKey die 0x9 (cl * 2 ^ 40 + off)

/-- The home of a byte of a unit pad. -/
def unitKey (die cl co off : Nat) : Nat := homeKey die 0xA (cl * 2 ^ 40 + co * 2 ^ 38 + off)

/-- The home of a byte of a die's HBM: its address in the aperture of control space (R353). -/
def hbmKey (die off : Nat) : Nat := homeKey die 0xF (2 ^ 40 + off)

/-- The home of a byte of the warm tier, by its offset in the tier. -/
def warmKey (off : Nat) : Nat := 2 ^ 64 + off

/-- The home of a byte of the cold tier. -/
def coldKey (off : Nat) : Nat := 2 ^ 65 + off

/-- The kind of a home address below 2^64. -/
def keyKind (a : Nat) : Nat := a / 2 ^ 44 % 16

/-- Whether a home address lies in a pad. -/
def isPad (a : Nat) : Bool := a / 2 ^ 52 == 0xFFF && (keyKind a == 8 || keyKind a == 9 || keyKind a == 10)

/-- The number of 4 KiB regions that `n` bytes from `a` meet, less one. -/
def spanOf (a n : Nat) : Nat := (a + n - 1) / 4096 - a / 4096

/-- The dirty bits after a write of `n` bytes at `a`. -/
def dirtyOf (d : Tbl Bool) (a n : Nat) : Tbl Bool :=
  if isPad a && decide (0 < n) then
    ((List.range (spanOf a n + 1)).map (fun i => a / 4096 + i)).foldl (fun t r => tput t r true) d
  else d

/-- The bytes of the chunk at a home address: 64 in pads, 32 in HBM and the lower tiers (R160, R331). -/
def chunkSize (a : Nat) : Nat := if isPad a then 64 else 32

/-- Bytes written to memory. A chunk that one access wholly rewrites is correctable again (R331; log entry 139). -/
def State.write (s : State) (a : Nat) (l : List Byte) : State :=
  { s with
    mem := memPuts s.mem a l
    writes := s.writes ++ [(a, l)]
    dirty := dirtyOf s.dirty a l.length
    bad := s.bad.filter fun c => !(decide (a ≤ c) && decide (c + chunkSize c ≤ a + l.length)) }

/-- Bytes read from memory. -/
def State.read (s : State) (a n : Nat) : List Byte := memBytes s.mem a n

/-- A little-endian number read from memory. -/
def State.readNat (s : State) (a n : Nat) : Nat := leNat (s.read a n)

/-- A little-endian number written to memory. -/
def State.writeNat (s : State) (a n v : Nat) : State := s.write a (leBytes v n)

/-- Every byte of a range zeroed, its chunks correctable again. -/
def State.zeroBytes (s : State) (a n : Nat) : State :=
  { s with
    mem := s.mem.filter fun c => !(decide (a ≤ c.1) && decide (c.1 < a + n))
    bad := s.bad.filter fun c => !(decide (a ≤ c) && decide (c < a + n)) }

/-- Every byte of a range zeroed and its dirty bits cleared: the zeroing of a pad (R147, R170). -/
def State.zeroPad (s : State) (a n : Nat) : State :=
  { s.zeroBytes a n with dirty := s.dirty.filter fun c => !(decide (a / 4096 ≤ c.1) && decide (c.1 * 4096 < a + n)) }

/-! ## Results (R75, R77, R322) -/

/-- A result put in flight for a context, written at the end of the `left`-th unfrozen cycle from this one on. -/
def State.push (s : State) (k : Nat) (r : Result) : State :=
  s.modCtx k fun c => { c with inflight := c.inflight ++ [r] }

/-- A scalar result of the acting context. -/
def State.pushS (s : State) (d : Nat) (v : Word) (l : Nat) (src : Slot) : State :=
  s.push s.cur ⟨.sreg d, v.setWidth 2048, fullMask, 0, l, src, false⟩

/-- A predicate result of the acting context. -/
def State.pushK (s : State) (d : Nat) (v mask : Pred) (fl : Flags) (l : Nat) (src : Slot) : State :=
  s.push s.cur ⟨.kreg d, v.setWidth 2048, mask, fl, l, src, false⟩

/-- A row result of the acting context, named by its context row. -/
def State.pushV (s : State) (d : Nat) (v mask : Nat) (fl : Flags) (l : Nat) (src : Slot) : State :=
  s.push s.cur ⟨.row (s.me.vbase + d), BitVec.ofNat 2048 v, BitVec.ofNat 256 mask, fl, l, src, false⟩

/-! ## Semaphores (R173) -/

/-- One update of a core semaphore, to be combined at the end of the cycle. -/
def State.semUpd (s : State) (core : Nat) (u : SemUpd) : State :=
  s.modCore core fun c => { c with semUpd := c.semUpd ++ [u] }

/-! ## The fault queue (R327 to R329) -/

/-- A fault record in the layout of R329. PLACE's absent parts are 0xFF. -/
def faultRec (kind die cl co cx detail flags addr task cyc : Nat) (tail : List Byte) : List Byte :=
  leBytes kind 2 ++ leBytes die 1 ++ leBytes cl 1 ++ leBytes co 1 ++ leBytes cx 1 ++ leBytes detail 1 ++
    leBytes flags 1 ++ leBytes addr 8 ++ leBytes task 4 ++ leBytes 0 4 ++ leBytes cyc 8 ++
    (tail ++ zeros (32 - tail.length))

/-- The source a held record merges by: its KIND and the die, cluster and core of PLACE (R328). -/
def recSource (r : List Byte) : List Byte := r.take 5

/-- The KIND of a record. -/
def recKind (r : List Byte) : Nat := leNat (r.take 2)

/-- A record merged once more: FLAGS[1] set and REPEAT one higher (R328). -/
def recMerge (r : List Byte) : List Byte :=
  r.take 7 ++ [(r.getD 7 0) ||| 2] ++ (r.drop 8).take 12 ++
    leBytes (min 0xFFFFFFFF (leNat ((r.drop 20).take 4) + 1)) 4 ++ r.drop 24

/-- A record with the CYCLE of its writing where its layout has it: bytes 24 to 31 in R329's, 32 to 39 in a page fault's
(R212). -/
def recStamp (r : List Byte) (cyc : Nat) : List Byte :=
  if decide (0x30 ≤ recKind r) && decide (recKind r ≤ 0x34) then r.take 24 ++ leBytes cyc 8 ++ r.drop 32
  else if recKind r = 0x10 ∨ recKind r = 0x11 then r.take 32 ++ leBytes cyc 8 ++ r.drop 40
  else r

/-- The fault queue's registers. -/
def fqBase : Nat := 0x00
def fqHead : Nat := 0x08
def fqTail : Nat := 0x10
def fqCount : Nat := 0x18
def fhSum : Nat := 0x20

/-- A record written into the next slot of the fault queue's ring (R327). -/
def State.fqWrite (s : State) (die : Nat) (r : List Byte) : State :=
  let head := (s.dreg die 7 fqHead).toNat
  let s1 := s.write (dieKey die ((s.dreg die 7 fqBase).toNat + 64 * head)) (recStamp r (s.cycle die))
  (s1.setDreg die 7 fqHead (BitVec.ofNat 64 ((head + 1) % 256))).setDreg die 7 fqCount
    (BitVec.ofNat 64 ((s.dreg die 7 fqCount).toNat + 1))

/-- The KINDS bit of a fatal record in FHSUM (R327). -/
def fatalBit (kind : Nat) : Nat :=
  if kind = 0x33 then 1 else if kind = 0x32 then 2 else if kind = 0x31 then 4 else if kind = 0x21 then 8 else 0

/-- Where messages for the service processor and the host go: an outside place. -/
def outside : Nat := 0xFFFF

/-- Fault-halt (R328): HALTED is set, the event is counted, the service processor is told over the fabric, and the ports of
the package's other dies learn that the place is down. -/
def State.faultHalt (s : State) (die kind : Nat) : State :=
  let v := s.dreg die 7 fhSum
  let lost := min 0xFFFF (bitsOf v 31 16 + 1)
  let kinds := Nat.lor (bitsOf v 3 0) (fatalBit kind)
  let s1 := s.setDreg die 7 fhSum (BitVec.ofNat 64 (2 ^ 32 + lost * 2 ^ 16 + kinds))
  let s2 := s1.modDie die fun d => { d with halted := true }
  { s2 with
    agenda := s2.agenda ++ ((List.range 16).filter fun d => d != die).map fun d => ⟨.placeDown, [d, s.place die]⟩
    wire := s2.wire ++ [⟨s.place die, outside, .hostEvent 0
      (leBytes 0x52 2 ++ leBytes die 1 ++ [0xFF, 0xFF, 0xFF] ++ zeros 26 ++ leBytes (s.cycle die) 8 ++ zeros 24)⟩] }

/-- A fatal record: written while COUNT is below 256, else the die enters fault-halt (R328). -/
def State.fatal (s : State) (die : Nat) (r : List Byte) : State :=
  if (s.dreg die 7 fqCount).toNat < 256 then s.fqWrite die r else s.faultHalt die (recKind r)

/-- A record added to the held ones, or merged into the held one of its source (R328). -/
def holdRec (l : List HeldRec) (r : List Byte) : List HeldRec :=
  if decide (0x30 ≤ recKind r) && l.any (fun h => recSource h.bytes == recSource r) then
    l.map fun h => if recSource h.bytes == recSource r then { h with bytes := recMerge h.bytes } else h
  else l ++ [⟨r⟩]

/-- A non-fatal record: written while COUNT is below 252 and nothing is held before it, else held at its source
(R328). -/
def State.nonFatal (s : State) (die : Nat) (r : List Byte) : State :=
  if decide ((s.dreg die 7 fqCount).toNat < 252) && (s.die die).heldRecs.isEmpty then s.fqWrite die r
  else s.modDie die fun d => { d with heldRecs := holdRec d.heldRecs r }

/-! ## Kills (R330) -/

/-- Whether a command is a task's. A command keeps its task wherever that has gone since (R304; log entry 159). -/
def Done.of (d : Done) (task : Nat) : Bool := d.task == task

/-- The cores of a die. -/
def State.coresOf (s : State) (die : Nat) : List Core := (s.cores.filter fun e => e.1 / 64 == die).map fun e => e.2

/-- The commands in the copy queues of a die; a QJOIN stands in several. -/
def State.copies (s : State) (die : Nat) : List CopyCmd :=
  ((s.coresOf die).map fun c => (c.q.map fun e => e.2).flatten).flatten

/-- The commands in the remote queues of a die. -/
def State.remotes (s : State) (die : Nat) : List RemCmd := ((s.coresOf die).map fun c => c.remote).flatten

/-- The logged beats of a die. -/
def State.beats (s : State) (die : Nat) : List LogBeat := ((s.coresOf die).map fun c => c.log).flatten

/-- The matrix operations of a die. -/
def State.mats (s : State) (die : Nat) : List MatOp := ((s.coresOf die).map fun c => c.act.toList ++ c.pend.toList).flatten

/-- A number that is no token's, since tokens have 32 bits: what holds a command that no replay frees. -/
def noToken : Nat := 2 ^ 32

/-- Whether a command is a CSEND. -/
def isCsend : Instr → Bool
  | .csend _ _ _ _ => true
  | _ => false

/-- The numbers of a task's requests that have not completed remotely, channel puts among them: those that a port has sent, and the
commands from which it has still to take them (R267). -/
def State.requestsOf (s : State) (die task : Nat) : List Nat :=
  let d := s.die die
  (d.outst.filter fun o => o.done.of task).map (fun o => o.id) ++ (d.outq.filter fun x => x.done.of task).map (fun x => x.id) ++
    ((s.remotes die).filter fun x => x.done.of task).map (fun x => x.id) ++
    ((s.copies die).filter fun x => x.done.of task && isCsend x.op).map fun x => x.id

/-- Whether a copy command has begun: its first beat has been read, or written where it reads none. A CSEND's permit is no
beat (R330; log entry 160). -/
def CopyCmd.begun (c : CopyCmd) : Bool := c.row != 0 || c.rd != 0 || c.wr != 0 || (c.idx.isSome && !isCsend c.op)

/-- A copy command that a kill withdraws: not begun, or held by a page fault. -/
def CopyCmd.withdrawn (c : CopyCmd) : Bool := !c.begun || c.hold.isSome

/-- A remote command that a kill withdraws: nothing of its source read, or held by a page fault. -/
def RemCmd.withdrawn (c : RemCmd) : Bool := c.buf.isEmpty || c.hold.isSome

/-- The distinct numbers of a list. -/
def nub : List Nat → List Nat
  | [] => []
  | a :: l => if l.contains a then nub l else a :: nub l

/-- A handle with a failed command counted (R182). -/
def Handle.fail (h : Handle) (dl e : Nat) : Handle :=
  { h with loc := h.loc + dl, rem := h.rem + 1, err := if h.err = 0 then e else h.err }

/-- The handles of a context after the withdrawn commands complete with ERR 0x08. -/
def failHandles (c : Ctx) : List Done → Ctx
  | [] => c
  | d :: l => failHandles (match d.hnd with | some h => c.setH h ((c.h h).fail 1 8) | none => c) l

/-- The completions of the PREEMPT commands that wait for their targets. -/
def State.preempts (s : State) : List (Nat × Done) :=
  s.ctxs.filterMap fun e => match e.2.pre with
    | some p => p.waiter.map fun w => (w.1, w.2.2)
    | none => none

/-- How many of them a task has accepted. -/
def State.preemptsOf (s : State) (task : Nat) : Nat := s.preempts.countP fun w => w.2.of task

/-- How many commands and matrix operations of a task a die still holds. -/
def State.taskCount (s : State) (die task : Nat) : Nat :=
  let d := s.die die
  let mine := fun x : Done => x.of task
  (nub (((s.copies die).filter fun x => mine x.done).map fun x => x.id)).length +
    (s.remotes die).countP (fun x => mine x.done) + d.outq.countP (fun x => mine x.done) + d.outst.countP (fun x => mine x.done) +
    d.apexQ.countP (fun x => mine x.done) + d.migrQ.countP (fun x => mine x.done) + d.evQ.countP (fun x => mine x.done) +
    d.spawns.countP (fun x => mine x.done) + s.preemptsOf task +
    (match d.apexRun with | some r => if mine r.cmd.done then 1 else 0 | none => 0) + (s.mats die).countP fun x => mine x.done

/-- Those of a context's task. -/
def State.commandCount (s : State) (k : Nat) : Nat := s.taskCount (dieOf k) (s.ctx k).task

/-- A core without the copy commands of some numbers, the beats of a list and the withdrawn remote commands of a task. -/
def Core.without (c : Core) (task : Nat) (ids : List Nat) (logs : List LogBeat) : Core :=
  { c with
    q := c.q.map fun e => (e.1, e.2.filter fun x => !ids.contains x.id)
    score := c.score.filter fun x => !ids.contains x.id
    log := c.log.filter fun b => !logs.contains b
    remote := c.remote.filter fun x => !(x.done.of task && x.withdrawn) }

/-- The logged beats of some requests dropped, with the tokens that no other beat has (R211). -/
def State.dropBeats (s : State) (die : Nat) (ids : List Nat) : State :=
  let gone := (s.beats die).filter fun b => ids.contains b.id
  let kept := (s.beats die).filter fun b => !ids.contains b.id
  { s.modDie die (fun d => { d with
      faults := d.faults.filter fun e => match e.2 with
        | .page _ _ _ => !gone.any (fun b => b.token == e.1) || kept.any fun b => b.token == e.1
        | _ => true }) with
    cores := s.cores.map fun e => if e.1 / 64 = die then (e.1, { e.2 with log := e.2.log.filter fun b => !ids.contains b.id }) else e }

/-- The commands of a task being killed that have not begun, are held by a page fault or have a beat in the log are
withdrawn and complete on their handles with ERR 0x08 (R330); their pins stay until they are accounted for (R233). A running AGO
completes (R352), one held by a page fault once it is replayed (log entry 109), unless the walks that it needs have stopped
(log entry 157). -/
def State.withdraw (s : State) (k : Nat) : State :=
  let c := s.ctx k
  let die := dieOf k
  let d := s.die die
  let mine := fun x : Done => x.of c.task
  let logged := fun id : Nat => (s.beats die).any fun b => b.id == id
  let gone := (s.copies die).filter fun x => mine x.done && (x.withdrawn || logged x.id)
  let gets := d.outst.filter fun x => mine x.done && logged x.id
  let fresh := fun x : MigrCmd => mine x.done && x.moved + x.there + x.skipped == 0
  let rem := (s.remotes die).filter fun x => mine x.done && x.withdrawn
  let agos := d.apexQ.filter fun x => mine x.done
  let held := match d.apexRun with | some r => if mine r.cmd.done && r.hold == some noToken then [r.cmd.done] else [] | none => []
  let migs := d.migrQ.filter fresh
  let evs := d.evQ.filter fun x => mine x.done
  let ids := nub (gone.map fun x => x.id)
  let logs := (s.beats die).filter fun b => ids.contains b.id || gets.any fun g => g.id == b.id
  let kept := (s.beats die).filter fun b => !logs.contains b
  let copies := ids.filterMap fun i => (gone.find? fun x => x.id == i).map fun x => x.done
  let dones := rem.map (fun x => x.done) ++ agos.map (fun x => x.done) ++ held ++ migs.map (fun x => x.done) ++
    gets.map (fun x => x.done)
  let n := ids.length + dones.length + evs.length
  let d' : Die := { d with
    apexQ := d.apexQ.filter fun x => !mine x.done
    apexRun := if held.isEmpty then d.apexRun else none
    migrQ := d.migrQ.filter fun x => !fresh x
    evQ := d.evQ.filter fun x => !mine x.done
    outst := d.outst.filter fun x => !gets.any fun g => g.id == x.id
    faults := d.faults.filter fun e => match e.2 with
      | .queue _ _ => !(gone.any fun x => x.hold == some e.1) && !rem.any fun x => x.hold == some e.1
      | .apex => true
      | .page _ _ _ => !logs.any (fun b => b.token == e.1) || kept.any fun b => b.token == e.1
    kills := d.kills.map fun x =>
      if x.ctx == k && x.task == c.task then
        { x with discarded := x.discarded + n, logs := x.logs + logs.length,
                 pins := x.pins ++ (gone.map fun x => x.pins).flatten }
      else x }
  let s1 : State := { s with cores := s.cores.map fun e => if e.1 / 64 = die then (e.1, e.2.without c.task ids logs) else e }
  (s1.setDie die d').setCtx k (failHandles c (copies ++ dones))

/-- A kill (R330): issue stops, results in flight and latched are discarded, and what has not begun is withdrawn. The
context is freed when its begun commands have ended (`KILL_FINISH`). -/
def State.kill (s : State) (k reason : Nat) : State :=
  let c := s.ctx k
  match c.st with
  | .free => s
  | .dying _ => s
  | _ =>
    let n := s.commandCount k
    let s1 := s.modDie (dieOf k) fun d => { d with
      kills := d.kills ++ [⟨k, c.task, reason, n, 0, 0, []⟩], lockAsks := d.lockAsks.filter fun x => x.task != c.task }
    (s1.setCtx k { c with
      st := .dying reason, inflight := [], latches := [], resuming := false, held := none, ask := none,
      wdown := none, idle := 0,
      xfer := none }).withdraw k

/-! ## Traps (R321 to R326) -/

/-- TRAPVEC of a context's virtual device. -/
def State.trapVec (s : State) (k : Nat) : Word := s.reg (dieOf k) (s.vdOf k) 0 0x010 &&& field 63 1

/-- Trap entry (R323): the bundle at `pc` traps with `t`. In a handler the context is killed with reason 1. -/
def State.trapEntry (s : State) (k : Nat) (pc : Word) (t : Trap) : State :=
  let c := s.ctx k
  if c.sup then s.kill k 1
  else s.setCtx k { c with
    latches := c.latches ++ c.inflight.filter fun r => r.left != 0
    inflight := c.inflight.filter fun r => r.left == 0
    resuming := false
    trappc := pc
    trapaddr := t.addr
    cause := t.cause.code
    tslot := t.slot
    detail := t.detail
    side0 := c.lc0
    side1 := c.lc1
    lc0 := .reset
    lc1 := .reset
    sup := true
    pc := s.trapVec k
    idle := 0
    xfer := none
    ask := none
    wdown := none }

/-- The acting context traps at its own bundle: the step's outcome is a trap and nothing of the bundle takes effect. -/
def State.trap (s : State) (t : Trap) : State :=
  { (s.trapEntry s.cur s.me.pc t) with last := .trapped }

/-- ERET's end (R326): the loop state set aside comes back, SUP is cleared and the context goes on at TRAPPC; its
latches are delivered from the resume cycle on. -/
def State.trapReturn (s : State) (k : Nat) : State :=
  s.modCtx k fun c => { c with
    lc0 := c.side0, lc1 := c.side1, sup := false, pc := c.trappc, resuming := true, idle := 0, xfer := none }

/-- The resume cycle (R326): each latch is in flight again with its own count. -/
def State.redeliver (s : State) (k : Nat) : State :=
  s.modCtx k fun c =>
    if c.resuming then { c with inflight := c.latches ++ c.inflight, latches := [], resuming := false } else c

/-! ## Operations and their issue (R33, R41, R45) -/

/-- What a bundle's slot asks for and does. The functions read the state as the bundle finds it; `effect` is applied
only when the whole bundle issues. -/
structure Op where
  /-- The slot it occupies. -/
  slot : Slot
  /-- The registers it writes, for R33. -/
  dests : Ctx → List Dest
  /-- The waits it places on core semaphores, with their thresholds (R41). -/
  waits : Ctx → List (Nat × Nat)
  /-- The register and semaphore ranges and the privilege of R45's step 3. -/
  range : State → Option Trap
  /-- Whether nothing of R74 but a wait blocks it. -/
  ready : State → Bool
  /-- The checks made when it would issue (R45's step 5 and the operand checks). -/
  addr : State → Option Trap
  /-- What it does when its bundle issues. -/
  effect : State → State
  /-- What it asks of an engine or a port while it is blocked with its waits passed (R74). -/
  probe : State → State
  /-- Whether an operation of the X slot takes effect after the others of its bundle: LOOP and LBRK. -/
  after : Bool

/-- A trap of a slot. -/
def Slot.trap (sl : Slot) (c : Cause) (detail : Nat) (addr : Word) : Trap := ⟨c, sl.code, detail, addr⟩

/-- An operation with no wait, no check and no effect. -/
def Op.base (sl : Slot) : Op :=
  { slot := sl, dests := fun _ => [], waits := fun _ => [], range := fun _ => none, ready := fun _ => true,
    addr := fun _ => none, effect := fun s => s, probe := fun s => s, after := false }

/-- What an instruction that stands in no slot is to a bundle: an event is never decoded into one. -/
def Op.idle : Op := Op.base .hdr

/-- What stands in a slot whose word decodes to no operation: the trap of R45's step 3. -/
def Op.bad (sl : Slot) (c : Cause) : Op := { Op.base sl with range := fun _ => some (sl.trap c 0 0) }

/-- The first trap that some operation answers. -/
def firstTrap (f : Op → Option Trap) : List Op → Option Trap
  | [] => none
  | o :: l => match f o with | some t => some t | none => firstTrap f l

/-- Whether two destinations of one bundle are alike; s0 and k0 name no register (R33). -/
def clash : List Dest → Bool
  | [] => false
  | d :: l => (d != .sreg 0 && d != .kreg 0 && l.contains d) || clash l

/-- The thresholds placed on one semaphore, added (R41). -/
def needOf (w : List (Nat × Nat)) (n : Nat) : Nat := (w.filter fun e => e.1 == n).foldl (fun t e => t + e.2) 0

/-- What is left of a semaphore for a wait in this cycle: its value less what issued bundles have taken (R41, R173). -/
def Core.left (c : Core) (n : Nat) : Nat :=
  c.sem n - c.semUpd.foldl (fun t u => match u with | .sub m x => if m = n then t + x else t | _ => t) 0

/-- Whether every wait passes. -/
def waitsPass (c : Core) (w : List (Nat × Nat)) : Bool := w.all fun e => decide (needOf w e.1 ≤ c.left e.1)

/-- The waits of all operations of a bundle. -/
def bundleWaits (ops : List Op) (c : Ctx) : List (Nat × Nat) := (ops.map fun o => o.waits c).flatten

/-- The trap a bundle takes at decode: the ranges and privileges in mask order, then R33 (R45). -/
def decodeTrap (ops : List Op) (s : State) : Option Trap :=
  match firstTrap (fun o => o.range s) ops with
  | some t => some t
  | none =>
    if clash ((ops.map fun o => o.dests s.me).flatten) then some ⟨.illegalBundle, 0xFF, 0, 0⟩ else none

/-- Whether nothing blocks the acting context's bundle (R74). -/
def unblocked (ops : List Op) (s : State) : Bool :=
  waitsPass (s.core (coreOf s.cur)) (bundleWaits ops s.me) && ops.all fun o => o.ready s

/-- A blocked bundle as it is examined (R74): when its waits pass, each operation that asks something asks it. -/
def examine (ops : List Op) (s : State) : State :=
  if waitsPass (s.core (coreOf s.cur)) (bundleWaits ops s.me) then ops.foldl (fun t o => o.probe t) s else s

/-- The order in which effects are applied: as the slots stand, X first, so that an MFS reads a special register as the bundle
finds it (R54, R271); but LOOP and LBRK after the others, so that a format entry of a loop counter is the counter's as the
bundle finds it (R65, R138; log entry 120), and S last, so that what reads pad memory in the bundle reads it as it was before
the bundle's store (R76). M comes before L and S, so the bundle's accesses to the rows of its own matrix operation's tile
come after that operation (log entry 112). -/
def effectOrder (ops : List Op) : List Op :=
  (ops.filter fun o => !o.after && o.slot != .s) ++ (ops.filter fun o => o.after && o.slot != .s) ++ ops.filter fun o => o.slot == .s

/-- The thresholds taken and every operation's effect. -/
def perform (ops : List Op) (s : State) : State :=
  (effectOrder ops).foldl (fun t o => o.effect t)
    ((bundleWaits ops s.me).foldl (fun t e => t.semUpd (coreOf s.cur) (.sub e.1 e.2)) s)

/-- The first trap of the checks made when a bundle would issue: those of R12 and of operands in mask order, then the
commit of the M slot (R130), which comes after the checks of R45. -/
def addrTrap (ops : List Op) (s : State) : Option Trap :=
  match firstTrap (fun o => o.addr s) (ops.filter fun o => o.slot != .m) with
  | some t => some t
  | none => firstTrap (fun o => o.addr s) (ops.filter fun o => o.slot == .m)

/-- A bundle's operations at their issue for the acting context: it traps, stays blocked, or issues. -/
def issue (ops : List Op) (s : State) : State :=
  match decodeTrap ops s with
  | some t => s.trap t
  | none =>
    if unblocked ops s then
      match addrTrap ops s with
      | some t => s.trap t
      | none => { (perform ops s) with last := .issued }
    else { (examine ops s) with last := .blocked }

end Sys2Proof.Machine
end

