-- ==== Sys2Proof/Machine/Operands.lean ====
section
/-! DEFINITION. Operand forms: guards and lanes (R32, R97), global addresses and their checks (R8 to R12, R158), the
effective address (R148), sync pairs (R40, R41), and what an operation reads. -/

namespace Sys2Proof.Machine

/-! ## Guards and lanes -/

/-- A guard's 256 bits: the predicate, or its complement (R32). -/
def Ctx.guard (c : Ctx) (g : Guard) : Pred := if g.neg then ~~~c.k g.k else c.k g.k

/-- A scalar guard: bit 0 (R32). -/
def Ctx.on (c : Ctx) (g : Guard) : Bool := (c.guard g).getLsbD 0

/-- Whether lane `i` of width `w` bytes is enabled: the bit of its lowest byte (R32). -/
def laneOn (g : Pred) (w i : Nat) : Bool := g.getLsbD (i * w)

/-- Whether some of `n` lanes of width `w` is enabled. -/
def someLane (g : Pred) (w n : Nat) : Bool := (List.range n).any fun i => laneOn g w i

/-- Lane `i` of width `w` bytes of a row held as a number (R97). -/
def laneOf (r : Nat) (w i : Nat) : Nat := r / 2 ^ (8 * w * i) % 2 ^ (8 * w)

/-- E2M1 element `i` of a row (R47). -/
def nibOf (r i : Nat) : Nat := r / 2 ^ (4 * i) % 16

/-- A row result: its bytes, the bytes it writes, and the flags of its lanes. -/
structure RowRes where
  val : Nat
  mask : Nat
  flags : Flags

/-- The mask of the bytes of lane `i`. -/
def laneMask (w i : Nat) : Nat := (2 ^ w - 1) * 2 ^ (w * i)

/-- The row that `f` gives lane by lane for the first `n` lanes of width `w`; `none` leaves a lane unwritten. -/
def laneRow (w : Nat) (f : Nat → Option (Nat × Flags)) : Nat → RowRes
  | 0 => ⟨0, 0, 0⟩
  | n + 1 =>
    let r := laneRow w f n
    match f n with
    | none => r
    | some (v, fl) => ⟨r.val + v % 2 ^ (8 * w) * 2 ^ (8 * w * n), r.mask + laneMask w n, r.flags ||| fl⟩

/-- The 4-bit elements that `f` gives among the first `n` of a row: their values and flags, with the bytes that hold one. -/
def nibRow (f : Nat → Option (Nat × Flags)) : Nat → RowRes
  | 0 => ⟨0, 0, 0⟩
  | n + 1 =>
    let r := nibRow f n
    match f n with
    | none => r
    | some (v, fl) => ⟨r.val + v % 16 * 2 ^ (4 * n), Nat.lor r.mask (2 ^ (n / 2)), r.flags ||| fl⟩

/-- Which of the first `n` elements `f` gives, as a mask. -/
def nibMask (f : Nat → Option (Nat × Flags)) : Nat → Nat
  | 0 => 0
  | n + 1 => nibMask f n + (if (f n).isSome then 2 ^ n else 0)

/-! ## What an operation reads (R76, R99) -/

/-- The registers and rows an operation reads: those of its bundle's issue, or the ones a late access kept (R78). `late`
is 1 for a late access, whose first cycle of latency has gone by; `mark` is the number of the command accepted next when the
bundle issued. -/
structure Rd where
  c : Ctx
  row : Nat → Nat
  late : Nat
  seed : Word
  mark : Nat

/-- What the acting context's bundle reads as it issues. -/
def State.rd (s : State) : Rd := ⟨s.me, fun n => (s.rowOf s.cur n).toNat, 0, s.me.srseed, s.mark⟩

/-! ## Global addresses (R8 to R12) -/

def epOf (a : Word) : Nat := a.toNat / 2 ^ 52
def adieOf (a : Word) : Nat := a.toNat / 2 ^ 48 % 16
def kindOf (a : Word) : Nat := a.toNat / 2 ^ 44 % 16
def lowOf (a : Word) : Nat := a.toNat % 2 ^ 44

/-- The cluster field of a cluster-pad or unit-pad address. -/
def aclusOf (a : Word) : Nat := a.toNat / 2 ^ 40 % 16

/-- The core field of a unit-pad address. -/
def acoreOf (a : Word) : Nat := a.toNat / 2 ^ 38 % 4

/-- Whether an address names this package (R10). -/
def State.ownPkg (s : State) (a : Word) : Bool := epOf a == 0xFFF || epOf a == s.epid

/-- Whether an address names a die of this package (R10). -/
def State.ownDie (s : State) (die : Nat) (a : Word) : Bool := s.ownPkg a && adieOf a == die

/-- The place an address names (R245). -/
def State.placeOf (s : State) (a : Word) : Nat := (if epOf a = 0xFFF then s.epid else epOf a) * 16 + adieOf a

/-- The size of the pad of a kind, or of the 44-bit virtual space. -/
def spaceSize (kind : Nat) : Nat :=
  if kind = 0x8 then 2 ^ 25 else if kind = 0x9 then 2 ^ 22 else if kind = 0xA then 2 ^ 20 else 2 ^ 44

/-- The offset of an address in its pad, or its VA. -/
def offOf (a : Word) : Nat := lowOf a % spaceSize (kindOf a)

/-- The reserved bits of an address's kind, as a number that is zero when they are (R9, R353). A SPACE that R353 does not
define counts as a reserved bit (log entry 127). -/
def reservedOf (a : Word) : Nat :=
  match kindOf a with
  | 0x8 => lowOf a / 2 ^ 25
  | 0x9 => lowOf a / 2 ^ 22 % 2 ^ 18
  | 0xA => lowOf a / 2 ^ 20 % 2 ^ 18
  | 0xF => if lowOf a / 2 ^ 40 = 0 then lowOf a / 2 ^ 28 % 2 ^ 12
           else if lowOf a / 2 ^ 40 = 1 then lowOf a / 2 ^ 36 % 2 ^ 4 else 1
  | _ => 0

/-- The kinds that R9 defines. -/
def kindKnown (kind : Nat) : Bool := [0x0, 0x8, 0x9, 0xA, 0xC, 0xF].contains kind

/-- The command classes of R11; TMOV is the one local copy that reaches control space. -/
inductive AddrClass where
  | ls | copy | tmov | remote | red
  deriving DecidableEq, Repr

/-- Whether a command class reaches the kind and place an address names, for context `k` (R10, R11). -/
def State.reaches (s : State) (k : Nat) (cl : AddrClass) (a : Word) : Bool :=
  let kind := kindOf a
  let own := s.ownDie (dieOf k) a
  let mem := kind == 0x0 || kind == 0x8 || kind == 0x9 || kind == 0xA
  match cl with
  | .ls => own && ((kind == 0x9 && aclusOf a == clusOf k) ||
      (kind == 0xA && aclusOf a == clusOf k && acoreOf a == coreNo k))
  | .copy => own && mem
  | .tmov => own && (mem || kind == 0xF)
  | .remote => mem && (s.ownPkg a || kind == 0x0 || !Config.isHost (epOf a))
  | .red => kind == 0xC && (s.ownPkg a || !Config.isHost (epOf a))

/-- The number of clusters a die presents (NCLUS, R14). -/
def State.nclus (s : State) (die : Nat) : Nat := (s.die die).nclus

/-- Whether a virtual device of a die owns a presented cluster. -/
def State.ownsClus (s : State) (die vd cl : Nat) : Bool :=
  decide (cl < s.nclus die) && s.vdEn die vd && (s.vdClus die vd).testBit cl

/-- The five checks of R12, in its order. -/
inductive AddrCheck where
  | kind | privilege | reach | reserved | cluster
  deriving DecidableEq, Repr

/-- The order of R12. -/
def addrChecks : List AddrCheck := [.kind, .privilege, .reach, .reserved, .cluster]

/-- Whether an address of a command of context `k` fails a check of R12. -/
def State.failsCheck (s : State) (k : Nat) (cl : AddrClass) (a : Word) : AddrCheck → Bool
  | .kind => !kindKnown (kindOf a)
  | .privilege => kindOf a == 0xF && !(s.ctx k).sup
  | .reach => !s.reaches k cl a
  | .reserved => decide (reservedOf a ≠ 0)
  | .cluster => s.ownDie (dieOf k) a && (kindOf a == 0x9 || kindOf a == 0xA) && !s.ownsClus (dieOf k) (s.vdOf k) (aclusOf a)

/-- What a failed check takes. -/
def AddrCheck.cause (c : AddrCheck) : Cause := if c = .privilege then .privilege else .addrClass

/-- The checks of R12 on one address of a command of context `k`. -/
def State.checkAddr (s : State) (k : Nat) (cl : AddrClass) (a : Word) : Option Cause :=
  (addrChecks.find? (s.failsCheck k cl a)).map AddrCheck.cause

/-- The checks of R12 on all addresses of a command, each with what TRAPADDR reports for it: each check on all of them before
the next, and of two addresses that fail the same check the earlier operand is reported (log entry 129). -/
def State.addrsTrap (s : State) (k : Nat) (l : List (AddrClass × Word × Word)) : Option (Cause × Word) :=
  addrChecks.findSome? fun c => (l.find? fun e => s.failsCheck k e.1 e.2.1 c).map fun e => (c.cause, e.2.2)

/-- A failed check as a trap; PRIVILEGE reports no address. -/
def trapOf (sl : Slot) (e : Cause × Word) : Trap := sl.trap e.1 0 (if e.1 = .privilege then 0 else e.2)

/-- Whether `n` bytes of a die pad from an offset lie in a virtual device's bounds (R158, R355: 64 KiB units). -/
def State.inDpBound (s : State) (die vd off n : Nat) : Bool :=
  let b := s.bound die vd boundDp
  decide (b.1 * 65536 ≤ off) && decide (off + n ≤ b.2 * 65536)

/-- Whether `n` bytes from an address lie within its pad or the virtual space (R158). -/
def inSpace (a : Word) (n : Nat) : Bool := decide (offOf a + n ≤ spaceSize (kindOf a))

/-- The first and second check of R158 on a range of `n` bytes: R11 and R12, the die-pad bounds, and the pad's end. -/
def State.checkRange (s : State) (k : Nat) (cl : AddrClass) (a : Word) (n : Nat) : Option Cause :=
  match s.checkAddr k cl a with
  | some c => some c
  | none =>
    if kindOf a == 0x8 && s.ownDie (dieOf k) a && decide (0 < n) && !s.inDpBound (dieOf k) (s.vdOf k) (offOf a) n then
      some .addrClass
    else if kindOf a != 0xF && !inSpace a n then some .addrClass
    else none

/-- The home address of a byte of a pad of this package. -/
def padKey (a : Word) : Nat := homeKey (adieOf a) (kindOf a) (lowOf a)

/-- UPADB of a context (R83). -/
def upadb (k : Nat) : Word := BitVec.ofNat 64 (unitKey (dieOf k) (clusOf k) (coreNo k) 0)

/-- CPADB of a context (R83). -/
def cpadb (k : Nat) : Word := BitVec.ofNat 64 (clusKey (dieOf k) (clusOf k) 0)

/-! ## The effective address (R148) -/

/-- A signed offset as a word. -/
def imm64 (i : Int) : Word := BitVec.ofInt 64 i

/-- EA := base + index + offset, modulo 2^64; index s0 means none. -/
def Ctx.ea (c : Ctx) (x : LSArgs) : Word := c.s x.base + c.s x.idx + imm64 x.off

/-- EA of an operation that has no index (R154). -/
def Ctx.ea1 (c : Ctx) (x : LSArgs) : Word := c.s x.base + imm64 x.off

/-- The base address alone (R153). -/
def Ctx.ea0 (c : Ctx) (x : LSArgs) : Word := c.s x.base

/-- The trap of an access of `n` bytes at `a` with an alignment, for an L or S operation (R148): R12 and the pad's end,
then the alignment. -/
def State.lsTrap (s : State) (sl : Slot) (a : Word) (n align : Nat) : Option Trap :=
  match s.checkAddr s.cur .ls a with
  | some c => some (trapOf sl (c, a))
  | none =>
    if !inSpace a n then some (sl.trap .addrClass 0 a)
    else if decide (a.toNat % align ≠ 0) then some (sl.trap .align 0 a)
    else none

/-! ## Sync pairs (R40, R41) -/

/-- The core semaphore waited on and its threshold. -/
def syncWaits (y : Sync) (c : Ctx) : List (Nat × Nat) := if y.wthr = 0 then [] else [(c.sbase + y.wsem, y.wthr)]

/-- Whether a semaphore waited on or signalled lies outside the allotment. -/
def syncOut (y : Sync) (c : Ctx) : Bool :=
  (decide (y.wthr ≠ 0) && !c.hasSem y.wsem) || (decide (y.sinc ≠ 0) && !c.hasSem y.ssem)

/-- The signal at completion, as a context semaphore and its increment. -/
def syncEnd (y : Sync) : Option (Nat × Nat) := if y.spt && decide (y.sinc ≠ 0) then some (y.ssem, y.sinc) else none

/-- A semaphore of a context raised at the end of the cycle. -/
def State.signal (s : State) (k sem inc : Nat) : State := s.semUpd (coreOf k) (.add ((s.ctx k).sbase + sem) inc)

/-- The signal at acceptance applied (R41). -/
def State.signalAccept (s : State) (y : Sync) : State :=
  if !y.spt && decide (y.sinc ≠ 0) then s.signal s.cur y.ssem y.sinc else s

/-- The signal of a command that is accepted and complete in its issue cycle, whichever its point. -/
def State.signalBoth (s : State) (y : Sync) : State := if y.sinc = 0 then s else s.signal s.cur y.ssem y.sinc

/-- A command's completion record for the acting context. -/
def State.done (s : State) (hnd : Option Nat) (y : Sync) : Done := ⟨s.cur, s.me.task, hnd, syncEnd y⟩

/-- A command operation: its waits and the range of its semaphores. -/
def Op.cmd (sl : Slot) (y : Sync) : Op :=
  { Op.base sl with
    waits := fun c => syncWaits y c
    range := fun s => if syncOut y s.me then some (sl.trap .regRange 0 0) else none }

/-- A check that comes before an operation's own range checks. -/
def Op.rangeIf (o : Op) (p : State → Bool) : Op :=
  { o with range := fun s => if p s then some (o.slot.trap .regRange 0 0) else o.range s }

/-- A privilege check after an operation's range checks (R45). -/
def Op.supOnly (o : Op) : Op :=
  { o with range := fun s =>
      match o.range s with
      | some t => some t
      | none => if s.me.sup then none else some (o.slot.trap .privilege 0 0) }

/-- A command accepted and complete in its issue cycle: `f` is its effect beside the signal. -/
def Op.atOnce (o : Op) (y : Sync) (f : State → State) : Op := { o with effect := fun s => f (s.signalBoth y) }

/-- A number of a command, never used before. -/
def State.fresh (s : State) : Nat × State := (s.bids, { s with bids := s.bids + 1 })

/-- A free draw: its number, and the state with the counter advanced. -/
def State.draw (s : State) : Nat × State := (s.free, { s with free := s.free + 1 })

end Sys2Proof.Machine
end

