-- ==== Sys2Proof/Machine/Cordic.lean ====
section
/-! DEFINITION. The CORDIC core and the functions of VCOR (R62, R120 to R122), on exact fractions. -/

namespace Sys2Proof.Machine

/-! ## Constants -/

/-- The integer nearest to atan(2^-i) × 2^36, for i from 0 to 27 (R62). -/
def atab : List Nat :=
  [53972150818, 31861621080, 16834805542, 8545610155, 4289387961, 2146785007, 1073654455, 536859990,
   268434091, 134217557, 67108843, 33554429, 16777216, 8388608, 4194304, 2097152, 1048576, 524288, 262144,
   131072, 65536, 32768, 16384, 8192, 4096, 2048, 1024, 512]

/-- The integer nearest to atanh(2^-i) × 2^36, for i from 1 to 27; index 0 is unused (R62). -/
def htab : List Nat :=
  [0, 37748030807, 17551834784, 8635098004, 4300572845, 2148183109, 1073829218, 536881835, 268436821,
   134217899, 67108885, 33554435, 16777216, 8388608, 4194304, 2097152, 1048576, 524288, 262144, 131072,
   65536, 32768, 16384, 8192, 4096, 2048, 1024, 512]

/-- CX := Fix(Kc(n)) for n from 4 to 28 (R121). -/
def cxTab : List Nat :=
  [41838747887, 41757270209, 41736895839, 41731801936, 41730528440, 41730210065, 41730130471, 41730110573,
   41730105598, 41730104355, 41730104044, 41730103966, 41730103947, 41730103942, 41730103941, 41730103940,
   41730103940, 41730103940, 41730103940, 41730103940, 41730103940, 41730103940, 41730103940, 41730103940,
   41730103940]

/-- HX := Fix(1 / Kh(n)) for n from 4 to 28 (R121). -/
def hxTab : List Nat :=
  [82762419547, 82924540015, 82965060193, 82975189618, 82977721936, 82978355013, 82978513282, 82978552850,
   82978562741, 82978565214, 82978565833, 82978566451, 82978566605, 82978566644, 82978566654, 82978566656,
   82978566657, 82978566657, 82978566657, 82978566657, 82978566657, 82978566657, 82978566657, 82978566657,
   82978566657]

/-- π × 2^480, rounded down. DEDUCED: every Fix, nearest integer and RoundTo of R122 agrees on it and on π (log entry 12). -/
def piNum : Int := 9807262312027308209670433188918835507998242348779285001939787782752841194690228188362411542853276791620015003000463704887612936232611341761041845

/-- ln 2 × 2^480, rounded down (log entry 12). -/
def ln2Num : Int := 2163831206068626582013545711676841861948052748333448460576126764197453058704984291728498395082427418541825153072586431322543340688239788857703209

/-! ## Fractions -/

/-- A fraction n / d with d positive. -/
structure Q where
  n : Int
  d : Nat

def Q.ofInt (i : Int) : Q := ⟨i, 1⟩
def Q.add (x y : Q) : Q := ⟨x.n * y.d + y.n * x.d, x.d * y.d⟩
def Q.sub (x y : Q) : Q := ⟨x.n * y.d - y.n * x.d, x.d * y.d⟩
def Q.mul (x y : Q) : Q := ⟨x.n * y.n, x.d * y.d⟩
def Q.neg (x : Q) : Q := ⟨-x.n, x.d⟩
def Q.abs (x : Q) : Q := ⟨x.n.natAbs, x.d⟩

/-- x × 2^e. -/
def Q.scale (x : Q) (e : Int) : Q := ⟨x.n * (pow2 e).1, x.d * (pow2 e).2⟩

/-- The fraction a finite value is. -/
def Q.ofVal : FVal → Q
  | .fin s n d => ⟨snum s n, d⟩
  | _ => ⟨0, 1⟩

/-- The value a fraction is; zero is +0. -/
def Q.toVal (x : Q) : FVal := .fin (decide (x.n < 0)) x.n.natAbs x.d

/-- The nearest integer, ties to even. -/
def Q.near (x : Q) : Int := (roundInt .rne 0 (decide (x.n < 0)) x.n.natAbs x.d).1

/-- floor(log2 |x|) of a nonzero fraction. -/
def Q.log2 (x : Q) : Int := floorLog2 x.n.natAbs x.d

def piQ : Q := ⟨piNum, 2 ^ 480⟩
def ln2Q : Q := ⟨ln2Num, 2 ^ 480⟩

/-! ## The datapath (R62) -/

/-- The modes of CordicCore. -/
inductive CorMode where
  | cr | cv | hr | hv | lv
  deriving DecidableEq, Repr

/-- A sum wrapped modulo 2^40 into two's complement. -/
def wrap40 (i : Int) : Int := (i + 2 ^ 39) % 2 ^ 40 - 2 ^ 39

/-- The hyperbolic index H(j). -/
def hIndex (j : Nat) : Nat := if j ≤ 3 then j + 1 else if j ≤ 13 then j else j - 1

/-- One iteration of CordicCore at step j. -/
def corStep (m : CorMode) (j : Nat) (v : Int × Int × Int) : Int × Int × Int :=
  let (x, y, z) := v
  let i := if m == .hr || m == .hv then hIndex j else j
  let d : Int := if m == .cr || m == .hr then (if 0 ≤ z then 1 else -1) else (if y < 0 then 1 else -1)
  let dx := y / 2 ^ i
  let dy := x / 2 ^ i
  match m with
  | .cr | .cv => (wrap40 (x - d * dx), wrap40 (y + d * dy), wrap40 (z - d * (atab.getD i 0 : Nat)))
  | .hr | .hv => (wrap40 (x + d * dx), wrap40 (y + d * dy), wrap40 (z - d * (htab.getD i 0 : Nat)))
  | .lv => (x, wrap40 (y + d * dy), wrap40 (z - d * 2 ^ (36 - i)))

/-- CordicCore after n iterations. -/
def cordic (m : CorMode) (v : Int × Int × Int) : Nat → Int × Int × Int
  | 0 => v
  | n + 1 => corStep m n (cordic m v n)

/-- Fix: the integer nearest to v × 2^36 (R121). -/
def Q.fix (x : Q) : Int := (x.scale 36).near

/-- Val: the value of a datapath integer. -/
def corVal (i : Int) : Q := ⟨i, 2 ^ 36⟩

/-- CX of n. -/
def cxOf (n : Nat) : Int := (cxTab.getD (n - 4) 0 : Nat)

/-- HX of n. -/
def hxOf (n : Nat) : Int := (hxTab.getD (n - 4) 0 : Nat)

/-! ## Helpers (R121) -/

/-- An exponent held within the range beyond which every format has overflowed or underflowed alike: RoundTo answers the
same value and flags there. -/
def clampExp (k : Int) : Int := max (-6000) (min 6000 k)

/-- ExpCore. -/
def expCore (x : Q) (n : Nat) : Q :=
  let k := (⟨x.n * 2 ^ 480, x.d * ln2Num.toNat⟩ : Q).near
  let (c, s, _) := cordic .hr (hxOf n, 0, (x.sub ((Q.ofInt k).mul ln2Q)).fix) n
  (corVal (c + s)).scale (clampExp k)

/-- DivCore. -/
def divCore (u v : Q) (n : Nat) : Q :=
  if u.n = 0 then ⟨0, 1⟩
  else
    let eu := u.log2
    let ev := v.log2
    let (_, _, z) := cordic .lv ((v.abs.scale (-ev)).fix, (u.abs.scale (-eu)).fix, 0) n
    let r := (corVal z).scale (eu - ev)
    if decide (u.n < 0) != decide (v.n < 0) then r.neg else r

/-- The quadrant reduction of SIN and COS: k mod 4, Val(c) and Val(s). -/
def sinCore (x : Q) (n : Nat) : Int × Q × Q :=
  let k := (⟨x.n * 2 * 2 ^ 480, x.d * piNum.toNat⟩ : Q).near
  let (c, s, _) := cordic .cr (cxOf n, 0, (x.sub ((Q.ofInt k).mul ⟨piNum, 2 ^ 481⟩)).fix) n
  (k % 4, corVal c, corVal s)

/-! ## The functions (R122) -/

/-- A NaN result, with IV when `iv`. -/
def corNan (iv : Bool) : FVal × Flags := (.nan false, if iv then flIV else 0)

/-- The value ± x of a fraction by a sign. -/
def signed (neg : Bool) (x : Q) : FVal := (if neg then x.neg else x).toVal

/-- |x| < 2^-12, for a finite value. -/
def tiny (x : Q) : Bool := decide (x.n.natAbs * 4096 < x.d)

/-- SIN and COS on a finite operand. -/
def sinVal (cos : Bool) (x : Q) (n : Nat) : FVal :=
  let (k, c, s) := sinCore x n
  let q := if cos then (k + 1) % 4 else k
  (if q = 0 then s else if q = 1 then c else if q = 2 then s.neg else c.neg).toVal

/-- ATAN2's main path (R122). -/
def atan2Main (w x : FVal) (n : Nat) : FVal :=
  let qx := Q.ofVal x
  let qw := Q.ofVal w
  let e := if decide (qx.n.natAbs * qw.d < qw.n.natAbs * qx.d) then qw.log2 else qx.log2
  let flip := decide (qx.n < 0)
  let x1 := qx.scale (-e)
  let y1 := qw.scale (-e)
  let (_, _, z) := cordic .cv ((if flip then x1.neg else x1).fix, (if flip then y1.neg else y1).fix, 0) n
  let v := corVal z
  (if flip then (if w.neg? then v.sub piQ else v.add piQ) else v).toVal

/-- ATAN2 of the old lane and the operand. -/
def atan2Val (w x : FVal) (n : Nat) : FVal :=
  let s := w.neg?
  if w.isZero then (if x.neg? then signed s piQ else w)
  else if w.isInf then
    (if x.isInf then (if x.neg? then signed s ⟨3 * piNum, 2 ^ 482⟩ else signed s ⟨piNum, 2 ^ 482⟩)
     else signed s ⟨piNum, 2 ^ 481⟩)
  else if x.isInf then (if x.neg? then signed s piQ else .fin s 0 1)
  else if x.isZero then signed s ⟨piNum, 2 ^ 481⟩
  else atan2Main w x n

/-- LN's main path. -/
def lnMain (x : Q) (n : Nat) : FVal :=
  let e := x.log2
  let m := x.scale (-e)
  let (_, _, z) := cordic .hv ((m.add ⟨1, 1⟩).fix, (m.sub ⟨1, 1⟩).fix, 0) n
  (((Q.ofInt 2).mul (corVal z)).add ((Q.ofInt e).mul ln2Q)).toVal

/-- SQRT's main path. -/
def sqrtMain (x : Q) (n : Nat) : FVal :=
  let h := (x.log2 + 1) / 2
  let m := x.scale (-(2 * h))
  let (p, _, _) := cordic .hv ((m.add ⟨1, 4⟩).fix, (m.sub ⟨1, 4⟩).fix, 0) n
  (((corVal p).mul (corVal (hxOf n))).scale h).toVal

/-- DIV of the old lane by the operand. -/
def divVal (w x : FVal) (n : Nat) : FVal × Flags :=
  let s := w.neg? != x.neg?
  if w.isInf then (if x.isInf then corNan true else (.inf s, 0))
  else if x.isInf then (.fin s 0 1, 0)
  else if x.isZero then (if w.isZero then corNan true else (.inf s, flDZ))
  else if w.isZero then (.fin s 0 1, 0)
  else ((divCore (Q.ofVal w) (Q.ofVal x) n).toVal, 0)

/-- TANH's main path. -/
def tanhMain (x : Q) (n : Nat) : FVal :=
  let e := expCore ((Q.ofInt (-2)).mul x.abs) n
  signed (decide (x.n < 0)) (divCore ((Q.ofInt 1).sub e) ((Q.ofInt 1).add e) n)

/-- The logistic value of SIGM and SILU. -/
def sigmQ (x : Q) (n : Nat) : Q := divCore (Q.ofInt 1) ((Q.ofInt 1).add (expCore x.neg n)) n

/-- V of R122 for a function, from the old lane `w` and the operand `x`, with the flags of its special cases. -/
def corFun (f : CorFn) (n : Nat) (w x : FVal) : FVal × Flags :=
  let two := f == .atan2 || f == .div
  let sg : Flags := if x.isSig || (two && w.isSig) then flIV else 0
  if x.isNan || (two && w.isNan) then (.nan false, sg)
  else
    match f with
    | .sin => if x.isInf then corNan true else if tiny (Q.ofVal x) then (x, 0) else (sinVal false (Q.ofVal x) n, 0)
    | .cos => if x.isInf then corNan true else (sinVal true (Q.ofVal x) n, 0)
    | .atan2 => (atan2Val w x n, 0)
    | .exp =>
      match x with
      | .inf true => (.fin false 0 1, 0)
      | .inf false => (.inf false, 0)
      | _ => ((expCore (Q.ofVal x) n).toVal, 0)
    | .ln =>
      if x.isZero then (.inf true, flDZ)
      else if x.neg? then corNan true
      else if x.isInf then (.inf false, 0)
      else (lnMain (Q.ofVal x) n, 0)
    | .sqrt =>
      if x.isZero then (x, 0)
      else if x.neg? then corNan true
      else if x.isInf then (.inf false, 0)
      else (sqrtMain (Q.ofVal x) n, 0)
    | .div => divVal w x n
    | .tanh =>
      if x.isInf || decide (16 * (Q.ofVal x).d ≤ (Q.ofVal x).n.natAbs) then (.fin x.neg? 1 1, 0)
      else if tiny (Q.ofVal x) then (x, 0)
      else (tanhMain (Q.ofVal x) n, 0)
    | .sigm =>
      match x with
      | .inf true => (.fin false 0 1, 0)
      | .inf false => (.fin false 1 1, 0)
      | _ => ((sigmQ (Q.ofVal x) n).toVal, 0)
    | .silu =>
      match x with
      | .inf true => (.fin true 0 1, 0)
      | .inf false => (.inf false, 0)
      | _ => if x.isZero then (x, 0) else (((Q.ofVal x).mul (sigmQ (Q.ofVal x) n)).toVal, 0)

end Sys2Proof.Machine
end

