-- ==== Sys2Proof/Machine/Flags.lean ====
section
/-! DEFINITION. The sticky flags (R55, R56), the special registers (R83) and the write of results at the end of a cycle
(R75, R77). -/

namespace Sys2Proof.Machine

/-! ## Flags -/

/-- Flags that reach FLAGS are ORed into it (R56). -/
def Ctx.raise (c : Ctx) (f : Flags) : Ctx := { c with flags := c.flags ||| f }

/-- (FLAGS and TRAPEN)[6:0], which TFENCE raises as ARITH (R94). -/
def Ctx.pendingArith (c : Ctx) : Flags := c.flags &&& c.trapen

/-! ## Special registers (R83) -/

/-- The numbers that name a special register. -/
def specKnown (n : Nat) : Bool :=
  decide (n ≤ 0x08) || (decide (0x10 ≤ n) && decide (n ≤ 0x13)) || (decide (0x20 ≤ n) && decide (n ≤ 0x24)) ||
    (decide (0x30 ≤ n) && decide (n ≤ 0x32)) || n == 0x40 || n == 0x41 || n == 0x50 || n == 0x51 ||
    (decide (0x100 ≤ n) && decide (n ≤ 0x107))

/-- The special registers that MTS writes. -/
def specWritable (n : Nat) : Bool :=
  (decide (0x20 ≤ n) && decide (n ≤ 0x24)) || n == 0x50 || (decide (0x100 ≤ n) && decide (n ≤ 0x107))

/-- The numbers that need supervisor rights. -/
def specSup (n : Nat) : Bool := decide (0x100 ≤ n) && decide (n ≤ 0x1FF)

/-- TRAPINFO (R324). -/
def Ctx.trapInfo (c : Ctx) : Nat :=
  c.latches.length * 2 ^ 32 + c.detail % 8192 * 2 ^ 16 + c.tslot % 256 * 256 + c.cause % 256

/-- HPFREE of a die (R227): the free frames of its hull range. -/
def State.hpfree (s : State) (die : Nat) : Nat := (s.die die).hfree.length

/-- A special register's value for context `k` (R83). -/
def State.specRead (s : State) (k n : Nat) : Word :=
  let c := s.ctx k
  let nat := fun v : Nat => BitVec.ofNat 64 v
  match n with
  | 0x0000 => nat (ctxNo k)
  | 0x0001 => nat (coreNo k)
  | 0x0002 => nat (clusOf k)
  | 0x0003 => nat (dieOf k)
  | 0x0004 => nat s.epid
  | 0x0005 => nat (s.vdOf k)
  | 0x0006 => nat c.task
  | 0x0007 => nat c.job
  | 0x0008 => nat (s.nclus (dieOf k))
  | 0x0010 => nat c.vbase
  | 0x0011 => nat c.vlim
  | 0x0012 => nat c.sbase
  | 0x0013 => nat c.slim
  | 0x0020 => c.flags.setWidth 64
  | 0x0021 => c.trapen.setWidth 64
  | 0x0022 => c.srseed
  | 0x0023 => c.lc0.lc
  | 0x0024 => c.lc1.lc
  | 0x0030 => nat (s.cycle (dieOf k))
  | 0x0031 => nat (s.hpfree (dieOf k))
  | 0x0032 => 0x00082040
  | 0x0040 => upadb k
  | 0x0041 => cpadb k
  | 0x0050 => (s.core (coreOf k)).shadn.setWidth 64
  | 0x0051 => nat ((s.dreg (dieOf k) 5 0).toNat % 2 * 65536 + c.ord.toNat)
  | 0x0100 => c.trappc
  | 0x0101 => nat c.trapInfo
  | 0x0102 => c.trapaddr
  | 0x0103 => nat (s.preemptLim (dieOf k) (s.vdOf k))
  | 0x0104 => tget 0 c.sscr 0
  | 0x0105 => tget 0 c.sscr 1
  | 0x0106 => tget 0 c.sscr 2
  | 0x0107 => tget 0 c.sscr 3
  | _ => 0

/-- A write of SHADN: the period changes and the core's operation count returns to 0 (R66). -/
def Core.writeShadn (c : Core) (v : Nat) : Core := { c with shadn := BitVec.ofNat 16 v, shcount := 0 }

/-- The state with an event to come next. -/
def State.next (s : State) (e : Ev) : State := { s with agenda := e :: s.agenda }

/-- The write of a special register by MTS: its RW fields take the value (R77, R92). SHADN's is an event of its own,
SHADN_WRITE. -/
def State.specWrite (s : State) (k n : Nat) (v : Word) : State :=
  match n with
  | 0x0020 => s.modCtx k fun c => { c with flags := v.setWidth 7 }
  | 0x0021 => s.modCtx k fun c => { c with trapen := v.setWidth 7 }
  | 0x0022 => s.modCtx k fun c => { c with srseed := seedWrite v }
  | 0x0023 => s.modCtx k fun c => { c with lc0 := { c.lc0 with lc := v } }
  | 0x0024 => s.modCtx k fun c => { c with lc1 := { c.lc1 with lc := v } }
  | 0x0050 => s.next ⟨.shadnWrite, [coreOf k, v.toNat % 65536]⟩
  | 0x0100 => s.modCtx k fun c => { c with trappc := v }
  | 0x0101 => s.modCtx k fun c => { c with detail := bitsOf v 28 16, tslot := bitsOf v 15 8, cause := bitsOf v 7 0 }
  | 0x0102 => s.modCtx k fun c => { c with trapaddr := v }
  | 0x0103 => s.setReg (dieOf k) (s.vdOf k) 0xFF 0 (v &&& field 31 0)
  | 0x0104 => s.modCtx k fun c => { c with sscr := tput c.sscr 0 v }
  | 0x0105 => s.modCtx k fun c => { c with sscr := tput c.sscr 1 v }
  | 0x0106 => s.modCtx k fun c => { c with sscr := tput c.sscr 2 v }
  | 0x0107 => s.modCtx k fun c => { c with sscr := tput c.sscr 3 v }
  | _ => s

/-! ## Results written -/

/-- Whether a result is a special register's. -/
def Result.isSpecial (r : Result) : Bool :=
  match r.dest with
  | .special _ => true
  | _ => false

/-- One result written: the register under its mask, and the flags ORed (R56). -/
def State.writeResult (s : State) (k : Nat) (r : Result) : State :=
  let s1 := match r.dest with
    | .sreg n => s.modCtx k fun c => c.setS n (r.val.setWidth 64)
    | .kreg n => s.modCtx k fun c => c.setK n ((r.val.setWidth 256 &&& r.mask) ||| (c.k n &&& ~~~r.mask))
    | .row n | .under n _ => s.modCore (coreOf k) fun c => c.setRow n (mergeRow (c.row n) r.val r.mask)
    | .nib n m _ => s.modCore (coreOf k) fun c => c.setRow n (mergeNibs (c.row n) r.val m)
    | .none => s
    | .special n => s.specWrite k n (r.val.setWidth 64)
    | .out h => s.modCtx k fun c => c.setH h { c.h h with out := (c.h h).out + 1 }
    | .whole h => s.modCtx k fun c =>
      c.setH h { c.h h with out := (c.h h).out + 1, loc := (c.h h).loc + 1, rem := (c.h h).rem + 1 }
  s1.modCtx k fun c => c.raise r.flags

/-- The results due now: those whose count has come to 1. -/
def dueOf (l : List Result) : List Result := l.filter fun r => decide (r.left ≤ 1)

/-- Whether a matrix operation of a context writes a physical row (R125). -/
def MatOp.covers (m : MatOp) (k n : Nat) : Bool := m.ctx == k && decide (m.tile ≤ n) && decide (n < m.tile + 64)

/-- Whether an active or pending matrix operation of a context, accepted before command `id`, writes a physical row. -/
def State.rowUnder (s : State) (k n id : Nat) : Bool :=
  let c := s.core (coreOf k)
  [c.act, c.pend].any fun m => match m with
    | some m => m.covers k n && decide (m.id < id)
    | none => false

/-- A result's destination as it is put in flight: a row in a tile under a matrix operation accepted before command `id` is written
after it. -/
def State.destAt (s : State) (k id : Nat) (d : Dest) : Dest :=
  match d with
  | .row n => if s.rowUnder k n id then .under n id else d
  | .nib n m none => if s.rowUnder k n id then .nib n m (some id) else d
  | _ => d

/-- Whether a result that is due must wait for a matrix operation (R78). -/
def State.heldBack (s : State) (k : Nat) (r : Result) : Bool :=
  match r.dest with
  | .under n id | .nib n _ (some id) => s.rowUnder k n id
  | _ => false

/-- Results written in order, special registers first, so that a flag set in the cycle stands over an MTS to FLAGS (R33,
R56). -/
def State.writeResults (s : State) (k : Nat) (l : List Result) : State :=
  ((l.filter fun r => r.isSpecial) ++ l.filter fun r => !r.isSpecial).foldl (fun t r => t.writeResult k r) s

/-- The end of an unfrozen cycle for a context's results (R75): the due ones are written, but for those that wait for a matrix
operation, which are late from now on; the others are one cycle nearer. -/
def State.writeback (s : State) (k : Nat) : State :=
  let l := (s.ctx k).inflight
  (s.modCtx k fun c => { c with
    inflight := (l.filter fun r => !decide (r.left ≤ 1) || s.heldBack k r).map fun r => { r with left := r.left - 1 } }).writeResults k
    ((dueOf l).filter fun r => !s.heldBack k r)

/-- The late row writes of a context that wait for no matrix operation any more (R78). -/
def State.landRows (s : State) (k : Nat) : State :=
  let l := (s.ctx k).inflight
  let now := fun r : Result => r.left == 0 && !s.heldBack k r
  (s.modCtx k fun c => { c with inflight := l.filter fun r => !now r }).writeResults k (l.filter now)

end Sys2Proof.Machine
end

