-- ==== Sys2Proof/Machine/Scalar.lean ====
section
/-! DEFINITION. The X-slot arithmetic, immediate and predicate operations (R84 to R88). -/

namespace Sys2Proof.Machine

/-- A guarded scalar operation with result `f` after `l` cycles (R32, R75, R84). -/
def xop (d : Nat) (g : Guard) (l : Nat) (f : Ctx → Word) : Op :=
  { Op.base .x with
    dests := fun _ => [.sreg d]
    effect := fun s => if s.me.on g then s.pushS d (f s.me) l .x else s }

/-- A guarded predicate operation with result `f`. -/
def xopK (d : Nat) (g : Guard) (f : Ctx → Pred) : Op :=
  { Op.base .x with
    dests := fun _ => [.kreg d]
    effect := fun s => if s.me.on g then s.pushK d (f s.me) fullMask 0 1 .x else s }

/-- The guard of the immediate forms, which always execute (R32). -/
def always : Guard := ⟨false, 0⟩

/-- 1 or 0. -/
def flag (b : Bool) : Word := if b then 1 else 0

/-- The number of set bits among the low `n`. -/
def popN (v : Nat) : Nat → Nat
  | 0 => 0
  | n + 1 => popN v n + (if v.testBit n then 1 else 0)

/-- The number of leading zeros of an `n`-bit value. -/
def clzN (v : Nat) : Nat → Nat
  | 0 => 0
  | n + 1 => if v.testBit n then 0 else clzN v n + 1

/-- The index of the lowest set bit at or above `i` among `n` more bits, or `i + n`. -/
def ctzN (v i : Nat) : Nat → Nat
  | 0 => i
  | n + 1 => if v.testBit i then i else ctzN v (i + 1) n

/-- The width that a sub-op of SEXT and ZEXT names. -/
def extWidth (w : Nat) : Nat := if w = 0 then 8 else if w = 1 then 16 else 32

/-- The high 64 bits of a product. -/
def high64 (p : Int) : Word := BitVec.ofInt 64 (p / 2 ^ 64)

/-- Signed quotient of DIV; by zero it is all ones (R85). -/
def divS (a b : Word) : Word := if b = 0 then BitVec.allOnes 64 else a.sdiv b

/-- Unsigned quotient of DIVN. -/
def divU (a b : Word) : Word := if b = 0 then BitVec.allOnes 64 else a / b

/-- Signed remainder of REM; by zero it is a. -/
def remS (a b : Word) : Word := if b = 0 then a else a.srem b

/-- Unsigned remainder of REMN. -/
def remU (a b : Word) : Word := if b = 0 then a else a % b

/-- The low six bits of a shift count. -/
def cnt6 (b : Word) : Nat := b.toNat % 64

/-- The low w bits of a word, sign-extended. -/
def sextTo (w : Nat) (a : Word) : Word := (a.setWidth w).signExtend 64

/-- The low w bits of a word, zero-extended. -/
def zextTo (w : Nat) (a : Word) : Word := (a.setWidth w).setWidth 64

/-! ## Register-register (R85) -/

def opAdd (d a b : Nat) (g : Guard) : Op := xop d g 1 fun c => c.s a + c.s b
def opSub (d a b : Nat) (g : Guard) : Op := xop d g 1 fun c => c.s a - c.s b
def opMul (d a b : Nat) (g : Guard) : Op := xop d g 3 fun c => c.s a * c.s b
def opMulh (d a b : Nat) (g : Guard) : Op := xop d g 3 fun c => high64 ((c.s a).toInt * (c.s b).toInt)
def opMulhn (d a b : Nat) (g : Guard) : Op := xop d g 3 fun c => high64 ((c.s a).toNat * (c.s b).toNat)
def opDiv (d a b : Nat) (g : Guard) : Op := xop d g 20 fun c => divS (c.s a) (c.s b)
def opDivn (d a b : Nat) (g : Guard) : Op := xop d g 20 fun c => divU (c.s a) (c.s b)
def opRem (d a b : Nat) (g : Guard) : Op := xop d g 20 fun c => remS (c.s a) (c.s b)
def opRemn (d a b : Nat) (g : Guard) : Op := xop d g 20 fun c => remU (c.s a) (c.s b)
def opAnd (d a b : Nat) (g : Guard) : Op := xop d g 1 fun c => c.s a &&& c.s b
def opOr (d a b : Nat) (g : Guard) : Op := xop d g 1 fun c => c.s a ||| c.s b
def opXor (d a b : Nat) (g : Guard) : Op := xop d g 1 fun c => c.s a ^^^ c.s b
def opShl (d a b : Nat) (g : Guard) : Op := xop d g 1 fun c => c.s a <<< cnt6 (c.s b)
def opShr (d a b : Nat) (g : Guard) : Op := xop d g 1 fun c => c.s a >>> cnt6 (c.s b)
def opSra (d a b : Nat) (g : Guard) : Op := xop d g 1 fun c => (c.s a).sshiftRight (cnt6 (c.s b))
def opMin (d a b : Nat) (g : Guard) : Op := xop d g 1 fun c => if (c.s b).slt (c.s a) then c.s b else c.s a
def opMinn (d a b : Nat) (g : Guard) : Op := xop d g 1 fun c => if (c.s b).ult (c.s a) then c.s b else c.s a
def opMax (d a b : Nat) (g : Guard) : Op := xop d g 1 fun c => if (c.s a).slt (c.s b) then c.s b else c.s a
def opMaxn (d a b : Nat) (g : Guard) : Op := xop d g 1 fun c => if (c.s a).ult (c.s b) then c.s b else c.s a
def opAddsh (d a b n : Nat) (g : Guard) : Op := xop d g 1 fun c => c.s a + (c.s b <<< n)
def opSel (d a b : Nat) (g : Guard) : Op := xop d g 1 fun c => if c.s d ≠ 0 then c.s a else c.s b
def opClz (d a : Nat) (g : Guard) : Op := xop d g 1 fun c => BitVec.ofNat 64 (clzN (c.s a).toNat 64)
def opPopc (d a : Nat) (g : Guard) : Op := xop d g 1 fun c => BitVec.ofNat 64 (popN (c.s a).toNat 64)
def opSext (d a w : Nat) (g : Guard) : Op := xop d g 1 fun c => sextTo (extWidth w) (c.s a)
def opZext (d a w : Nat) (g : Guard) : Op := xop d g 1 fun c => zextTo (extWidth w) (c.s a)
def opCmpeq (d a b : Nat) (g : Guard) : Op := xop d g 1 fun c => flag (c.s a == c.s b)
def opCmpne (d a b : Nat) (g : Guard) : Op := xop d g 1 fun c => flag (c.s a != c.s b)
def opCmplt (d a b : Nat) (g : Guard) : Op := xop d g 1 fun c => flag ((c.s a).slt (c.s b))
def opCmple (d a b : Nat) (g : Guard) : Op := xop d g 1 fun c => flag ((c.s a).sle (c.s b))
def opCmpltn (d a b : Nat) (g : Guard) : Op := xop d g 1 fun c => flag ((c.s a).ult (c.s b))
def opCmplen (d a b : Nat) (g : Guard) : Op := xop d g 1 fun c => flag ((c.s a).ule (c.s b))

/-! ## Immediate (R86, R87) -/

def opAddi (d a : Nat) (imm : Int) : Op := xop d always 1 fun c => c.s a + imm64 imm
def opAndi (d a : Nat) (imm : Int) : Op := xop d always 1 fun c => c.s a &&& imm64 imm
def opOri (d a : Nat) (imm : Int) : Op := xop d always 1 fun c => c.s a ||| imm64 imm
def opXori (d a : Nat) (imm : Int) : Op := xop d always 1 fun c => c.s a ^^^ imm64 imm
def opShli (d a n : Nat) : Op := xop d always 1 fun c => c.s a <<< n
def opShri (d a n : Nat) : Op := xop d always 1 fun c => c.s a >>> n
def opSrai (d a n : Nat) : Op := xop d always 1 fun c => (c.s a).sshiftRight n
def opCmpeqi (d a : Nat) (imm : Int) : Op := xop d always 1 fun c => flag (c.s a == imm64 imm)
def opCmplti (d a : Nat) (imm : Int) : Op := xop d always 1 fun c => flag ((c.s a).slt (imm64 imm))
def opCmpltni (d a : Nat) (imm : Int) : Op := xop d always 1 fun c => flag ((c.s a).ult (imm64 imm))
def opSethi (d : Nat) (imm : Int) : Op := xop d always 1 fun _ => imm64 (imm * 8192)

/-! ## Predicates (R88) -/

def opKand (d a b : Nat) (g : Guard) : Op := xopK d g fun c => c.k a &&& c.k b
def opKandn (d a b : Nat) (g : Guard) : Op := xopK d g fun c => c.k a &&& ~~~c.k b
def opKor (d a b : Nat) (g : Guard) : Op := xopK d g fun c => c.k a ||| c.k b
def opKxor (d a b : Nat) (g : Guard) : Op := xopK d g fun c => c.k a ^^^ c.k b
def opKnot (d a : Nat) (g : Guard) : Op := xopK d g fun c => ~~~c.k a
def opKmov (d a : Nat) (g : Guard) : Op := xopK d g fun c => c.k a
def opKmovB (d sr : Nat) (g : Guard) : Op := xopK d g fun c => if (c.s sr).getLsbD 0 then fullMask else 0
def opKmovLo (d sr : Nat) (g : Guard) : Op := xopK d g fun c => (c.s sr).setWidth 256
def opKrd (sr a q : Nat) (g : Guard) : Op := xop sr g 1 fun c => ((c.k a) >>> (64 * q)).setWidth 64
def opKfirst (sr a : Nat) (g : Guard) : Op := xop sr g 1 fun c => BitVec.ofNat 64 (ctzN (c.k a).toNat 0 256)

/-- The meaning of `add`: it issues, blocks or traps as a bundle of its own (`opAdd`). -/
def execAdd (d : Nat) (a : Nat) (b : Nat) (g : Guard) (s : State) : Host.Outcome State Fault Refusal :=
  .next (issue [opAdd d a b g] s)

/-- The meaning of `sub`: it issues, blocks or traps as a bundle of its own (`opSub`). -/
def execSub (d : Nat) (a : Nat) (b : Nat) (g : Guard) (s : State) : Host.Outcome State Fault Refusal :=
  .next (issue [opSub d a b g] s)

/-- The meaning of `mul`: it issues, blocks or traps as a bundle of its own (`opMul`). -/
def execMul (d : Nat) (a : Nat) (b : Nat) (g : Guard) (s : State) : Host.Outcome State Fault Refusal :=
  .next (issue [opMul d a b g] s)

/-- The meaning of `mulh`: it issues, blocks or traps as a bundle of its own (`opMulh`). -/
def execMulh (d : Nat) (a : Nat) (b : Nat) (g : Guard) (s : State) : Host.Outcome State Fault Refusal :=
  .next (issue [opMulh d a b g] s)

/-- The meaning of `mulhn`: it issues, blocks or traps as a bundle of its own (`opMulhn`). -/
def execMulhn (d : Nat) (a : Nat) (b : Nat) (g : Guard) (s : State) : Host.Outcome State Fault Refusal :=
  .next (issue [opMulhn d a b g] s)

/-- The meaning of `div`: it issues, blocks or traps as a bundle of its own (`opDiv`). -/
def execDiv (d : Nat) (a : Nat) (b : Nat) (g : Guard) (s : State) : Host.Outcome State Fault Refusal :=
  .next (issue [opDiv d a b g] s)

/-- The meaning of `divn`: it issues, blocks or traps as a bundle of its own (`opDivn`). -/
def execDivn (d : Nat) (a : Nat) (b : Nat) (g : Guard) (s : State) : Host.Outcome State Fault Refusal :=
  .next (issue [opDivn d a b g] s)

/-- The meaning of `rem`: it issues, blocks or traps as a bundle of its own (`opRem`). -/
def execRem (d : Nat) (a : Nat) (b : Nat) (g : Guard) (s : State) : Host.Outcome State Fault Refusal :=
  .next (issue [opRem d a b g] s)

/-- The meaning of `remn`: it issues, blocks or traps as a bundle of its own (`opRemn`). -/
def execRemn (d : Nat) (a : Nat) (b : Nat) (g : Guard) (s : State) : Host.Outcome State Fault Refusal :=
  .next (issue [opRemn d a b g] s)

/-- The meaning of `and`: it issues, blocks or traps as a bundle of its own (`opAnd`). -/
def execAnd (d : Nat) (a : Nat) (b : Nat) (g : Guard) (s : State) : Host.Outcome State Fault Refusal :=
  .next (issue [opAnd d a b g] s)

/-- The meaning of `or`: it issues, blocks or traps as a bundle of its own (`opOr`). -/
def execOr (d : Nat) (a : Nat) (b : Nat) (g : Guard) (s : State) : Host.Outcome State Fault Refusal :=
  .next (issue [opOr d a b g] s)

/-- The meaning of `xor`: it issues, blocks or traps as a bundle of its own (`opXor`). -/
def execXor (d : Nat) (a : Nat) (b : Nat) (g : Guard) (s : State) : Host.Outcome State Fault Refusal :=
  .next (issue [opXor d a b g] s)

/-- The meaning of `shl`: it issues, blocks or traps as a bundle of its own (`opShl`). -/
def execShl (d : Nat) (a : Nat) (b : Nat) (g : Guard) (s : State) : Host.Outcome State Fault Refusal :=
  .next (issue [opShl d a b g] s)

/-- The meaning of `shr`: it issues, blocks or traps as a bundle of its own (`opShr`). -/
def execShr (d : Nat) (a : Nat) (b : Nat) (g : Guard) (s : State) : Host.Outcome State Fault Refusal :=
  .next (issue [opShr d a b g] s)

/-- The meaning of `sra`: it issues, blocks or traps as a bundle of its own (`opSra`). -/
def execSra (d : Nat) (a : Nat) (b : Nat) (g : Guard) (s : State) : Host.Outcome State Fault Refusal :=
  .next (issue [opSra d a b g] s)

/-- The meaning of `min`: it issues, blocks or traps as a bundle of its own (`opMin`). -/
def execMin (d : Nat) (a : Nat) (b : Nat) (g : Guard) (s : State) : Host.Outcome State Fault Refusal :=
  .next (issue [opMin d a b g] s)

/-- The meaning of `minn`: it issues, blocks or traps as a bundle of its own (`opMinn`). -/
def execMinn (d : Nat) (a : Nat) (b : Nat) (g : Guard) (s : State) : Host.Outcome State Fault Refusal :=
  .next (issue [opMinn d a b g] s)

/-- The meaning of `max`: it issues, blocks or traps as a bundle of its own (`opMax`). -/
def execMax (d : Nat) (a : Nat) (b : Nat) (g : Guard) (s : State) : Host.Outcome State Fault Refusal :=
  .next (issue [opMax d a b g] s)

/-- The meaning of `maxn`: it issues, blocks or traps as a bundle of its own (`opMaxn`). -/
def execMaxn (d : Nat) (a : Nat) (b : Nat) (g : Guard) (s : State) : Host.Outcome State Fault Refusal :=
  .next (issue [opMaxn d a b g] s)

/-- The meaning of `addsh`: it issues, blocks or traps as a bundle of its own (`opAddsh`). -/
def execAddsh (d : Nat) (a : Nat) (b : Nat) (n : Nat) (g : Guard) (s : State) : Host.Outcome State Fault Refusal :=
  .next (issue [opAddsh d a b n g] s)

/-- The meaning of `sel`: it issues, blocks or traps as a bundle of its own (`opSel`). -/
def execSel (d : Nat) (a : Nat) (b : Nat) (g : Guard) (s : State) : Host.Outcome State Fault Refusal :=
  .next (issue [opSel d a b g] s)

/-- The meaning of `clz`: it issues, blocks or traps as a bundle of its own (`opClz`). -/
def execClz (d : Nat) (a : Nat) (g : Guard) (s : State) : Host.Outcome State Fault Refusal :=
  .next (issue [opClz d a g] s)

/-- The meaning of `popc`: it issues, blocks or traps as a bundle of its own (`opPopc`). -/
def execPopc (d : Nat) (a : Nat) (g : Guard) (s : State) : Host.Outcome State Fault Refusal :=
  .next (issue [opPopc d a g] s)

/-- The meaning of `sext`: it issues, blocks or traps as a bundle of its own (`opSext`). -/
def execSext (d : Nat) (a : Nat) (w : Nat) (g : Guard) (s : State) : Host.Outcome State Fault Refusal :=
  .next (issue [opSext d a w g] s)

/-- The meaning of `zext`: it issues, blocks or traps as a bundle of its own (`opZext`). -/
def execZext (d : Nat) (a : Nat) (w : Nat) (g : Guard) (s : State) : Host.Outcome State Fault Refusal :=
  .next (issue [opZext d a w g] s)

/-- The meaning of `cmpeq`: it issues, blocks or traps as a bundle of its own (`opCmpeq`). -/
def execCmpeq (d : Nat) (a : Nat) (b : Nat) (g : Guard) (s : State) : Host.Outcome State Fault Refusal :=
  .next (issue [opCmpeq d a b g] s)

/-- The meaning of `cmpne`: it issues, blocks or traps as a bundle of its own (`opCmpne`). -/
def execCmpne (d : Nat) (a : Nat) (b : Nat) (g : Guard) (s : State) : Host.Outcome State Fault Refusal :=
  .next (issue [opCmpne d a b g] s)

/-- The meaning of `cmplt`: it issues, blocks or traps as a bundle of its own (`opCmplt`). -/
def execCmplt (d : Nat) (a : Nat) (b : Nat) (g : Guard) (s : State) : Host.Outcome State Fault Refusal :=
  .next (issue [opCmplt d a b g] s)

/-- The meaning of `cmple`: it issues, blocks or traps as a bundle of its own (`opCmple`). -/
def execCmple (d : Nat) (a : Nat) (b : Nat) (g : Guard) (s : State) : Host.Outcome State Fault Refusal :=
  .next (issue [opCmple d a b g] s)

/-- The meaning of `cmpltn`: it issues, blocks or traps as a bundle of its own (`opCmpltn`). -/
def execCmpltn (d : Nat) (a : Nat) (b : Nat) (g : Guard) (s : State) : Host.Outcome State Fault Refusal :=
  .next (issue [opCmpltn d a b g] s)

/-- The meaning of `cmplen`: it issues, blocks or traps as a bundle of its own (`opCmplen`). -/
def execCmplen (d : Nat) (a : Nat) (b : Nat) (g : Guard) (s : State) : Host.Outcome State Fault Refusal :=
  .next (issue [opCmplen d a b g] s)

/-- The meaning of `addi`: it issues, blocks or traps as a bundle of its own (`opAddi`). -/
def execAddi (d : Nat) (a : Nat) (imm : Int) (s : State) : Host.Outcome State Fault Refusal :=
  .next (issue [opAddi d a imm] s)

/-- The meaning of `andi`: it issues, blocks or traps as a bundle of its own (`opAndi`). -/
def execAndi (d : Nat) (a : Nat) (imm : Int) (s : State) : Host.Outcome State Fault Refusal :=
  .next (issue [opAndi d a imm] s)

/-- The meaning of `ori`: it issues, blocks or traps as a bundle of its own (`opOri`). -/
def execOri (d : Nat) (a : Nat) (imm : Int) (s : State) : Host.Outcome State Fault Refusal :=
  .next (issue [opOri d a imm] s)

/-- The meaning of `xori`: it issues, blocks or traps as a bundle of its own (`opXori`). -/
def execXori (d : Nat) (a : Nat) (imm : Int) (s : State) : Host.Outcome State Fault Refusal :=
  .next (issue [opXori d a imm] s)

/-- The meaning of `shli`: it issues, blocks or traps as a bundle of its own (`opShli`). -/
def execShli (d : Nat) (a : Nat) (n : Nat) (s : State) : Host.Outcome State Fault Refusal :=
  .next (issue [opShli d a n] s)

/-- The meaning of `shri`: it issues, blocks or traps as a bundle of its own (`opShri`). -/
def execShri (d : Nat) (a : Nat) (n : Nat) (s : State) : Host.Outcome State Fault Refusal :=
  .next (issue [opShri d a n] s)

/-- The meaning of `srai`: it issues, blocks or traps as a bundle of its own (`opSrai`). -/
def execSrai (d : Nat) (a : Nat) (n : Nat) (s : State) : Host.Outcome State Fault Refusal :=
  .next (issue [opSrai d a n] s)

/-- The meaning of `cmpeqi`: it issues, blocks or traps as a bundle of its own (`opCmpeqi`). -/
def execCmpeqi (d : Nat) (a : Nat) (imm : Int) (s : State) : Host.Outcome State Fault Refusal :=
  .next (issue [opCmpeqi d a imm] s)

/-- The meaning of `cmplti`: it issues, blocks or traps as a bundle of its own (`opCmplti`). -/
def execCmplti (d : Nat) (a : Nat) (imm : Int) (s : State) : Host.Outcome State Fault Refusal :=
  .next (issue [opCmplti d a imm] s)

/-- The meaning of `cmpltni`: it issues, blocks or traps as a bundle of its own (`opCmpltni`). -/
def execCmpltni (d : Nat) (a : Nat) (imm : Int) (s : State) : Host.Outcome State Fault Refusal :=
  .next (issue [opCmpltni d a imm] s)

/-- The meaning of `sethi`: it issues, blocks or traps as a bundle of its own (`opSethi`). -/
def execSethi (d : Nat) (imm : Int) (s : State) : Host.Outcome State Fault Refusal :=
  .next (issue [opSethi d imm] s)

/-- The meaning of `kand`: it issues, blocks or traps as a bundle of its own (`opKand`). -/
def execKand (d : Nat) (a : Nat) (b : Nat) (g : Guard) (s : State) : Host.Outcome State Fault Refusal :=
  .next (issue [opKand d a b g] s)

/-- The meaning of `kandn`: it issues, blocks or traps as a bundle of its own (`opKandn`). -/
def execKandn (d : Nat) (a : Nat) (b : Nat) (g : Guard) (s : State) : Host.Outcome State Fault Refusal :=
  .next (issue [opKandn d a b g] s)

/-- The meaning of `kor`: it issues, blocks or traps as a bundle of its own (`opKor`). -/
def execKor (d : Nat) (a : Nat) (b : Nat) (g : Guard) (s : State) : Host.Outcome State Fault Refusal :=
  .next (issue [opKor d a b g] s)

/-- The meaning of `kxor`: it issues, blocks or traps as a bundle of its own (`opKxor`). -/
def execKxor (d : Nat) (a : Nat) (b : Nat) (g : Guard) (s : State) : Host.Outcome State Fault Refusal :=
  .next (issue [opKxor d a b g] s)

/-- The meaning of `knot`: it issues, blocks or traps as a bundle of its own (`opKnot`). -/
def execKnot (d : Nat) (a : Nat) (g : Guard) (s : State) : Host.Outcome State Fault Refusal :=
  .next (issue [opKnot d a g] s)

/-- The meaning of `kmov`: it issues, blocks or traps as a bundle of its own (`opKmov`). -/
def execKmov (d : Nat) (a : Nat) (g : Guard) (s : State) : Host.Outcome State Fault Refusal :=
  .next (issue [opKmov d a g] s)

/-- The meaning of `kmovB`: it issues, blocks or traps as a bundle of its own (`opKmovB`). -/
def execKmovB (d : Nat) (sr : Nat) (g : Guard) (s : State) : Host.Outcome State Fault Refusal :=
  .next (issue [opKmovB d sr g] s)

/-- The meaning of `kmovLo`: it issues, blocks or traps as a bundle of its own (`opKmovLo`). -/
def execKmovLo (d : Nat) (sr : Nat) (g : Guard) (s : State) : Host.Outcome State Fault Refusal :=
  .next (issue [opKmovLo d sr g] s)

/-- The meaning of `krd`: it issues, blocks or traps as a bundle of its own (`opKrd`). -/
def execKrd (sr : Nat) (a : Nat) (q : Nat) (g : Guard) (s : State) : Host.Outcome State Fault Refusal :=
  .next (issue [opKrd sr a q g] s)

/-- The meaning of `kfirst`: it issues, blocks or traps as a bundle of its own (`opKfirst`). -/
def execKfirst (sr : Nat) (a : Nat) (g : Guard) (s : State) : Host.Outcome State Fault Refusal :=
  .next (issue [opKfirst sr a g] s)


end Sys2Proof.Machine
end

