-- ==== Sys2Proof/Machine/Vector.lean ====
section
/-! DEFINITION. The V-slot operations (R96 to R122): what each computes from the rows it reads, and how any of them
issues, is late under a matrix operation, and delivers its result. -/

namespace Sys2Proof.Machine

/-! ## How a vector operation issues -/

/-- A vector operation: the context rows it names and those it reads, its destination, its latency, the draws it makes, and
its result from what it reads (none when its guard enables no lane, R32). -/
structure VOp where
  rows : List Nat
  reads : List Nat
  dest : Ctx → List Dest
  lat : Nat
  draws : Nat
  out : Rd → Option (Dest × RowRes)

/-- The V slot that acts: VB, or else VA. -/
def State.vslot (s : State) : Slot := if s.slot == .vb then .vb else .va

/-- An operation placed in another slot of its kind. -/
def Op.onSlot (o : Op) (sl : Slot) : Op := { o with slot := sl }

/-- Whether a context row lies in a tile under the context's active or pending matrix operation (R78, R99). -/
def State.rowBusy (s : State) (k n : Nat) : Bool :=
  let c := s.core (coreOf k)
  let p := (s.ctx k).vbase + n
  (match c.act with | some m => m.covers k p | none => false) ||
    (match c.pend with | some m => m.covers k p | none => false)

/-- The rows of a list that are not busy, as they read now: what a late access keeps (R99). -/
def State.keepRows (s : State) (k : Nat) (rows : List Nat) : Tbl Row :=
  rows.foldl (fun t n => if s.rowBusy k n then t else tput t n (s.rowOf k n)) []

/-- A late access of the acting context put on the core's freeze line (R78), with the bytes it has still to access and those it
has read; `passed` is 1 when a bank it needs was served to another in this cycle. -/
def State.pushLate (s : State) (sl : Slot) (i : Instr) (rows : List Nat) (seed : Word) (passed : Nat)
    (touch : List (Nat × Nat)) (got : List Host.Cell) : State :=
  s.modCore (coreOf s.cur) fun c => { c with late := c.late ++
    [⟨s.cur, sl, i, s.me.sregs, s.me.kregs, s.keepRows s.cur rows, seed, passed, s.mark, touch, got⟩] }

/-- A vector operation performed: its result goes in flight. `id` is the number of the command accepted next when it issued. -/
def VOp.perform (v : VOp) (sl : Slot) (rd : Rd) (k id : Nat) (s : State) : State :=
  match v.out rd with
  | none => s
  | some (d, r) =>
    s.push k ⟨s.destAt k id d, BitVec.ofNat 2048 r.val, BitVec.ofNat 256 r.mask, r.flags, v.lat - rd.late, sl, false⟩

/-- A vector operation as an operation of its slot: row numbers outside the allotment take REG_RANGE (R35); a read of a tile
under a matrix operation is late; draws are made at issue whatever the guard (R53). -/
def vop (i : Instr) (v : VOp) : Op :=
  { Op.base .va with
    dests := v.dest
    range := fun s => if v.rows.all fun n => s.me.hasRow n then none else some (s.vslot.trap .regRange 0 0)
    effect := fun s =>
      let s1 := s.modMe fun c => { c with srseed := drawSkip c.srseed v.draws }
      if (v.out s.rd).isSome && v.reads.any (fun n => s.rowBusy s.cur n) then s1.pushLate s.vslot i v.reads s.me.srseed 0 [] []
      else v.perform s.vslot s.rd s.cur s.bids s1 }

/-! ## Shapes -/

/-- The destination row, by its physical number. -/
def rowDest (d : Nat) (c : Ctx) : Dest := .row (c.vbase + d)

/-- A row's 4-bit elements as a result: those that `f` gives. -/
def nibOut (d : Nat) (c : Ctx) (f : Nat → Option (Nat × Flags)) : Dest × RowRes :=
  (.nib (c.vbase + d) (nibMask f 512) none, nibRow f 512)

/-- A row operation over the lanes of width `w` that its guard enables. -/
def vrow (rows : List Nat) (w d : Nat) (g : Guard) (lat : Nat) (f : Rd → Nat → Nat × Flags) : VOp :=
  { rows := d :: rows
    reads := rows
    dest := fun c => [rowDest d c]
    lat := lat
    draws := 0
    out := fun rd =>
      let p := rd.c.guard g
      if someLane p w (256 / w) then
        some (rowDest d rd.c, laneRow w (fun i => if laneOn p w i then some (f rd i) else none) (256 / w))
      else none }

/-- A lane-wise operation on one source row, by the lane's bits. -/
def vmap1 (t : Ty) (d a : Nat) (g : Guard) (lat : Nat) (f : Nat → Nat × Flags) : VOp :=
  vrow [a] t.bytes d g lat fun rd i => f (laneOf (rd.row a) t.bytes i)

/-- A lane-wise operation on two source rows. -/
def vmap2 (t : Ty) (d a b : Nat) (g : Guard) (lat : Nat) (f : Nat → Nat → Nat × Flags) : VOp :=
  vrow [a, b] t.bytes d g lat fun rd i => f (laneOf (rd.row a) t.bytes i) (laneOf (rd.row b) t.bytes i)

/-- An operation that reads its old destination as well (R99). -/
def VOp.readsOld (v : VOp) : VOp := { v with reads := v.rows }

/-- A lane-wise operation on two source rows and the old destination. -/
def vmap3 (t : Ty) (d a b : Nat) (g : Guard) (lat : Nat) (f : Nat → Nat → Nat → Nat × Flags) : VOp :=
  (vrow [a, b] t.bytes d g lat fun rd i =>
    f (laneOf (rd.row a) t.bytes i) (laneOf (rd.row b) t.bytes i) (laneOf (rd.row d) t.bytes i)).readsOld

/-! ## Lane arithmetic (R101 to R103) -/

/-- An integer result: wrapped, or saturated with m = 1 (R101). -/
def intRes (t : Ty) (m : Bool) (i : Int) : Nat × Flags := if m then saturate t i else (wrapInt t i, 0)

/-- A floating result: RoundTo of an exact value, with the flags met on the way (R101). -/
def floatRes (t : Ty) (x : FVal × Flags) : Nat × Flags :=
  let r := rne t x.1
  (r.1, r.2 ||| x.2)

/-- A value computed in integers or in exact reals by its type. -/
def byKind (t : Ty) (m : Bool) (i : Int) (x : FVal × Flags) : Nat × Flags :=
  if t.isInt then intRes t m i else floatRes t x

/-- The sum of a product and a term, each with its flags. -/
def fmaVal (p : FVal × Flags) (z : FVal) : FVal × Flags :=
  let r := exactSum [p.1, z]
  (r.1, r.2 ||| p.2)

/-- VADD and VSUB (R102). -/
def addLane (t : Ty) (m neg : Bool) (x y : Nat) : Nat × Flags :=
  let i := intOf t y
  let v := floatOf t y
  byKind t m (if neg then intOf t x - i else intOf t x + i) (exactSum [floatOf t x, if neg then v.negate else v])

/-- VMUL (R102). -/
def mulLane (t : Ty) (m : Bool) (x y : Nat) : Nat × Flags :=
  byKind t m (intOf t x * intOf t y) (mulVal (floatOf t x) (floatOf t y))

/-- VFMA and VFMS (R102). -/
def fmaLane (t : Ty) (m neg : Bool) (x y z : Nat) : Nat × Flags :=
  let p := mulVal (floatOf t x) (floatOf t y)
  let i := intOf t x * intOf t y
  byKind t m (if neg then intOf t z - i else intOf t z + i)
    (fmaVal (if neg then p.1.negate else p.1, p.2) (floatOf t z))

/-- VABS (R102). -/
def absLane (t : Ty) (m : Bool) (x : Nat) : Nat × Flags :=
  if t.isInt then intRes t m (if t.isSigned then ((intOf t x).natAbs : Int) else intOf t x)
  else (x % 2 ^ (t.bits - 1), 0)

/-- VNEG (R102). -/
def negLane (t : Ty) (m : Bool) (x : Nat) : Nat × Flags :=
  if t.isInt then intRes t m (-intOf t x) else (Nat.xor x (2 ^ (t.bits - 1)), 0)

/-- x below y in the order of VMIN and VMAX, with −0 below +0 (R103). -/
def ordLt (x y : FVal) : Bool := x.lt y || (x.isZero && y.isZero && x.neg? && !y.neg?)

/-- The lesser or the greater of two lanes (R103). -/
def extLane (t : Ty) (m isMax : Bool) (x y : Nat) : Nat × Flags :=
  if t.isInt then
    (if (if isMax then decide (intOf t x < intOf t y) else decide (intOf t y < intOf t x)) then y else x, 0)
  else
    let a := floatOf t x
    let b := floatOf t y
    let f : Flags := if a.isSig || b.isSig then flIV else 0
    if a.isNan && b.isNan then (t.canonNan, f)
    else if a.isNan then (if m then y else t.canonNan, f)
    else if b.isNan then (if m then x else t.canonNan, f)
    else (if (if isMax then ordLt a b else ordLt b a) then y else x, f)

/-- Latency 2 for integers and 4 for floating point (R100). -/
def addLat (t : Ty) : Nat := if t.isInt then 2 else 4

def vVadd (t : Ty) (d a b : Nat) (g : Guard) (m : Bool) : VOp := vmap2 t d a b g (addLat t) (addLane t m false)
def vVsub (t : Ty) (d a b : Nat) (g : Guard) (m : Bool) : VOp := vmap2 t d a b g (addLat t) (addLane t m true)
def vVmul (t : Ty) (d a b : Nat) (g : Guard) (m : Bool) : VOp := vmap2 t d a b g 4 (mulLane t m)
def vVfma (t : Ty) (d a b : Nat) (g : Guard) (m : Bool) : VOp := vmap3 t d a b g 4 (fmaLane t m false)
def vVfms (t : Ty) (d a b : Nat) (g : Guard) (m : Bool) : VOp := vmap3 t d a b g 4 (fmaLane t m true)
def vVmin (t : Ty) (d a b : Nat) (g : Guard) (m : Bool) : VOp := vmap2 t d a b g 2 (extLane t m false)
def vVmax (t : Ty) (d a b : Nat) (g : Guard) (m : Bool) : VOp := vmap2 t d a b g 2 (extLane t m true)
def vVabs (t : Ty) (d a : Nat) (g : Guard) (m : Bool) : VOp := vmap1 t d a g 2 (absLane t m)
def vVneg (t : Ty) (d a : Nat) (g : Guard) (m : Bool) : VOp := vmap1 t d a g 2 (negLane t m)

/-! ## Dot products (R104) -/

/-- The destination type of a packed dot product. -/
def dotTy (t : Ty) : Ty := if t.isSigned then .i32 else if t.isUnsigned then .n32 else .f32

/-- The exact sum of values with the flags of their making. -/
def sumVals (l : List (FVal × Flags)) : FVal × Flags :=
  let r := exactSum (l.map fun x => x.1)
  (r.1, l.foldl (fun f x => f ||| x.2) r.2)

/-- One destination lane of VDOT4 and VDOT2: `p` terms and the old lane. -/
def dotLane (t : Ty) (m : Bool) (p ra rb z j : Nat) : Nat × Flags :=
  let xs := (List.range p).map fun i => (laneOf ra t.bytes (p * j + i), laneOf rb t.bytes (p * j + i))
  if t.isInt then
    intRes (dotTy t) m (xs.foldl (fun s e => s + intOf t e.1 * intOf t e.2) (intOf (dotTy t) z))
  else
    floatRes .f32 (sumVals (xs.map (fun e => mulVal (floatOf t e.1) (floatOf t e.2)) ++ [(floatOf .f32 z, 0)]))

/-- A packed dot product of `p` elements to a lane. -/
def vdot (p : Nat) (t : Ty) (d a b : Nat) (g : Guard) (m : Bool) : VOp :=
  (vrow [a, b] 4 d g 4 fun rd j => dotLane t m p (rd.row a) (rd.row b) (laneOf (rd.row d) 4 j) j).readsOld

def vVdot4 (t : Ty) (d a b : Nat) (g : Guard) (m : Bool) : VOp := vdot 4 t d a b g m
def vVdot2 (t : Ty) (d a b : Nat) (g : Guard) (m : Bool) : VOp := vdot 2 t d a b g m

/-! ## Bits, shifts and compares (R105, R106) -/

/-- A lane of bits alone. -/
def plain (v : Nat) : Nat × Flags := (v, 0)

/-- Arithmetic right shift of an n-bit lane. -/
def sraN (n x c : Nat) : Nat := if x.testBit (n - 1) then x / 2 ^ c + (2 ^ n - 2 ^ (n - c)) else x / 2 ^ c

/-- Which shift. -/
inductive Shift where
  | shl | shr | sra
  deriving DecidableEq, Repr

/-- One lane shifted. -/
def shiftLane (k : Shift) (n x c : Nat) : Nat × Flags :=
  match k with
  | .shl => plain (x * 2 ^ c % 2 ^ n)
  | .shr => plain (x / 2 ^ c)
  | .sra => plain (sraN n x c)

def vVand (t : Ty) (d a b : Nat) (g : Guard) : VOp := vmap2 t d a b g 2 fun x y => plain (Nat.land x y)
def vVor (t : Ty) (d a b : Nat) (g : Guard) : VOp := vmap2 t d a b g 2 fun x y => plain (Nat.lor x y)
def vVxor (t : Ty) (d a b : Nat) (g : Guard) : VOp := vmap2 t d a b g 2 fun x y => plain (Nat.xor x y)
def vVnot (t : Ty) (d a : Nat) (g : Guard) : VOp := vmap1 t d a g 2 fun x => plain (2 ^ t.bits - 1 - x)

/-- A shift by the lanes of b: the low log2(8w) bits. -/
def vshift (k : Shift) (t : Ty) (d a b : Nat) (g : Guard) : VOp :=
  vmap2 t d a b g 2 fun x y => shiftLane k t.bits x (y % t.bits)

/-- A shift by an immediate count. -/
def vshiftI (k : Shift) (t : Ty) (d a n : Nat) (g : Guard) : VOp := vmap1 t d a g 2 fun x => shiftLane k t.bits x n

def vVshl (t : Ty) (d a b : Nat) (g : Guard) : VOp := vshift .shl t d a b g
def vVshlImm (t : Ty) (d a n : Nat) (g : Guard) : VOp := vshiftI .shl t d a n g
def vVshr (t : Ty) (d a b : Nat) (g : Guard) : VOp := vshift .shr t d a b g
def vVshrImm (t : Ty) (d a n : Nat) (g : Guard) : VOp := vshiftI .shr t d a n g
def vVsra (t : Ty) (d a b : Nat) (g : Guard) : VOp := vshift .sra t d a b g
def vVsraImm (t : Ty) (d a n : Nat) (g : Guard) : VOp := vshiftI .sra t d a n g

/-- A compare on one lane: its truth and IV for a signalling NaN. -/
def cmpLane (t : Ty) (ci : Int → Int → Bool) (cf : FVal → FVal → Bool) (nan : Bool) (x y : Nat) : Bool × Flags :=
  if t.isInt then (ci (intOf t x) (intOf t y), 0)
  else
    let a := floatOf t x
    let b := floatOf t y
    (if a.isNan || b.isNan then nan else cf a b, if a.isSig || b.isSig then flIV else 0)

/-- A compare: for each enabled lane all predicate bits of its bytes take the result (R106). -/
def vcmp (t : Ty) (kd a b : Nat) (g : Guard) (f : Nat → Nat → Bool × Flags) : VOp :=
  { rows := [a, b]
    reads := [a, b]
    dest := fun _ => [.kreg kd]
    lat := 2
    draws := 0
    out := fun rd =>
      let p := rd.c.guard g
      let w := t.bytes
      if someLane p w t.lanes then
        let fl := fun i => f (laneOf (rd.row a) w i) (laneOf (rd.row b) w i)
        let r := (List.range t.lanes).foldl (fun acc i =>
          if laneOn p w i then
            (RowRes.mk (if (fl i).1 then acc.val + laneMask w i else acc.val) (acc.mask + laneMask w i)
              (acc.flags ||| (fl i).2))
          else acc) ⟨0, 0, 0⟩
        some (.kreg kd, r)
      else none }

def vVcmpeq (t : Ty) (kd a b : Nat) (g : Guard) : VOp :=
  vcmp t kd a b g (cmpLane t (fun x y => x == y) (fun x y => x.eq y) false)
def vVcmpne (t : Ty) (kd a b : Nat) (g : Guard) : VOp :=
  vcmp t kd a b g (cmpLane t (fun x y => x != y) (fun x y => !x.eq y) true)
def vVcmplt (t : Ty) (kd a b : Nat) (g : Guard) : VOp :=
  vcmp t kd a b g (cmpLane t (fun x y => decide (x < y)) (fun x y => x.lt y) false)
def vVcmple (t : Ty) (kd a b : Nat) (g : Guard) : VOp :=
  vcmp t kd a b g (cmpLane t (fun x y => decide (x ≤ y)) (fun x y => x.lt y || x.eq y) false)

/-! ## Moving lanes (R107 to R110) -/

/-- VSEL writes every lane: a where the guard is true, else b (R107). -/
def vVsel (t : Ty) (d a b : Nat) (g : Guard) : VOp :=
  { rows := [d, a, b]
    reads := [a, b]
    dest := fun c => [rowDest d c]
    lat := 2
    draws := 0
    out := fun rd =>
      let p := rd.c.guard g
      let w := t.bytes
      some (rowDest d rd.c, laneRow w (fun i =>
        some (plain (laneOf (rd.row (if laneOn p w i then a else b)) w i))) t.lanes) }

def vVmov (t : Ty) (d a : Nat) (g : Guard) : VOp := vmap1 t d a g 2 plain

def vVbcast (t : Ty) (d a c : Nat) (g : Guard) : VOp :=
  vrow [a] t.bytes d g 2 fun rd _ => plain (laneOf (rd.row a) t.bytes c)

def vVbcastScalar (t : Ty) (d sa : Nat) (g : Guard) : VOp :=
  vrow [] t.bytes d g 2 fun rd _ => plain ((rd.c.s sa).toNat % 2 ^ t.bits)

/-- VLANE insert: lane c, when it is enabled (R109). -/
def vVlaneInsert (t : Ty) (d sa c : Nat) (g : Guard) : VOp :=
  { rows := [d]
    reads := []
    dest := fun x => [rowDest d x]
    lat := 2
    draws := 0
    out := fun rd =>
      if laneOn (rd.c.guard g) t.bytes c then
        some (rowDest d rd.c, ⟨(rd.c.s sa).toNat % 2 ^ t.bits * 2 ^ (t.bits * c), laneMask t.bytes c, 0⟩)
      else none }

/-- The value of a lane in a scalar: sign-extended for .i types, else zero-extended. -/
def laneScalar (t : Ty) (b : Nat) : Nat := (BitVec.ofInt 64 (if t.isSigned then intOf t b else (b : Int))).toNat

/-- VLANE extract: lane c to a scalar, when it is enabled (R109). -/
def vVlaneExtract (t : Ty) (sd a c : Nat) (g : Guard) : VOp :=
  { rows := [a]
    reads := [a]
    dest := fun _ => [.sreg sd]
    lat := 2
    draws := 0
    out := fun rd =>
      if laneOn (rd.c.guard g) t.bytes c then
        some (.sreg sd, ⟨laneScalar t (laneOf (rd.row a) t.bytes c), 2 ^ 256 - 1, 0⟩)
      else none }

def vVperm (t : Ty) (d a b : Nat) (g : Guard) (m : Bool) : VOp :=
  vrow [a, b] t.bytes d g 3 fun rd i =>
    let u := laneOf (rd.row b) t.bytes i
    if m && decide (t.lanes ≤ u) then plain 0 else plain (laneOf (rd.row a) t.bytes (u % t.lanes))

def vVrot (t : Ty) (d a c : Nat) (g : Guard) (m : Bool) : VOp :=
  vrow [a] t.bytes d g 3 fun rd i =>
    if m && decide (t.lanes ≤ i + c) then plain 0 else plain (laneOf (rd.row a) t.bytes ((i + c) % t.lanes))

/-! ## Conversion and scaling (R111 to R113) -/

/-- The elements VCVT converts, and the parts of the narrow side (R112). -/
def cvtCount (dt st : Ty) : Nat := 2048 / max dt.bits st.bits

/-- The number of parts of the narrow side. -/
def cvtParts (dt st : Ty) : Nat := max dt.bits st.bits / min dt.bits st.bits

/-- The draws from a generator state, in order. -/
def drawList (s : Word) : Nat → List Nat
  | 0 => []
  | n + 1 => drawBits (drawNext s) :: drawList (drawNext s) n

/-- One element converted (R112). -/
def cvtElem (dt st : Ty) (mode : Rnd) (m : Bool) (draw b : Nat) : Nat × Flags :=
  let v := valOf st b
  let r := roundTo dt mode draw v
  let f := if v.isSig then r.2 ||| flIV else r.2
  match v with
  | .fin neg _ _ =>
    if m && r.1 == infBits dt neg then (signBits dt neg dt.maxBits, (f &&& ~~~flOF) ||| flSAT) else (r.1, f)
  | _ => (r.1, f)

/-- Element `j` of a row, of a type of any width. -/
def elemOf (t : Ty) (r j : Nat) : Nat := if t == .e2m1 then nibOf r j else laneOf r t.bytes j

def vVcvt (dt st : Ty) (mode : Rnd) (p d a : Nat) (g : Guard) (m : Bool) : VOp :=
  let n := cvtCount dt st
  let sr := mode == .sr
  { rows := [d, a]
    reads := [a]
    dest := fun c => [rowDest d c]
    lat := 3
    draws := if sr then n else 0
    out := fun rd =>
      let pr := rd.c.guard g
      let ww := max dt.bytes st.bytes
      let draws := if sr then drawList rd.seed n else []
      let conv := fun i => cvtElem dt st mode m (draws.getD i 0)
        (elemOf st (rd.row a) (if st.bits < dt.bits then p * n + i else i))
      let base := if dt.bits < st.bits then p * n else 0
      let f := fun j =>
        if decide (base ≤ j) && decide (j < base + n) && laneOn pr ww (j - base) then some (conv (j - base)) else none
      if someLane pr ww n then
        some (if dt == .e2m1 then nibOut d rd.c f else (rowDest d rd.c, laneRow dt.bytes f dt.lanes))
      else none }

/-- A power's exponent held within the range beyond which RoundTo answers alike. -/
def sclExp (k : Int) : Int := max (-5000) (min 5000 k)

/-- VSCL on one lane (R113). -/
def sclLane (t : Ty) (x y : Nat) : Nat × Flags :=
  let k := intOf (if t.bits = 16 then .i16 else if t.bits = 32 then .i32 else .i64) y
  let v := floatOf t x
  floatRes t (match v with
    | .fin s n d => .fin s (n * (pow2 (sclExp k)).1) (d * (pow2 (sclExp k)).2)
    | w => w, if v.isSig then flIV else 0)

def vVscl (t : Ty) (d a b : Nat) (g : Guard) : VOp := vmap2 t d a b g 4 (sclLane t)

/-! ## Reductions, scans and counts (R61, R114 to R117) -/

/-- Neighbouring values combined, with the flags so far. -/
def pairUp (op : Nat → Nat → Nat × Flags) : List Nat → List Nat × Flags
  | x :: y :: l =>
    let r := op x y
    let q := pairUp op l
    (r.1 :: q.1, r.2 ||| q.2)
  | l => (l, 0)

/-- TreeReduce of R61, for at most `f` levels. -/
def treeReduce (op : Nat → Nat → Nat × Flags) : Nat → List Nat → Flags → Nat × Flags
  | 0, l, fl => (l.headD 0, fl)
  | f + 1, l, fl =>
    match l with
    | [] => (0, fl)
    | [x] => (x, fl)
    | _ =>
      let q := pairUp op l
      treeReduce op f q.1 (fl ||| q.2)

/-- A reduction of the lanes of a, disabled lanes standing as the identity (R114). -/
def vred (t : Ty) (d a : Nat) (g : Guard) (ident : Nat) (op : Nat → Nat → Nat × Flags) : VOp :=
  { rows := [d, a]
    reads := [a]
    dest := fun c => [rowDest d c]
    lat := 6
    draws := 0
    out := fun rd =>
      let p := rd.c.guard g
      let w := t.bytes
      if someLane p w t.lanes then
        let r := treeReduce op 9
          ((List.range t.lanes).map fun i => if laneOn p w i then laneOf (rd.row a) w i else ident) 0
        some (rowDest d rd.c, ⟨r.1 % 2 ^ t.bits, 2 ^ 256 - 1, r.2⟩)
      else none }

/-- The bits of −0, or of integer 0. -/
def negZero (t : Ty) : Nat := if t.isInt then 0 else 2 ^ (t.bits - 1)

/-- The bits of −∞ or the type minimum. -/
def leastBits (t : Ty) : Nat := if t.isInt then wrapInt t t.intMin else infBits t true

/-- The bits of +∞ or the type maximum. -/
def greatestBits (t : Ty) : Nat := if t.isInt then wrapInt t t.intMax else infBits t false

def vVredadd (t : Ty) (d a : Nat) (g : Guard) (m : Bool) : VOp := vred t d a g (negZero t) (addLane t m false)
def vVredmax (t : Ty) (d a : Nat) (g : Guard) (m : Bool) : VOp := vred t d a g (leastBits t) (extLane t m true)
def vVredmin (t : Ty) (d a : Nat) (g : Guard) (m : Bool) : VOp := vred t d a g (greatestBits t) (extLane t m false)

/-- The running sums of VSCAN over the lanes from `i` on: each lane's result, none where it is disabled (R115). -/
def scanLanes (t : Ty) (m ex : Bool) (acc : Nat) : List (Bool × Nat) → List (Option (Nat × Flags))
  | [] => []
  | (false, _) :: l => none :: scanLanes t m ex acc l
  | (true, x) :: l =>
    let r := addLane t m false acc x
    some (if ex then acc else r.1, r.2) :: scanLanes t m ex r.1 l

def vVscan (t : Ty) (d a : Nat) (ex : Bool) (g : Guard) (m : Bool) : VOp :=
  { rows := [d, a]
    reads := [a]
    dest := fun c => [rowDest d c]
    lat := 8
    draws := 0
    out := fun rd =>
      let p := rd.c.guard g
      let w := t.bytes
      if someLane p w t.lanes then
        let l := scanLanes t m ex (negZero t)
          ((List.range t.lanes).map fun i => (laneOn p w i, laneOf (rd.row a) w i))
        some (rowDest d rd.c, laneRow w (fun i => l.getD i none) t.lanes)
      else none }

def vVcnt (t : Ty) (d a : Nat) (g : Guard) : VOp := vmap1 t d a g 3 fun x => plain (popN x t.bits)
def vVcntLz (t : Ty) (d a : Nat) (g : Guard) : VOp := vmap1 t d a g 3 fun x => plain (clzN x t.bits)

/-- The value VTOP2 orders a lane by: NaN counts as −∞ (R117). -/
def topKey (t : Ty) (b : Nat) : FVal :=
  match valOf t b with
  | .nan _ => .inf true
  | v => v

/-- The greatest lane of a list of (index, bits), the lowest index first among equals. -/
def topOf (t : Ty) : List (Nat × Nat) → Option (Nat × Nat)
  | [] => none
  | e :: l =>
    match topOf t l with
    | none => some e
    | some r => if (topKey t e.2).lt (topKey t r.2) then some r else some e

def vVtop2 (t : Ty) (d a : Nat) (g : Guard) : VOp :=
  { rows := [d, a]
    reads := [a]
    dest := fun c => [rowDest d c]
    lat := 6
    draws := 0
    out := fun rd =>
      let p := rd.c.guard g
      let w := t.bytes
      let l := ((List.range t.lanes).filter fun i => laneOn p w i).map fun i => (i, laneOf (rd.row a) w i)
      match topOf t l with
      | none => none
      | some x =>
        let y := (topOf t (l.filter fun e => e.1 != x.1)).getD (2 ^ t.bits - 1, leastBits t)
        let v := x.2 + y.2 * 2 ^ t.bits + x.1 * 2 ^ (2 * t.bits) + y.1 * 2 ^ (3 * t.bits)
        some (rowDest d rd.c, ⟨v, 2 ^ 256 - 1, 0⟩) }

/-! ## FP4 blocks (R48, R118, R119) -/

/-- An E3M5 scale in units of 2^-7 (R48). -/
def scaleUnits (c : Nat) : Nat := if c / 32 = 0 then c % 32 else (32 + c % 32) * 2 ^ (c / 32 - 1)

/-- The greatest magnitude among the values that are no NaN. -/
def amaxOf : List FVal → FVal
  | [] => .fin false 0 1
  | x :: l => let r := amaxOf l; if !x.isNan && r.lt x.abs then x.abs else r

/-- The smallest code from `c` on, of `n` codes, whose scale S has 6 S ≥ amax; 0xFF with SAT when none has (R118). -/
def scaleFrom (amax : FVal) (c : Nat) : Nat → Nat × Flags
  | 0 => (0xFF, flSAT)
  | n + 1 => if (FVal.fin false (6 * scaleUnits c) 128).lt amax then scaleFrom amax (c + 1) n else (c, 0)

/-- The scale code of a block and SAT (R118). -/
def blockScale (amax : FVal) : Nat × Flags := if amax.isZero then (0, 0) else scaleFrom amax 1 255

/-- A lane divided by a scale and rounded to E2M1, with the flags that R118 names: IX, SAT and IV (log entry 8). -/
def quantElem (t : Ty) (s b : Nat) : Nat × Flags :=
  let r := rne .e2m1 (match floatOf t b with
    | .fin neg n d => if s = 0 then .fin neg n d else .fin neg (n * 128) (d * scaleUnits s)
    | v => v)
  (r.1, r.2 &&& ~~~flUF)

/-- The enabled lanes of a block, as values. -/
def blockVals (t : Ty) (p : Pred) (r q : Nat) : List FVal :=
  ((List.range 8).filter fun j => laneOn p t.bytes (8 * q + j)).map fun j => floatOf t (laneOf r t.bytes (8 * q + j))

/-- The scale of each block, none for a block with no enabled lane. -/
def rowScales (t : Ty) (p : Pred) (r : Nat) : List (Option (Nat × Flags)) :=
  (List.range (t.lanes / 8)).map fun q =>
    let l := blockVals t p r q
    if l.isEmpty then none else some (blockScale (amaxOf l))

/-- The shape of the two forms of VQUANT. -/
def vquantOp (t : Ty) (d a : Nat) (g : Guard) (f : Pred → Rd → Dest × RowRes) : VOp :=
  { rows := [d, a]
    reads := [a]
    dest := fun c => [rowDest d c]
    lat := 6
    draws := 0
    out := fun rd =>
      let p := rd.c.guard g
      if someLane p t.bytes t.lanes then some (f p rd) else none }

def vVquant (t : Ty) (d a p : Nat) (g : Guard) : VOp :=
  vquantOp t d a g fun pr rd =>
    let sc := rowScales t pr (rd.row a)
    nibOut d rd.c fun j =>
      if decide (p * t.lanes ≤ j) && decide (j < (p + 1) * t.lanes) && laneOn pr t.bytes (j - p * t.lanes) then
        match sc.getD ((j - p * t.lanes) / 8) none with
        | some (s, f) =>
          let e := quantElem t s (laneOf (rd.row a) t.bytes (j - p * t.lanes))
          some (e.1, e.2 ||| f)
        | none => none
      else none

def vVquantScale (t : Ty) (d a p : Nat) (g : Guard) : VOp :=
  vquantOp t d a g fun pr rd =>
    let sc := rowScales t pr (rd.row a)
    (rowDest d rd.c, laneRow 1 (fun j =>
      if decide (t.lanes / 8 * p ≤ j) && decide (j < t.lanes / 8 * (p + 1)) then sc.getD (j - t.lanes / 8 * p) none
      else none) 256)

/-- VDEQ on one element and its scale (R119). -/
def deqElem (t : Ty) (e s : Nat) : Nat × Flags :=
  plain (rne t (match floatOf .e2m1 e with
    | .fin neg n d => .fin neg (n * scaleUnits s) (d * 128)
    | v => v)).1

def vVdeq (t : Ty) (d a b : Nat) (g : Guard) : VOp :=
  vrow [a, b] t.bytes d g 4 fun rd i => deqElem t (nibOf (rd.row a) i) (laneOf (rd.row b) 1 (i / 8))

/-! ## VCOR (R120) -/

def vVcor (t : Ty) (f : CorFn) (n d a : Nat) (g : Guard) : VOp :=
  let v := vrow [a] t.bytes d g (n + 6) fun rd i =>
    floatRes t (corFun f n (floatOf t (laneOf (rd.row d) t.bytes i)) (floatOf t (laneOf (rd.row a) t.bytes i)))
  if f == .atan2 || f == .div then v.readsOld else v

/-! ## The operations -/

def opVadd (t : Ty) (d : Nat) (a : Nat) (b : Nat) (g : Guard) (m : Bool) : Op := vop (.vadd t d a b g m) (vVadd t d a b g m)
def opVsub (t : Ty) (d : Nat) (a : Nat) (b : Nat) (g : Guard) (m : Bool) : Op := vop (.vsub t d a b g m) (vVsub t d a b g m)
def opVmul (t : Ty) (d : Nat) (a : Nat) (b : Nat) (g : Guard) (m : Bool) : Op := vop (.vmul t d a b g m) (vVmul t d a b g m)
def opVfma (t : Ty) (d : Nat) (a : Nat) (b : Nat) (g : Guard) (m : Bool) : Op := vop (.vfma t d a b g m) (vVfma t d a b g m)
def opVfms (t : Ty) (d : Nat) (a : Nat) (b : Nat) (g : Guard) (m : Bool) : Op := vop (.vfms t d a b g m) (vVfms t d a b g m)
def opVmin (t : Ty) (d : Nat) (a : Nat) (b : Nat) (g : Guard) (m : Bool) : Op := vop (.vmin t d a b g m) (vVmin t d a b g m)
def opVmax (t : Ty) (d : Nat) (a : Nat) (b : Nat) (g : Guard) (m : Bool) : Op := vop (.vmax t d a b g m) (vVmax t d a b g m)
def opVabs (t : Ty) (d : Nat) (a : Nat) (g : Guard) (m : Bool) : Op := vop (.vabs t d a g m) (vVabs t d a g m)
def opVneg (t : Ty) (d : Nat) (a : Nat) (g : Guard) (m : Bool) : Op := vop (.vneg t d a g m) (vVneg t d a g m)
def opVdot4 (t : Ty) (d : Nat) (a : Nat) (b : Nat) (g : Guard) (m : Bool) : Op := vop (.vdot4 t d a b g m) (vVdot4 t d a b g m)
def opVdot2 (t : Ty) (d : Nat) (a : Nat) (b : Nat) (g : Guard) (m : Bool) : Op := vop (.vdot2 t d a b g m) (vVdot2 t d a b g m)
def opVand (t : Ty) (d : Nat) (a : Nat) (b : Nat) (g : Guard) : Op := vop (.vand t d a b g) (vVand t d a b g)
def opVor (t : Ty) (d : Nat) (a : Nat) (b : Nat) (g : Guard) : Op := vop (.vor t d a b g) (vVor t d a b g)
def opVxor (t : Ty) (d : Nat) (a : Nat) (b : Nat) (g : Guard) : Op := vop (.vxor t d a b g) (vVxor t d a b g)
def opVnot (t : Ty) (d : Nat) (a : Nat) (g : Guard) : Op := vop (.vnot t d a g) (vVnot t d a g)
def opVshl (t : Ty) (d : Nat) (a : Nat) (b : Nat) (g : Guard) : Op := vop (.vshl t d a b g) (vVshl t d a b g)
def opVshlImm (t : Ty) (d : Nat) (a : Nat) (n : Nat) (g : Guard) : Op := vop (.vshlImm t d a n g) (vVshlImm t d a n g)
def opVshr (t : Ty) (d : Nat) (a : Nat) (b : Nat) (g : Guard) : Op := vop (.vshr t d a b g) (vVshr t d a b g)
def opVshrImm (t : Ty) (d : Nat) (a : Nat) (n : Nat) (g : Guard) : Op := vop (.vshrImm t d a n g) (vVshrImm t d a n g)
def opVsra (t : Ty) (d : Nat) (a : Nat) (b : Nat) (g : Guard) : Op := vop (.vsra t d a b g) (vVsra t d a b g)
def opVsraImm (t : Ty) (d : Nat) (a : Nat) (n : Nat) (g : Guard) : Op := vop (.vsraImm t d a n g) (vVsraImm t d a n g)
def opVcmpeq (t : Ty) (kd : Nat) (a : Nat) (b : Nat) (g : Guard) : Op := vop (.vcmpeq t kd a b g) (vVcmpeq t kd a b g)
def opVcmpne (t : Ty) (kd : Nat) (a : Nat) (b : Nat) (g : Guard) : Op := vop (.vcmpne t kd a b g) (vVcmpne t kd a b g)
def opVcmplt (t : Ty) (kd : Nat) (a : Nat) (b : Nat) (g : Guard) : Op := vop (.vcmplt t kd a b g) (vVcmplt t kd a b g)
def opVcmple (t : Ty) (kd : Nat) (a : Nat) (b : Nat) (g : Guard) : Op := vop (.vcmple t kd a b g) (vVcmple t kd a b g)
def opVsel (t : Ty) (d : Nat) (a : Nat) (b : Nat) (g : Guard) : Op := vop (.vsel t d a b g) (vVsel t d a b g)
def opVmov (t : Ty) (d : Nat) (a : Nat) (g : Guard) : Op := vop (.vmov t d a g) (vVmov t d a g)
def opVbcast (t : Ty) (d : Nat) (a : Nat) (c : Nat) (g : Guard) : Op := vop (.vbcast t d a c g) (vVbcast t d a c g)
def opVbcastScalar (t : Ty) (d : Nat) (sa : Nat) (g : Guard) : Op := vop (.vbcastScalar t d sa g) (vVbcastScalar t d sa g)
def opVlaneInsert (t : Ty) (d : Nat) (sa : Nat) (c : Nat) (g : Guard) : Op := vop (.vlaneInsert t d sa c g) (vVlaneInsert t d sa c g)
def opVlaneExtract (t : Ty) (sd : Nat) (a : Nat) (c : Nat) (g : Guard) : Op := vop (.vlaneExtract t sd a c g) (vVlaneExtract t sd a c g)
def opVperm (t : Ty) (d : Nat) (a : Nat) (b : Nat) (g : Guard) (m : Bool) : Op := vop (.vperm t d a b g m) (vVperm t d a b g m)
def opVrot (t : Ty) (d : Nat) (a : Nat) (c : Nat) (g : Guard) (m : Bool) : Op := vop (.vrot t d a c g m) (vVrot t d a c g m)
def opVcvt (dt : Ty) (st : Ty) (mode : Rnd) (p : Nat) (d : Nat) (a : Nat) (g : Guard) (m : Bool) : Op := vop (.vcvt dt st mode p d a g m) (vVcvt dt st mode p d a g m)
def opVscl (t : Ty) (d : Nat) (a : Nat) (b : Nat) (g : Guard) : Op := vop (.vscl t d a b g) (vVscl t d a b g)
def opVredadd (t : Ty) (d : Nat) (a : Nat) (g : Guard) (m : Bool) : Op := vop (.vredadd t d a g m) (vVredadd t d a g m)
def opVredmax (t : Ty) (d : Nat) (a : Nat) (g : Guard) (m : Bool) : Op := vop (.vredmax t d a g m) (vVredmax t d a g m)
def opVredmin (t : Ty) (d : Nat) (a : Nat) (g : Guard) (m : Bool) : Op := vop (.vredmin t d a g m) (vVredmin t d a g m)
def opVscan (t : Ty) (d : Nat) (a : Nat) (ex : Bool) (g : Guard) (m : Bool) : Op := vop (.vscan t d a ex g m) (vVscan t d a ex g m)
def opVcnt (t : Ty) (d : Nat) (a : Nat) (g : Guard) : Op := vop (.vcnt t d a g) (vVcnt t d a g)
def opVcntLz (t : Ty) (d : Nat) (a : Nat) (g : Guard) : Op := vop (.vcntLz t d a g) (vVcntLz t d a g)
def opVtop2 (t : Ty) (d : Nat) (a : Nat) (g : Guard) : Op := vop (.vtop2 t d a g) (vVtop2 t d a g)
def opVquant (t : Ty) (d : Nat) (a : Nat) (p : Nat) (g : Guard) : Op := vop (.vquant t d a p g) (vVquant t d a p g)
def opVquantScale (t : Ty) (d : Nat) (a : Nat) (p : Nat) (g : Guard) : Op := vop (.vquantScale t d a p g) (vVquantScale t d a p g)
def opVdeq (t : Ty) (d : Nat) (a : Nat) (b : Nat) (g : Guard) : Op := vop (.vdeq t d a b g) (vVdeq t d a b g)
def opVcor (t : Ty) (f : CorFn) (n : Nat) (d : Nat) (a : Nat) (g : Guard) : Op := vop (.vcor t f n d a g) (vVcor t f n d a g)

/-- The vector operation an instruction is, when it is one. -/
def vopOf : Instr → Option VOp
  | .vadd t d a b g m => some (vVadd t d a b g m)
  | .vsub t d a b g m => some (vVsub t d a b g m)
  | .vmul t d a b g m => some (vVmul t d a b g m)
  | .vfma t d a b g m => some (vVfma t d a b g m)
  | .vfms t d a b g m => some (vVfms t d a b g m)
  | .vmin t d a b g m => some (vVmin t d a b g m)
  | .vmax t d a b g m => some (vVmax t d a b g m)
  | .vabs t d a g m => some (vVabs t d a g m)
  | .vneg t d a g m => some (vVneg t d a g m)
  | .vdot4 t d a b g m => some (vVdot4 t d a b g m)
  | .vdot2 t d a b g m => some (vVdot2 t d a b g m)
  | .vand t d a b g => some (vVand t d a b g)
  | .vor t d a b g => some (vVor t d a b g)
  | .vxor t d a b g => some (vVxor t d a b g)
  | .vnot t d a g => some (vVnot t d a g)
  | .vshl t d a b g => some (vVshl t d a b g)
  | .vshlImm t d a n g => some (vVshlImm t d a n g)
  | .vshr t d a b g => some (vVshr t d a b g)
  | .vshrImm t d a n g => some (vVshrImm t d a n g)
  | .vsra t d a b g => some (vVsra t d a b g)
  | .vsraImm t d a n g => some (vVsraImm t d a n g)
  | .vcmpeq t kd a b g => some (vVcmpeq t kd a b g)
  | .vcmpne t kd a b g => some (vVcmpne t kd a b g)
  | .vcmplt t kd a b g => some (vVcmplt t kd a b g)
  | .vcmple t kd a b g => some (vVcmple t kd a b g)
  | .vsel t d a b g => some (vVsel t d a b g)
  | .vmov t d a g => some (vVmov t d a g)
  | .vbcast t d a c g => some (vVbcast t d a c g)
  | .vbcastScalar t d sa g => some (vVbcastScalar t d sa g)
  | .vlaneInsert t d sa c g => some (vVlaneInsert t d sa c g)
  | .vlaneExtract t sd a c g => some (vVlaneExtract t sd a c g)
  | .vperm t d a b g m => some (vVperm t d a b g m)
  | .vrot t d a c g m => some (vVrot t d a c g m)
  | .vcvt dt st mode p d a g m => some (vVcvt dt st mode p d a g m)
  | .vscl t d a b g => some (vVscl t d a b g)
  | .vredadd t d a g m => some (vVredadd t d a g m)
  | .vredmax t d a g m => some (vVredmax t d a g m)
  | .vredmin t d a g m => some (vVredmin t d a g m)
  | .vscan t d a ex g m => some (vVscan t d a ex g m)
  | .vcnt t d a g => some (vVcnt t d a g)
  | .vcntLz t d a g => some (vVcntLz t d a g)
  | .vtop2 t d a g => some (vVtop2 t d a g)
  | .vquant t d a p g => some (vVquant t d a p g)
  | .vquantScale t d a p g => some (vVquantScale t d a p g)
  | .vdeq t d a b g => some (vVdeq t d a b g)
  | .vcor t f n d a g => some (vVcor t f n d a g)
  | _ => none

/-! ## The meanings -/

/-- The meaning of `vadd`: it issues or traps as a bundle of its own in the V slot that acts. -/
def execVadd (t : Ty) (d : Nat) (a : Nat) (b : Nat) (g : Guard) (m : Bool) (s : State) : Host.Outcome State Fault Refusal :=
  .next (issue [(opVadd t d a b g m).onSlot s.vslot] s)

/-- The meaning of `vsub`: it issues or traps as a bundle of its own in the V slot that acts. -/
def execVsub (t : Ty) (d : Nat) (a : Nat) (b : Nat) (g : Guard) (m : Bool) (s : State) : Host.Outcome State Fault Refusal :=
  .next (issue [(opVsub t d a b g m).onSlot s.vslot] s)

/-- The meaning of `vmul`: it issues or traps as a bundle of its own in the V slot that acts. -/
def execVmul (t : Ty) (d : Nat) (a : Nat) (b : Nat) (g : Guard) (m : Bool) (s : State) : Host.Outcome State Fault Refusal :=
  .next (issue [(opVmul t d a b g m).onSlot s.vslot] s)

/-- The meaning of `vfma`: it issues or traps as a bundle of its own in the V slot that acts. -/
def execVfma (t : Ty) (d : Nat) (a : Nat) (b : Nat) (g : Guard) (m : Bool) (s : State) : Host.Outcome State Fault Refusal :=
  .next (issue [(opVfma t d a b g m).onSlot s.vslot] s)

/-- The meaning of `vfms`: it issues or traps as a bundle of its own in the V slot that acts. -/
def execVfms (t : Ty) (d : Nat) (a : Nat) (b : Nat) (g : Guard) (m : Bool) (s : State) : Host.Outcome State Fault Refusal :=
  .next (issue [(opVfms t d a b g m).onSlot s.vslot] s)

/-- The meaning of `vmin`: it issues or traps as a bundle of its own in the V slot that acts. -/
def execVmin (t : Ty) (d : Nat) (a : Nat) (b : Nat) (g : Guard) (m : Bool) (s : State) : Host.Outcome State Fault Refusal :=
  .next (issue [(opVmin t d a b g m).onSlot s.vslot] s)

/-- The meaning of `vmax`: it issues or traps as a bundle of its own in the V slot that acts. -/
def execVmax (t : Ty) (d : Nat) (a : Nat) (b : Nat) (g : Guard) (m : Bool) (s : State) : Host.Outcome State Fault Refusal :=
  .next (issue [(opVmax t d a b g m).onSlot s.vslot] s)

/-- The meaning of `vabs`: it issues or traps as a bundle of its own in the V slot that acts. -/
def execVabs (t : Ty) (d : Nat) (a : Nat) (g : Guard) (m : Bool) (s : State) : Host.Outcome State Fault Refusal :=
  .next (issue [(opVabs t d a g m).onSlot s.vslot] s)

/-- The meaning of `vneg`: it issues or traps as a bundle of its own in the V slot that acts. -/
def execVneg (t : Ty) (d : Nat) (a : Nat) (g : Guard) (m : Bool) (s : State) : Host.Outcome State Fault Refusal :=
  .next (issue [(opVneg t d a g m).onSlot s.vslot] s)

/-- The meaning of `vdot4`: it issues or traps as a bundle of its own in the V slot that acts. -/
def execVdot4 (t : Ty) (d : Nat) (a : Nat) (b : Nat) (g : Guard) (m : Bool) (s : State) : Host.Outcome State Fault Refusal :=
  .next (issue [(opVdot4 t d a b g m).onSlot s.vslot] s)

/-- The meaning of `vdot2`: it issues or traps as a bundle of its own in the V slot that acts. -/
def execVdot2 (t : Ty) (d : Nat) (a : Nat) (b : Nat) (g : Guard) (m : Bool) (s : State) : Host.Outcome State Fault Refusal :=
  .next (issue [(opVdot2 t d a b g m).onSlot s.vslot] s)

/-- The meaning of `vand`: it issues or traps as a bundle of its own in the V slot that acts. -/
def execVand (t : Ty) (d : Nat) (a : Nat) (b : Nat) (g : Guard) (s : State) : Host.Outcome State Fault Refusal :=
  .next (issue [(opVand t d a b g).onSlot s.vslot] s)

/-- The meaning of `vor`: it issues or traps as a bundle of its own in the V slot that acts. -/
def execVor (t : Ty) (d : Nat) (a : Nat) (b : Nat) (g : Guard) (s : State) : Host.Outcome State Fault Refusal :=
  .next (issue [(opVor t d a b g).onSlot s.vslot] s)

/-- The meaning of `vxor`: it issues or traps as a bundle of its own in the V slot that acts. -/
def execVxor (t : Ty) (d : Nat) (a : Nat) (b : Nat) (g : Guard) (s : State) : Host.Outcome State Fault Refusal :=
  .next (issue [(opVxor t d a b g).onSlot s.vslot] s)

/-- The meaning of `vnot`: it issues or traps as a bundle of its own in the V slot that acts. -/
def execVnot (t : Ty) (d : Nat) (a : Nat) (g : Guard) (s : State) : Host.Outcome State Fault Refusal :=
  .next (issue [(opVnot t d a g).onSlot s.vslot] s)

/-- The meaning of `vshl`: it issues or traps as a bundle of its own in the V slot that acts. -/
def execVshl (t : Ty) (d : Nat) (a : Nat) (b : Nat) (g : Guard) (s : State) : Host.Outcome State Fault Refusal :=
  .next (issue [(opVshl t d a b g).onSlot s.vslot] s)

/-- The meaning of `vshlImm`: it issues or traps as a bundle of its own in the V slot that acts. -/
def execVshlImm (t : Ty) (d : Nat) (a : Nat) (n : Nat) (g : Guard) (s : State) : Host.Outcome State Fault Refusal :=
  .next (issue [(opVshlImm t d a n g).onSlot s.vslot] s)

/-- The meaning of `vshr`: it issues or traps as a bundle of its own in the V slot that acts. -/
def execVshr (t : Ty) (d : Nat) (a : Nat) (b : Nat) (g : Guard) (s : State) : Host.Outcome State Fault Refusal :=
  .next (issue [(opVshr t d a b g).onSlot s.vslot] s)

/-- The meaning of `vshrImm`: it issues or traps as a bundle of its own in the V slot that acts. -/
def execVshrImm (t : Ty) (d : Nat) (a : Nat) (n : Nat) (g : Guard) (s : State) : Host.Outcome State Fault Refusal :=
  .next (issue [(opVshrImm t d a n g).onSlot s.vslot] s)

/-- The meaning of `vsra`: it issues or traps as a bundle of its own in the V slot that acts. -/
def execVsra (t : Ty) (d : Nat) (a : Nat) (b : Nat) (g : Guard) (s : State) : Host.Outcome State Fault Refusal :=
  .next (issue [(opVsra t d a b g).onSlot s.vslot] s)

/-- The meaning of `vsraImm`: it issues or traps as a bundle of its own in the V slot that acts. -/
def execVsraImm (t : Ty) (d : Nat) (a : Nat) (n : Nat) (g : Guard) (s : State) : Host.Outcome State Fault Refusal :=
  .next (issue [(opVsraImm t d a n g).onSlot s.vslot] s)

/-- The meaning of `vcmpeq`: it issues or traps as a bundle of its own in the V slot that acts. -/
def execVcmpeq (t : Ty) (kd : Nat) (a : Nat) (b : Nat) (g : Guard) (s : State) : Host.Outcome State Fault Refusal :=
  .next (issue [(opVcmpeq t kd a b g).onSlot s.vslot] s)

/-- The meaning of `vcmpne`: it issues or traps as a bundle of its own in the V slot that acts. -/
def execVcmpne (t : Ty) (kd : Nat) (a : Nat) (b : Nat) (g : Guard) (s : State) : Host.Outcome State Fault Refusal :=
  .next (issue [(opVcmpne t kd a b g).onSlot s.vslot] s)

/-- The meaning of `vcmplt`: it issues or traps as a bundle of its own in the V slot that acts. -/
def execVcmplt (t : Ty) (kd : Nat) (a : Nat) (b : Nat) (g : Guard) (s : State) : Host.Outcome State Fault Refusal :=
  .next (issue [(opVcmplt t kd a b g).onSlot s.vslot] s)

/-- The meaning of `vcmple`: it issues or traps as a bundle of its own in the V slot that acts. -/
def execVcmple (t : Ty) (kd : Nat) (a : Nat) (b : Nat) (g : Guard) (s : State) : Host.Outcome State Fault Refusal :=
  .next (issue [(opVcmple t kd a b g).onSlot s.vslot] s)

/-- The meaning of `vsel`: it issues or traps as a bundle of its own in the V slot that acts. -/
def execVsel (t : Ty) (d : Nat) (a : Nat) (b : Nat) (g : Guard) (s : State) : Host.Outcome State Fault Refusal :=
  .next (issue [(opVsel t d a b g).onSlot s.vslot] s)

/-- The meaning of `vmov`: it issues or traps as a bundle of its own in the V slot that acts. -/
def execVmov (t : Ty) (d : Nat) (a : Nat) (g : Guard) (s : State) : Host.Outcome State Fault Refusal :=
  .next (issue [(opVmov t d a g).onSlot s.vslot] s)

/-- The meaning of `vbcast`: it issues or traps as a bundle of its own in the V slot that acts. -/
def execVbcast (t : Ty) (d : Nat) (a : Nat) (c : Nat) (g : Guard) (s : State) : Host.Outcome State Fault Refusal :=
  .next (issue [(opVbcast t d a c g).onSlot s.vslot] s)

/-- The meaning of `vbcastScalar`: it issues or traps as a bundle of its own in the V slot that acts. -/
def execVbcastScalar (t : Ty) (d : Nat) (sa : Nat) (g : Guard) (s : State) : Host.Outcome State Fault Refusal :=
  .next (issue [(opVbcastScalar t d sa g).onSlot s.vslot] s)

/-- The meaning of `vlaneInsert`: it issues or traps as a bundle of its own in the V slot that acts. -/
def execVlaneInsert (t : Ty) (d : Nat) (sa : Nat) (c : Nat) (g : Guard) (s : State) : Host.Outcome State Fault Refusal :=
  .next (issue [(opVlaneInsert t d sa c g).onSlot s.vslot] s)

/-- The meaning of `vlaneExtract`: it issues or traps as a bundle of its own in the V slot that acts. -/
def execVlaneExtract (t : Ty) (sd : Nat) (a : Nat) (c : Nat) (g : Guard) (s : State) : Host.Outcome State Fault Refusal :=
  .next (issue [(opVlaneExtract t sd a c g).onSlot s.vslot] s)

/-- The meaning of `vperm`: it issues or traps as a bundle of its own in the V slot that acts. -/
def execVperm (t : Ty) (d : Nat) (a : Nat) (b : Nat) (g : Guard) (m : Bool) (s : State) : Host.Outcome State Fault Refusal :=
  .next (issue [(opVperm t d a b g m).onSlot s.vslot] s)

/-- The meaning of `vrot`: it issues or traps as a bundle of its own in the V slot that acts. -/
def execVrot (t : Ty) (d : Nat) (a : Nat) (c : Nat) (g : Guard) (m : Bool) (s : State) : Host.Outcome State Fault Refusal :=
  .next (issue [(opVrot t d a c g m).onSlot s.vslot] s)

/-- The meaning of `vcvt`: it issues or traps as a bundle of its own in the V slot that acts. -/
def execVcvt (dt : Ty) (st : Ty) (mode : Rnd) (p : Nat) (d : Nat) (a : Nat) (g : Guard) (m : Bool) (s : State) : Host.Outcome State Fault Refusal :=
  .next (issue [(opVcvt dt st mode p d a g m).onSlot s.vslot] s)

/-- The meaning of `vscl`: it issues or traps as a bundle of its own in the V slot that acts. -/
def execVscl (t : Ty) (d : Nat) (a : Nat) (b : Nat) (g : Guard) (s : State) : Host.Outcome State Fault Refusal :=
  .next (issue [(opVscl t d a b g).onSlot s.vslot] s)

/-- The meaning of `vredadd`: it issues or traps as a bundle of its own in the V slot that acts. -/
def execVredadd (t : Ty) (d : Nat) (a : Nat) (g : Guard) (m : Bool) (s : State) : Host.Outcome State Fault Refusal :=
  .next (issue [(opVredadd t d a g m).onSlot s.vslot] s)

/-- The meaning of `vredmax`: it issues or traps as a bundle of its own in the V slot that acts. -/
def execVredmax (t : Ty) (d : Nat) (a : Nat) (g : Guard) (m : Bool) (s : State) : Host.Outcome State Fault Refusal :=
  .next (issue [(opVredmax t d a g m).onSlot s.vslot] s)

/-- The meaning of `vredmin`: it issues or traps as a bundle of its own in the V slot that acts. -/
def execVredmin (t : Ty) (d : Nat) (a : Nat) (g : Guard) (m : Bool) (s : State) : Host.Outcome State Fault Refusal :=
  .next (issue [(opVredmin t d a g m).onSlot s.vslot] s)

/-- The meaning of `vscan`: it issues or traps as a bundle of its own in the V slot that acts. -/
def execVscan (t : Ty) (d : Nat) (a : Nat) (ex : Bool) (g : Guard) (m : Bool) (s : State) : Host.Outcome State Fault Refusal :=
  .next (issue [(opVscan t d a ex g m).onSlot s.vslot] s)

/-- The meaning of `vcnt`: it issues or traps as a bundle of its own in the V slot that acts. -/
def execVcnt (t : Ty) (d : Nat) (a : Nat) (g : Guard) (s : State) : Host.Outcome State Fault Refusal :=
  .next (issue [(opVcnt t d a g).onSlot s.vslot] s)

/-- The meaning of `vcntLz`: it issues or traps as a bundle of its own in the V slot that acts. -/
def execVcntLz (t : Ty) (d : Nat) (a : Nat) (g : Guard) (s : State) : Host.Outcome State Fault Refusal :=
  .next (issue [(opVcntLz t d a g).onSlot s.vslot] s)

/-- The meaning of `vtop2`: it issues or traps as a bundle of its own in the V slot that acts. -/
def execVtop2 (t : Ty) (d : Nat) (a : Nat) (g : Guard) (s : State) : Host.Outcome State Fault Refusal :=
  .next (issue [(opVtop2 t d a g).onSlot s.vslot] s)

/-- The meaning of `vquant`: it issues or traps as a bundle of its own in the V slot that acts. -/
def execVquant (t : Ty) (d : Nat) (a : Nat) (p : Nat) (g : Guard) (s : State) : Host.Outcome State Fault Refusal :=
  .next (issue [(opVquant t d a p g).onSlot s.vslot] s)

/-- The meaning of `vquantScale`: it issues or traps as a bundle of its own in the V slot that acts. -/
def execVquantScale (t : Ty) (d : Nat) (a : Nat) (p : Nat) (g : Guard) (s : State) : Host.Outcome State Fault Refusal :=
  .next (issue [(opVquantScale t d a p g).onSlot s.vslot] s)

/-- The meaning of `vdeq`: it issues or traps as a bundle of its own in the V slot that acts. -/
def execVdeq (t : Ty) (d : Nat) (a : Nat) (b : Nat) (g : Guard) (s : State) : Host.Outcome State Fault Refusal :=
  .next (issue [(opVdeq t d a b g).onSlot s.vslot] s)

/-- The meaning of `vcor`: it issues or traps as a bundle of its own in the V slot that acts. -/
def execVcor (t : Ty) (f : CorFn) (n : Nat) (d : Nat) (a : Nat) (g : Guard) (s : State) : Host.Outcome State Fault Refusal :=
  .next (issue [(opVcor t f n d a g).onSlot s.vslot] s)

end Sys2Proof.Machine
end

