-- ==== Sys2Proof/Machine/Pads.lean ====
section
/-! DEFINITION. The L and S slots: loads, stores, gathers, scatters, pad atomics and fences (R145 to R155, R294 to R303),
with the banks they need and the ways they are late (R78, R146, R152). -/

namespace Sys2Proof.Machine

/-! ## Banks (R146) -/

/-- The bank of a unit-pad or cluster-pad byte, as a number: its pad's first address with the group and bank bits. -/
def bankOf (a : Nat) : Nat :=
  if keyKind a = 0xA then a / 2 ^ 38 * 2 ^ 38 + a / 2 ^ 18 % 4 * 2 ^ 18 + a / 64 % 16 * 64
  else a / 2 ^ 40 * 2 ^ 40 + a / 2 ^ 19 % 8 * 2 ^ 19 + a / 64 % 16 * 64

/-- The banks of the 64-byte lines that `n` bytes from `a` meet; other kinds of memory have none here. -/
def banksFor (a n : Nat) : List Nat :=
  if a / 2 ^ 52 == 0xFFF && (keyKind a == 9 || keyKind a == 10) && decide (0 < n) then
    (List.range ((a + n - 1) / 64 - a / 64 + 1)).map fun i => bankOf ((a / 64 + i) * 64)
  else []

/-- Whether another than `who` has taken one of the banks in this cycle. -/
def State.bankTaken (s : State) (who : Nat) (bs : List Nat) : Bool :=
  s.banks.any fun b => bs.contains b.1 && b.2 != who

/-- The banks taken in this cycle by `who`. -/
def State.takeBanks (s : State) (who : Nat) (bs : List Nat) : State :=
  { s with banks := s.banks ++ bs.map fun b => (b, who) }

/-- The banks of a list of ranges. -/
def banksOf (l : List (Nat × Nat)) : List Nat := nub ((l.map fun e => banksFor e.1 e.2).flatten)

/-- Whether two ranges share a byte. -/
def overlaps (a n b m : Nat) : Bool := decide (a < b + m) && decide (b < a + n)

/-- Whether a range is held in a core's range scoreboard by a command accepted before the command numbered `mark` (R152,
R162): a bundle's loads and stores are held by the copies of earlier bundles (log entry 113). -/
def Core.scoreHeld (c : Core) (mark : Nat) (l : List (Nat × Nat)) : Bool :=
  l.any fun e => c.score.any fun x => decide (x.id < mark) && overlaps e.1 e.2 x.lo (x.hi + 1 - x.lo)

/-- The banks that the late accesses of a core have still to take. -/
def Core.lateBanks (c : Core) : List Nat := (c.late.map fun x => banksOf x.touch).flatten

/-- Whether the banks of a range can serve a context's access now: nobody else has taken them, and no access that comes before
it waits for them (R146, R296). -/
def State.bankFree (s : State) (k : Nat) (ahead : List Nat) (e : Nat × Nat) : Bool :=
  let b := banksOf [e]
  !s.bankTaken (k + 1) b && !b.any ahead.contains

/-- Whether a range meets an uncorrectable chunk (R331). -/
def State.badIn (s : State) (a n : Nat) : Option Nat := s.bad.find? fun c => overlaps a n c (chunkSize c)

/-- The machine checks that reads of ranges raise on a die, one for each chunk, put before the next issue; `who` is the context
that reads, or 4096 (R331). -/
def State.checkAt (s : State) (die who : Nat) (l : List (Nat × Nat)) : State :=
  { s with agenda := s.agenda ++ (nub (l.filterMap fun e => s.badIn e.1 e.2)).map fun c => ⟨.machineCheck, [die, c, who]⟩ }

/-- Those that the reads of a context raise. -/
def State.checkReads (s : State) (k : Nat) (l : List (Nat × Nat)) : State := s.checkAt (dieOf k) k l

/-- The context that reads for a command: its own while that holds the command's task, or none (4096). -/
def State.reader (s : State) (d : Done) : Nat :=
  if (s.ctx d.ctx).st != .free && (s.ctx d.ctx).task == d.task then d.ctx else 4096

/-! ## Memory operations -/

/-- An L or S operation that addresses a pad: the data rows it names, the index row of a gather or scatter, its
destination, whether it reads memory and whether its guard enables a lane, the address traps, the bytes it touches (in home
addresses, each range in one 64-byte line) and what it does when it is performed on some of them. -/
structure MOp where
  load : Bool
  reads : Bool
  rows : List Nat
  idx : Option Nat
  dest : Ctx → List Dest
  on : Rd → Bool
  trap : State → Rd → Option Trap
  touch : Rd → List (Nat × Nat)
  perform : Rd → Nat → List (Nat × Nat) → State → State

/-- The slot of a memory operation. -/
def MOp.slot (m : MOp) : Slot := if m.load then .l else .s

/-- Whether a memory operation waits as a whole (R78): for a held range, or for a data row that it reads in a tile under a
matrix operation. -/
def MOp.held (m : MOp) (rd : Rd) (k : Nat) (touch : List (Nat × Nat)) (s : State) : Bool :=
  (s.core (coreOf k)).scoreHeld rd.mark touch || (!m.load && m.rows.any fun n => s.rowBusy k n)

/-- Whether accesses that the range scoreboard does not hold are passed over in this cycle: another has a bank that they
need (R146). -/
def State.passedOver (s : State) (k mark : Nat) (l : List (Nat × Nat)) : Bool :=
  !(s.core (coreOf k)).scoreHeld mark l && s.bankTaken (k + 1) (banksOf l)

/-- The bytes of ranges as they stand. -/
def State.cells (s : State) (l : List (Nat × Nat)) : List Host.Cell :=
  (l.map fun e => (List.range e.2).map fun i => (e.1 + i, memGet s.mem (e.1 + i))).flatten

/-- The loads of a Y-slot instruction that reads memory, each by itself (R151, R188, R248): what it has still to load, the bytes
it has read, and the state. -/
def State.readGo (s : State) (rd : Rd) (k : Nat) (ahead : List Nat) (touch : List (Nat × Nat)) (got : List Host.Cell) :
    (List (Nat × Nat) × List Host.Cell) × State :=
  let free := fun e : Nat × Nat => !(s.core (coreOf k)).scoreHeld rd.mark [e] && s.bankFree k ahead e
  let now := touch.filter free
  ((touch.filter fun e => !free e, got ++ s.cells now), (s.takeBanks (k + 1) (banksOf now)).checkReads k now)

/-- A memory operation performed as far as it can be in a cycle: the 64-byte parts whose banks are free are accessed (R151;
log entry 122), and a read of an uncorrectable chunk is reported. It answers what it has still to access and the bytes it has read, or none
when it is done. `got` holds the bytes of parts read before. -/
def MOp.go (m : MOp) (rd : Rd) (k : Nat) (ahead : List Nat) (touch : List (Nat × Nat)) (got : List Host.Cell) (s : State) :
    Option (List (Nat × Nat) × List Host.Cell) × State :=
  if m.held rd k touch s then (some (touch, got), s)
  else
    let now := touch.filter (s.bankFree k ahead)
    let s1 := s.takeBanks (k + 1) (banksOf now)
    let s2 := if m.reads then s1.checkReads k now else s1
    if now.length = touch.length then
      (none,
        if got.isEmpty then m.perform rd k now s2
        else { (m.perform rd k now { s2 with mem := got.foldl (fun t e => memPut t e.1 e.2) s2.mem }) with mem := s2.mem })
    else
      let rest := touch.filter fun e => !s.bankFree k ahead e
      if m.load then
        (some (rest, got ++ s.cells now), s2)
      else (some (rest, []), m.perform rd k now s2)

/-- The rows a late access keeps. -/
def MOp.keeps (m : MOp) : List Nat := m.rows ++ (match m.idx with | some v => [v] | none => [])

/-- A memory operation as an operation of its slot. An index row in a busy tile blocks (R153); a guard that enables no
lane makes no check and no access (R32). -/
def mop (i : Instr) (m : MOp) : Op :=
  { Op.base m.slot with
    dests := m.dest
    range := fun s => if m.keeps.all fun n => s.me.hasRow n then none else some (m.slot.trap .regRange 0 0)
    ready := fun s => match m.idx with | some v => !s.rowBusy s.cur v | none => true
    addr := fun s => if m.on s.rd then m.trap s s.rd else none
    effect := fun s =>
      if !m.on s.rd then s
      else
        let r := m.go s.rd s.cur (s.core (coreOf s.cur)).lateBanks (m.touch s.rd) [] s
        match r.1 with
        | none => r.2
        | some p => r.2.pushLate m.slot i m.keeps s.me.srseed (s.passedOver s.cur s.mark p.1).toNat p.1 p.2 }

/-- Load latency by pad (R149). -/
def loadLat (a : Nat) : Nat := if keyKind a = 0xA then 5 else 12

/-- Atomic latency by pad (R154). -/
def atomLat (a : Nat) : Nat := if keyKind a = 0xA then 8 else 16

/-- A number as a loaded scalar: sign-extended for .i types, else zero-extended (R149). -/
def loadScalar (t : Ty) (v : Nat) : Nat := laneScalar t v

/-- The home address of an address of the own package; EP is not looked at (R10). -/
def lsKey (a : Word) : Nat := padKey a

/-- A scalar form: one access of `n` bytes at an address, under bit 0 of its guard. -/
def scalarForm (load : Bool) (x : LSArgs) (ea : Ctx → Word) (n align : Nat) (dest : Ctx → List Dest)
    (f : Rd → Nat → State → State) : MOp :=
  { load := load, reads := load, rows := [], idx := none, dest := dest
    on := fun rd => rd.c.on x.g
    trap := fun s rd => s.lsTrap (if load then .l else .s) (ea rd.c) n align
    touch := fun rd => [(lsKey (ea rd.c), n)]
    perform := fun rd k _ => f rd k }

/-- The lanes that a row form accesses: those enabled whose bytes lie in the `n` bytes from byte `lo` of the row. -/
def formLanes (t : Ty) (p : Pred) (lo n : Nat) : List Nat :=
  (List.range t.lanes).filter fun i =>
    laneOn p t.bytes i && decide (lo ≤ i * t.bytes) && decide (i * t.bytes < lo + n)

/-- The bytes from EA to the end of the last lane that a row form accesses (R32, R148). -/
def formReach (t : Ty) (p : Pred) (lo n : Nat) : Nat := match (formLanes t p lo n).getLast? with | some i => (i + 1) * t.bytes - lo | none => 0

/-- A row form: `n` bytes at EA against bytes `lo` on of the row (R149). Its checks are made when its guard enables a lane
among them (log entry 114). -/
def rowForm (load : Bool) (t : Ty) (d : Nat) (x : LSArgs) (lo n : Nat) (f : Rd → Nat → List (Nat × Nat) → State → State) : MOp :=
  { load := load, reads := load, rows := [d], idx := none
    dest := fun c => if load then [rowDest d c] else []
    on := fun rd => !(formLanes t (rd.c.guard x.g) lo n).isEmpty
    trap := fun s rd => s.lsTrap (if load then .l else .s) (rd.c.ea x) (formReach t (rd.c.guard x.g) lo n) 64
    touch := fun rd => (formLanes t (rd.c.guard x.g) lo n).map fun i => (lsKey (rd.c.ea x) + (i * t.bytes - lo), t.bytes)
    perform := f }

/-- A load's result in flight. -/
def State.pushLoad (s : State) (k : Nat) (rd : Rd) (d : Dest) (v mask : Nat) (lat : Nat) (acq : Bool) : State :=
  s.push k ⟨s.destAt k s.bids d, BitVec.ofNat 2048 v, BitVec.ofNat 256 mask, 0, lat - rd.late, .l, acq⟩

/-- A row's bytes from memory, placed at byte `lo`. -/
def rowBytes (s : State) (a lo n : Nat) : Nat := s.readNat a n * 2 ^ (8 * lo)

/-- The mask of the bytes of a list of lanes. -/
def lanesMask (w : Nat) (l : List Nat) : Nat := l.foldl (fun m i => m + laneMask w i) 0

/-- A row form's load performed. -/
def loadRow (t : Ty) (d : Nat) (x : LSArgs) (lo n : Nat) (rd : Rd) (k : Nat) (_now : List (Nat × Nat)) (s : State) : State :=
  let a := lsKey (rd.c.ea x)
  s.pushLoad k rd (rowDest d rd.c) (rowBytes s a lo n) (lanesMask t.bytes (formLanes t (rd.c.guard x.g) lo n))
    (loadLat a) x.ord

/-- Whether a byte lies in a line of some range. -/
def inLines (now : List (Nat × Nat)) (a : Nat) : Bool := now.any fun e => e.1 / 64 == a / 64

/-- One 64-byte line of a row form's store, at byte `j` of its range: written at once when every lane of it is enabled, else
lane by lane. -/
def storeLine (t : Ty) (a lo j row : Nat) (l : List Nat) (s : State) : State :=
  let ls := l.filter fun i => (i * t.bytes - lo) / 64 == j / 64
  if ls.length * t.bytes = 64 then s.writeNat (a + j) 64 (row / 2 ^ (8 * (lo + j)) % 2 ^ 512)
  else ls.foldl (fun s i => s.writeNat (a + (i * t.bytes - lo)) t.bytes (laneOf row t.bytes i)) s

/-- A row form's store performed: the bytes of each enabled lane, in the lines of `now`. -/
def storeRow (t : Ty) (d : Nat) (x : LSArgs) (lo n : Nat) (rd : Rd) (_k : Nat) (now : List (Nat × Nat)) (s : State) : State :=
  let a := lsKey (rd.c.ea x)
  let l := formLanes t (rd.c.guard x.g) lo n
  (List.range (n / 64)).foldl (fun s j => if inLines now (a + 64 * j) then storeLine t a lo (64 * j) (rd.row d) l s else s) s

def mLd (t : Ty) (d : Nat) (x : LSArgs) : MOp :=
  scalarForm true x (fun c => c.ea x) t.bytes t.bytes (fun _ => [.sreg d]) fun rd k s =>
    let a := lsKey (rd.c.ea x)
    s.pushLoad k rd (.sreg d) (loadScalar t (s.readNat a t.bytes)) (2 ^ 256 - 1) (loadLat a) x.ord

def mSt (t : Ty) (d : Nat) (x : LSArgs) : MOp :=
  scalarForm false x (fun c => c.ea x) t.bytes t.bytes (fun _ => []) fun rd _ s =>
    s.writeNat (lsKey (rd.c.ea x)) t.bytes (rd.c.s d).toNat

def mLdv (t : Ty) (d : Nat) (x : LSArgs) : MOp := rowForm true t d x 0 256 (loadRow t d x 0 256)
def mStv (t : Ty) (d : Nat) (x : LSArgs) : MOp := rowForm false t d x 0 256 (storeRow t d x 0 256)

/-- The half that LDVH and STVH move: bytes 128 to 255 when `hi`. -/
def halfLo (hi : Bool) : Nat := if hi then 128 else 0

def mLdvh (t : Ty) (hi : Bool) (d : Nat) (x : LSArgs) : MOp :=
  rowForm true t d x (halfLo hi) 128 (loadRow t d x (halfLo hi) 128)
def mStvh (t : Ty) (hi : Bool) (d : Nat) (x : LSArgs) : MOp :=
  rowForm false t d x (halfLo hi) 128 (storeRow t d x (halfLo hi) 128)

def mLdk (d : Nat) (x : LSArgs) : MOp :=
  scalarForm true x (fun c => c.ea x) 32 32 (fun _ => [.kreg d]) fun rd k s =>
    let a := lsKey (rd.c.ea x)
    s.pushLoad k rd (.kreg d) (s.readNat a 32) (2 ^ 256 - 1) (loadLat a) x.ord

def mStk (d : Nat) (x : LSArgs) : MOp :=
  scalarForm false x (fun c => c.ea x) 32 32 (fun _ => []) fun rd _ s =>
    s.writeNat (lsKey (rd.c.ea x)) 32 (rd.c.k d).toNat

/-! ## Gathers and scatters (R153) -/

/-- The address of lane i. -/
def laneAddr (x : LSArgs) (vx : Nat) (rd : Rd) (i : Nat) : Word :=
  rd.c.ea0 x + BitVec.ofNat 64 (4 * laneOf (rd.row vx) 4 i)

/-- The enabled 32-bit lanes. -/
def wordLanes (x : LSArgs) (rd : Rd) : List Nat := (List.range 64).filter fun i => laneOn (rd.c.guard x.g) 4 i

/-- The first lane trap: each check on every lane before the next (R12, R148). -/
def lanesTrap (sl : Slot) (x : LSArgs) (vx : Nat) (s : State) (rd : Rd) : Option Trap :=
  let l := (wordLanes x rd).map (laneAddr x vx rd)
  match s.addrsTrap s.cur (l.map fun a => (.ls, a, a)) with
  | some e => some (trapOf sl e)
  | none =>
    match l.findSome? fun a => s.lsTrap sl a 4 1 with
    | some t => some t
    | none => l.findSome? fun a => s.lsTrap sl a 4 4

/-- The shape LDG and STS share. -/
def gatherForm (load : Bool) (d vx : Nat) (x : LSArgs) (f : Rd → Nat → List (Nat × Nat) → State → State) : MOp :=
  { load := load, reads := load, rows := [d], idx := some vx
    dest := fun c => if load then [rowDest d c] else []
    on := fun rd => !(wordLanes x rd).isEmpty
    trap := lanesTrap (if load then .l else .s) x vx
    touch := fun rd => (wordLanes x rd).map fun i => (lsKey (laneAddr x vx rd i), 4)
    perform := f }

def mLdg (_t : Ty) (d vx : Nat) (x : LSArgs) : MOp :=
  gatherForm true d vx x fun rd k _ s =>
    let r := laneRow 4 (fun i =>
      if laneOn (rd.c.guard x.g) 4 i then some (s.readNat (lsKey (laneAddr x vx rd i)) 4, 0) else none) 64
    s.pushLoad k rd (rowDest d rd.c) r.val r.mask (loadLat (lsKey (rd.c.ea0 x))) x.ord

def mSts (_t : Ty) (d vx : Nat) (x : LSArgs) : MOp :=
  gatherForm false d vx x fun rd _ now s =>
    (wordLanes x rd).foldl (fun s i =>
      let a := lsKey (laneAddr x vx rd i)
      if inLines now a then s.writeNat a 4 (laneOf (rd.row d) 4 i) else s) s

/-! ## Pad atomics (R154, R155) -/

/-- The new memory value of an atomic, with its flags: the table of R154. -/
def amoNew (op : AmoOp) (t : Ty) (old v cmp : Nat) : Nat × Flags :=
  match op with
  | .add => (wrapInt t (intOf t old + intOf t v), 0)
  | .min => (if intOf t v < intOf t old then v else old, 0)
  | .max => (if intOf t old < intOf t v then v else old, 0)
  | .and => (Nat.land old v, 0)
  | .or => (Nat.lor old v, 0)
  | .xchg => (v, 0)
  | .cas => (if old = cmp then v else old, 0)
  | .fadd => floatRes t (exactSum [floatOf t old, floatOf t v])

/-- A pad atomic: the index field names the operand and the data field the result (R154). -/
def mAtomic (op : AmoOp) (t : Ty) (d : Nat) (x : LSArgs) : MOp :=
  { scalarForm false x (fun c => c.ea1 x) t.bytes t.bytes (fun _ => [.sreg d]) fun rd k s =>
    let a := lsKey (rd.c.ea1 x)
    let old := s.readNat a t.bytes
    let r := amoNew op t old ((rd.c.s x.idx).toNat % 2 ^ t.bits) ((rd.c.s d).toNat % 2 ^ t.bits)
    (s.writeNat a t.bytes r.1).push k
      ⟨.sreg d, BitVec.ofNat 2048 (loadScalar t old), fullMask, r.2, atomLat a - rd.late, .s, false⟩ with reads := true }

def mAadd (t : Ty) (d : Nat) (x : LSArgs) : MOp := mAtomic .add t d x
def mAmin (t : Ty) (d : Nat) (x : LSArgs) : MOp := mAtomic .min t d x
def mAmax (t : Ty) (d : Nat) (x : LSArgs) : MOp := mAtomic .max t d x
def mAand (t : Ty) (d : Nat) (x : LSArgs) : MOp := mAtomic .and t d x
def mAor (t : Ty) (d : Nat) (x : LSArgs) : MOp := mAtomic .or t d x
def mAxch (t : Ty) (d : Nat) (x : LSArgs) : MOp := mAtomic .xchg t d x
def mAcas (t : Ty) (d : Nat) (x : LSArgs) : MOp := mAtomic .cas t d x
def mAfadd (t : Ty) (d : Nat) (x : LSArgs) : MOp := mAtomic .fadd t d x

/-! ## The operations -/

def opLd (t : Ty) (d : Nat) (x : LSArgs) : Op := mop (.ld t d x) (mLd t d x)
def opLdv (t : Ty) (d : Nat) (x : LSArgs) : Op := mop (.ldv t d x) (mLdv t d x)
def opLdvh (t : Ty) (hi : Bool) (d : Nat) (x : LSArgs) : Op := mop (.ldvh t hi d x) (mLdvh t hi d x)
def opLdk (d : Nat) (x : LSArgs) : Op := mop (.ldk d x) (mLdk d x)
def opLdg (t : Ty) (d : Nat) (vx : Nat) (x : LSArgs) : Op := mop (.ldg t d vx x) (mLdg t d vx x)
def opSt (t : Ty) (d : Nat) (x : LSArgs) : Op := mop (.st t d x) (mSt t d x)
def opStv (t : Ty) (d : Nat) (x : LSArgs) : Op := mop (.stv t d x) (mStv t d x)
def opStvh (t : Ty) (hi : Bool) (d : Nat) (x : LSArgs) : Op := mop (.stvh t hi d x) (mStvh t hi d x)
def opStk (d : Nat) (x : LSArgs) : Op := mop (.stk d x) (mStk d x)
def opSts (t : Ty) (d : Nat) (vx : Nat) (x : LSArgs) : Op := mop (.sts t d vx x) (mSts t d vx x)
def opAadd (t : Ty) (d : Nat) (x : LSArgs) : Op := mop (.aadd t d x) (mAadd t d x)
def opAmin (t : Ty) (d : Nat) (x : LSArgs) : Op := mop (.amin t d x) (mAmin t d x)
def opAmax (t : Ty) (d : Nat) (x : LSArgs) : Op := mop (.amax t d x) (mAmax t d x)
def opAand (t : Ty) (d : Nat) (x : LSArgs) : Op := mop (.aand t d x) (mAand t d x)
def opAor (t : Ty) (d : Nat) (x : LSArgs) : Op := mop (.aor t d x) (mAor t d x)
def opAxch (t : Ty) (d : Nat) (x : LSArgs) : Op := mop (.axch t d x) (mAxch t d x)
def opAcas (t : Ty) (d : Nat) (x : LSArgs) : Op := mop (.acas t d x) (mAcas t d x)
def opAfadd (t : Ty) (d : Nat) (x : LSArgs) : Op := mop (.afadd t d x) (mAfadd t d x)

/-- The memory operation an instruction is, when it is one. -/
def mopOf : Instr → Option MOp
  | .ld t d x => some (mLd t d x)
  | .ldv t d x => some (mLdv t d x)
  | .ldvh t hi d x => some (mLdvh t hi d x)
  | .ldk d x => some (mLdk d x)
  | .ldg t d vx x => some (mLdg t d vx x)
  | .st t d x => some (mSt t d x)
  | .stv t d x => some (mStv t d x)
  | .stvh t hi d x => some (mStvh t hi d x)
  | .stk d x => some (mStk d x)
  | .sts t d vx x => some (mSts t d vx x)
  | .aadd t d x => some (mAadd t d x)
  | .amin t d x => some (mAmin t d x)
  | .amax t d x => some (mAmax t d x)
  | .aand t d x => some (mAand t d x)
  | .aor t d x => some (mAor t d x)
  | .axch t d x => some (mAxch t d x)
  | .acas t d x => some (mAcas t d x)
  | .afadd t d x => some (mAfadd t d x)
  | _ => none

/-! ## Fences (R300) -/

/-- Whether a result is a load's or a pad atomic's. -/
def Result.isMem (r : Result) : Bool := r.src == .l || r.src == .s || r.src == .hdr

/-- The condition of .acq: every load and atomic has written its destination; an undelivered latch has not (R326). -/
def acqReady (s : State) : Bool := !s.me.inflight.any Result.isMem && !s.me.latches.any Result.isMem

/-- The condition of .rel: every access issued earlier has been performed, which holds while the core is not frozen. -/
def relReady (s : State) : Bool := !s.hasLate s.cur

def opFenceAcq (_scope : Scope) : Op := { Op.base .s with ready := acqReady }
def opFenceRel (_scope : Scope) : Op := { Op.base .s with ready := relReady }
def opFenceAr (_scope : Scope) : Op := { Op.base .s with ready := fun s => acqReady s && relReady s }

/-- The meaning of `ld`: it issues, blocks or traps as a bundle of its own (`opLd`). -/
def execLd (t : Ty) (d : Nat) (x : LSArgs) (s : State) : Host.Outcome State Fault Refusal :=
  .next (issue [opLd t d x] s)

/-- The meaning of `ldv`: it issues, blocks or traps as a bundle of its own (`opLdv`). -/
def execLdv (t : Ty) (d : Nat) (x : LSArgs) (s : State) : Host.Outcome State Fault Refusal :=
  .next (issue [opLdv t d x] s)

/-- The meaning of `ldvh`: it issues, blocks or traps as a bundle of its own (`opLdvh`). -/
def execLdvh (t : Ty) (hi : Bool) (d : Nat) (x : LSArgs) (s : State) : Host.Outcome State Fault Refusal :=
  .next (issue [opLdvh t hi d x] s)

/-- The meaning of `ldk`: it issues, blocks or traps as a bundle of its own (`opLdk`). -/
def execLdk (d : Nat) (x : LSArgs) (s : State) : Host.Outcome State Fault Refusal :=
  .next (issue [opLdk d x] s)

/-- The meaning of `ldg`: it issues, blocks or traps as a bundle of its own (`opLdg`). -/
def execLdg (t : Ty) (d : Nat) (vx : Nat) (x : LSArgs) (s : State) : Host.Outcome State Fault Refusal :=
  .next (issue [opLdg t d vx x] s)

/-- The meaning of `st`: it issues, blocks or traps as a bundle of its own (`opSt`). -/
def execSt (t : Ty) (d : Nat) (x : LSArgs) (s : State) : Host.Outcome State Fault Refusal :=
  .next (issue [opSt t d x] s)

/-- The meaning of `stv`: it issues, blocks or traps as a bundle of its own (`opStv`). -/
def execStv (t : Ty) (d : Nat) (x : LSArgs) (s : State) : Host.Outcome State Fault Refusal :=
  .next (issue [opStv t d x] s)

/-- The meaning of `stvh`: it issues, blocks or traps as a bundle of its own (`opStvh`). -/
def execStvh (t : Ty) (hi : Bool) (d : Nat) (x : LSArgs) (s : State) : Host.Outcome State Fault Refusal :=
  .next (issue [opStvh t hi d x] s)

/-- The meaning of `stk`: it issues, blocks or traps as a bundle of its own (`opStk`). -/
def execStk (d : Nat) (x : LSArgs) (s : State) : Host.Outcome State Fault Refusal :=
  .next (issue [opStk d x] s)

/-- The meaning of `sts`: it issues, blocks or traps as a bundle of its own (`opSts`). -/
def execSts (t : Ty) (d : Nat) (vx : Nat) (x : LSArgs) (s : State) : Host.Outcome State Fault Refusal :=
  .next (issue [opSts t d vx x] s)

/-- The meaning of `aadd`: it issues, blocks or traps as a bundle of its own (`opAadd`). -/
def execAadd (t : Ty) (d : Nat) (x : LSArgs) (s : State) : Host.Outcome State Fault Refusal :=
  .next (issue [opAadd t d x] s)

/-- The meaning of `amin`: it issues, blocks or traps as a bundle of its own (`opAmin`). -/
def execAmin (t : Ty) (d : Nat) (x : LSArgs) (s : State) : Host.Outcome State Fault Refusal :=
  .next (issue [opAmin t d x] s)

/-- The meaning of `amax`: it issues, blocks or traps as a bundle of its own (`opAmax`). -/
def execAmax (t : Ty) (d : Nat) (x : LSArgs) (s : State) : Host.Outcome State Fault Refusal :=
  .next (issue [opAmax t d x] s)

/-- The meaning of `aand`: it issues, blocks or traps as a bundle of its own (`opAand`). -/
def execAand (t : Ty) (d : Nat) (x : LSArgs) (s : State) : Host.Outcome State Fault Refusal :=
  .next (issue [opAand t d x] s)

/-- The meaning of `aor`: it issues, blocks or traps as a bundle of its own (`opAor`). -/
def execAor (t : Ty) (d : Nat) (x : LSArgs) (s : State) : Host.Outcome State Fault Refusal :=
  .next (issue [opAor t d x] s)

/-- The meaning of `axch`: it issues, blocks or traps as a bundle of its own (`opAxch`). -/
def execAxch (t : Ty) (d : Nat) (x : LSArgs) (s : State) : Host.Outcome State Fault Refusal :=
  .next (issue [opAxch t d x] s)

/-- The meaning of `acas`: it issues, blocks or traps as a bundle of its own (`opAcas`). -/
def execAcas (t : Ty) (d : Nat) (x : LSArgs) (s : State) : Host.Outcome State Fault Refusal :=
  .next (issue [opAcas t d x] s)

/-- The meaning of `afadd`: it issues, blocks or traps as a bundle of its own (`opAfadd`). -/
def execAfadd (t : Ty) (d : Nat) (x : LSArgs) (s : State) : Host.Outcome State Fault Refusal :=
  .next (issue [opAfadd t d x] s)

/-- The meaning of `fenceAcq`: it issues, blocks or traps as a bundle of its own (`opFenceAcq`). -/
def execFenceAcq (scope : Scope) (s : State) : Host.Outcome State Fault Refusal :=
  .next (issue [opFenceAcq scope] s)

/-- The meaning of `fenceRel`: it issues, blocks or traps as a bundle of its own (`opFenceRel`). -/
def execFenceRel (scope : Scope) (s : State) : Host.Outcome State Fault Refusal :=
  .next (issue [opFenceRel scope] s)

/-- The meaning of `fenceAr`: it issues, blocks or traps as a bundle of its own (`opFenceAr`). -/
def execFenceAr (scope : Scope) (s : State) : Host.Outcome State Fault Refusal :=
  .next (issue [opFenceAr scope] s)


/-! ## Late accesses (R78, R146) -/

/-- What a late access reads: the registers and rows its bundle read, and a busy row as it stands now. -/
def lateRd (x : Late) (s : State) : Rd :=
  let c := s.ctx x.ctx
  { c := { c with sregs := x.sregs, kregs := x.kregs }
    row := fun n => (if thas x.rows n then tget 0 x.rows n else s.rowOf x.ctx n).toNat
    late := 1
    seed := x.seed
    mark := x.mark }

/-- In how many consecutive cycles, this one included, a late access has been passed over (R146). -/
def latePassed (x : Late) (s : State) : Nat := if s.passedOver x.ctx x.mark x.touch then x.passed + 1 else 0

/-- Whether a bank is promised to a core access passed over in eight consecutive cycles (R146). -/
def State.bankPromised (s : State) (bs : List Nat) : Bool :=
  s.cores.any fun e => e.2.late.any fun x => decide (8 ≤ x.passed) &&
    (banksOf x.touch).any fun b => bs.contains b

end Sys2Proof.Machine
end

