-- ==== Sys2Proof/Machine/Matrix.lean ====
section
/-! DEFINITION. The M slot: the shadow configuration set, the format table, commits, the two engine slots and what an
operation computes (R58 to R60, R63 to R69, R124 to R144). -/

namespace Sys2Proof.Machine

/-! ## The format table (R63, R64) -/

/-- Bits hi down to lo of a format-table entry. -/
def fbits (v : BitVec 32) (hi lo : Nat) : Nat := v.toNat / 2 ^ lo % 2 ^ (hi + 1 - lo)

/-- A format-table entry's fields. -/
structure Ent where
  a : Ty
  b : Ty
  acc : Ty
  scale : Nat
  spn : Nat
  out : Option Ty
  rnd : Rnd
  asat : Bool

/-- The type of a code, .f32 for the code that names none. -/
def tyOr (n : Nat) : Ty := (Ty.ofCode n).getD .f32

/-- The fields of an entry. -/
def entOf (v : BitVec 32) : Ent :=
  { a := tyOr (fbits v 31 28), b := tyOr (fbits v 27 24), acc := tyOr (fbits v 23 20), scale := fbits v 19 18
    spn := fbits v 17 16, out := Ty.ofCode (fbits v 15 12), rnd := if fbits v 11 9 = 0 then .rne else .rtz
    asat := fbits v 8 8 == 1 }

/-- The 8-bit float types. -/
def isFp8 (t : Ty) : Bool := t == .e4m3 || t == .e5m2

/-- The 8-bit integer types. -/
def isInt8 (t : Ty) : Bool := t == .i8 || t == .n8

/-- The accepted input pairs (R64). -/
def Ent.pairOk (e : Ent) : Bool :=
  (e.a == .bf16 && e.b == .bf16 && e.acc == .f32 && decide (e.scale ≤ 1) && !e.asat) ||
  (isFp8 e.a && isFp8 e.b && (e.acc == .f32 || e.acc == .bf16) && decide (e.scale ≤ 2) && !e.asat) ||
  (e.a == .e2m1 && e.b == .e2m1 && (e.acc == .f32 || e.acc == .bf16) && e.scale == 2 && !e.asat) ||
  (isInt8 e.a && isInt8 e.b && e.acc == .i32 && e.scale == 0)

/-- The output conversions (R63, R64). -/
def Ent.outOk (e : Ent) : Bool :=
  match e.out with
  | none => true
  | some t =>
    isInt8 t || isFp8 t || t == .bf16 || t == .f16 || (e.acc != .bf16 && (t == .i32 || t == .f32))

/-- Whether MFMT accepts an entry (R64). -/
def entOk (v : BitVec 32) : Bool :=
  fbits v 7 0 == 0 && decide (fbits v 11 9 ≤ 1) && [fbits v 31 28, fbits v 27 24, fbits v 23 20].all (fun n => (Ty.ofCode n).isSome) && (entOf v).pairOk && (entOf v).outOk

/-- The group size G (R58, R60). -/
def Ent.group (e : Ent) : Nat := if e.a == .bf16 then 16 else if e.a == .e2m1 then 64 else 32

/-- N of N-of-16 sparsity (R63). -/
def Ent.nOf (e : Ent) : Nat := 2 ^ e.spn

/-- The entry a format source names at issue (R65). -/
def entryOf (src : FmtSrc) (e : Nat) (c : Ctx) : Nat :=
  match src with
  | .entry => e
  | .lc0 => c.lc0.lc.toNat % 16
  | .lc1 => c.lc1.lc.toNat % 16

/-! ## Commits (R128, R130, R132) -/

/-- The element size in half bytes. -/
def halfBytes (k : MatKind) (t : Ty) : Nat := if k == .mmac then 8 else t.bits / 4

/-- NB: the rows of B. -/
def bRows (k : MatKind) (e : Ent) : Nat := if k == .mmac then 32 else if e.acc == .bf16 then 128 else 64

/-- Whether a command accepts an entry (R136). -/
def kindOk (k : MatKind) (e : Ent) : Bool :=
  match k with
  | .mma => e.spn == 0
  | .mmas => e.spn != 0
  | .mmac => e.a == .bf16 && e.b == .bf16 && e.acc == .f32 && e.spn == 0
  | .mzero => true

/-- The streaming cycles S (R132). -/
def streamOf (k : MatKind) (e : Ent) (depth : Nat) : Nat :=
  let perK := (if e.a == .bf16 then 1 else if e.a == .e2m1 then 4 else 2) / (if e.acc == .bf16 then 2 else 1)
  match k with
  | .mma => depth / perK
  | .mmas => depth / perK / 2
  | .mmac => 2 * depth
  | .mzero => 4

/-- A region of an operand: its first and last byte offset. -/
abbrev Region2 := Nat × Nat

def regA (k : MatKind) (e : Ent) (h : Shadow) : Region2 :=
  (h.aaddr.toNat, h.aaddr.toNat + 63 * h.astr.toNat + h.k.toNat * halfBytes k e.a / 2 - 1)
def regB (k : MatKind) (e : Ent) (h : Shadow) : Region2 :=
  let w := if k == .mmas then h.k.toNat * e.nOf / 16 * halfBytes k e.b / 2 else h.k.toNat * halfBytes k e.b / 2
  (h.baddr.toNat, h.baddr.toNat + (bRows k e - 1) * h.bstr.toNat + w - 1)
def regM (k : MatKind) (e : Ent) (h : Shadow) : Region2 :=
  (h.maddr.toNat, h.maddr.toNat + bRows k e * h.k.toNat / 8 - 1)
def regS (k : MatKind) (e : Ent) (h : Shadow) : Region2 :=
  (h.saddr.toNat, h.saddr.toNat + (64 + bRows k e) * h.k.toNat / 8 - 1)

/-- Whether the operation reads masks, and whether it reads block scales. -/
def usesM (k : MatKind) : Bool := k == .mmas
def usesS (e : Ent) : Bool := e.scale == 2

/-- The regions an operation uses (R128). -/
def regions (k : MatKind) (e : Ent) (h : Shadow) : List Region2 :=
  [regA k e h, regB k e h] ++ (if usesM k then [regM k e h] else []) ++ if usesS e then [regS k e h] else []

/-- The bank group of an offset (R130). -/
def groupOf (x : Nat) : Nat := x / 2 ^ 18 % 4

/-- The reason code of the first layout check that fails (R130). -/
def bankReason (k : MatKind) (e : Ent) (h : Shadow) : Option Nat :=
  let d := h.k.toNat
  let ga := groupOf h.aaddr.toNat
  let gb := groupOf h.baddr.toNat
  let gm := groupOf h.maddr.toNat
  let gs := groupOf h.saddr.toNat
  let rs := regions k e h
  if d = 0 ∨ d % e.group ≠ 0 ∨ (if k == .mmac then 1024 else 4096) < d then some 1
  else if h.aaddr.toNat % 16 ≠ 0 ∨ h.baddr.toNat % 16 ≠ 0 ∨ h.astr.toNat % 16 ≠ 0 ∨ h.bstr.toNat % 16 ≠ 0 ∨
      (usesM k = true ∧ h.maddr.toNat % 16 ≠ 0) ∨ (usesS e = true ∧ h.saddr.toNat % 16 ≠ 0) then some 2
  else if rs.any (fun r => decide (0xFFFFF < r.2)) then some 3
  else if rs.any (fun r => groupOf r.1 != groupOf r.2) then some 4
  else if ga = gb then some 5
  else if usesM k = true ∧ (gm = ga ∨ gm = gb) then some 6
  else if usesS e = true ∧ (gs = ga ∨ (usesM k = true ∧ gs = gm)) then some 7
  else none

/-- The commit's trap: an entry outside the command's column (R136), judged like MFMT's with the M slot, after the other slots'
address checks (log entry 130), then the layout. -/
def commitTrap (k : MatKind) (src : FmtSrc) (e : Nat) (s : State) : Option Trap :=
  let ent := entOf (s.me.fmtE (entryOf src e s.me))
  if !kindOk k ent then some (Slot.m.trap .illegalType 0 0)
  else (bankReason k ent s.me.sh).map fun r => Slot.m.trap .matrixBank r 0

/-- The rows of a context's tile as destinations (R33). -/
def tileDests (tile : Nat) (c : Ctx) : List Dest := (List.range 64).map fun i => .row (c.vbase + 64 * tile + i)

/-- An operation put into an engine slot: active when the engine is empty, else pending; it may start at once, behind an active
one that drains already too (log entry 146). -/
def State.takeSlot (s : State) (m : MatOp) : State :=
  let core := coreOf s.cur
  let s1 := s.modCore core fun c => if c.act.isNone then { c with act := some m } else { c with pend := some m }
  { s1 with agenda := s1.agenda ++ [⟨.matrixStart, [core]⟩] }

/-- A matrix operation that takes a slot. -/
def matOp (k : MatKind) (tile : Nat) (src : FmtSrc) (e : Nat) (acc : Bool) (y : Sync) : Op :=
  { (Op.cmd .m y).rangeIf (fun s => !s.me.hasTile tile) with
    dests := tileDests tile
    ready := fun s => let c := s.core (coreOf s.cur); c.act.isNone || c.pend.isNone
    addr := fun s => if k == .mzero then none else commitTrap k src e s
    effect := fun s =>
      let c := s.me
      let i := entryOf src e c
      let f := s.fresh
      let s1 := f.2.signalAccept y
      let s2 := if k == .mzero then s1 else s1.modMe fun c => { c with mshad := false }
      s2.takeSlot
        { kind := k, ctx := s.cur, tile := c.vbase + 64 * tile, tnum := tile, eidx := i, entry := c.fmtE i, acc := acc
          sh := c.sh, stream := streamOf k (entOf (c.fmtE i)) c.sh.k.toNat, start := none, olds := [], base := []
          writes := [], sees := (0, 0)
          shadow := c.mshad && k != .mzero, opnum := 0, id := f.1, done := s.done none y } }

def opMma (tile : Nat) (src : FmtSrc) (e : Nat) (acc : Bool) (y : Sync) : Op := matOp .mma tile src e acc y
def opMmas (tile : Nat) (src : FmtSrc) (e : Nat) (acc : Bool) (y : Sync) : Op := matOp .mmas tile src e acc y
def opMmac (tile : Nat) (src : FmtSrc) (e : Nat) (acc : Bool) (y : Sync) : Op := matOp .mmac tile src e acc y
def opMzero (tile : Nat) (y : Sync) : Op := matOp .mzero tile .entry 0 false y

/-! ## Configuration (R127, R138 to R142) -/

/-- A field of the shadow set written from 32 bits. -/
def Shadow.set (h : Shadow) (f : MField) (v : BitVec 32) : Shadow :=
  match f with
  | .aaddr => { h with aaddr := v }
  | .baddr => { h with baddr := v }
  | .maddr => { h with maddr := v }
  | .saddr => { h with saddr := v }
  | .k => { h with k := v }
  | .astr => { h with astr := v }
  | .bstr => { h with bstr := v }
  | .banda => { h with banda := v.setWidth 16 }
  | .bandb => { h with bandb := v.setWidth 16 }

/-- MCFGI's value: an address in units of 16 bytes, any other field as it stands. -/
def mcfgiVal (f : MField) (imm : Nat) : Nat :=
  match f with
  | .aaddr | .baddr | .maddr | .saddr => imm * 16
  | _ => imm

def opMcfg (f : MField) (sr : Nat) (y : Sync) : Op :=
  (Op.cmd .m y).atOnce y fun s => s.modMe fun c => { c with sh := c.sh.set f ((c.s sr).setWidth 32) }
def opMcfgi (f : MField) (imm : Nat) (y : Sync) : Op :=
  (Op.cmd .m y).atOnce y fun s => s.modMe fun c => { c with sh := c.sh.set f (BitVec.ofNat 32 (mcfgiVal f imm)) }

def opMrestart (off : Int) (y : Sync) : Op :=
  (Op.cmd .m y).atOnce y fun s => s.modMe fun c => { c with rlabel := some (c.pc + imm64 (2 * off)) }
def opMrestartOff (y : Sync) : Op := (Op.cmd .m y).atOnce y fun s => s.modMe fun c => { c with rlabel := none }

/-- A set bit for a tile outside the allotment (R141). -/
def maskOut (mask : Nat) (s : State) : Bool := (List.range 16).any fun n => mask.testBit n && !s.me.hasTile n

def opMkeep (mask : Nat) (y : Sync) : Op :=
  ((Op.cmd .m y).rangeIf (maskOut mask)).atOnce y fun s =>
    s.modMe fun c => { c with keep := c.keep ||| BitVec.ofNat 16 mask }
def opMdrop (mask : Nat) (y : Sync) : Op :=
  ((Op.cmd .m y).rangeIf (maskOut mask)).atOnce y fun s =>
    s.modMe fun c => { c with keep := c.keep &&& ~~~BitVec.ofNat 16 mask }

/-- MFMT; the entry of a loop counter is the counter's at issue (R138). ILLEGAL_TYPE of its register's entry is judged with the M
slot, after the other slots' address checks (log entry 130). -/
def opMfmt (src : FmtSrc) (e sr : Nat) (y : Sync) : Op :=
  { (Op.cmd .m y).atOnce y (fun s => s.modMe fun c =>
      { c with fmt := tput c.fmt (entryOf src e c) ((c.s sr).setWidth 32) }) with
    addr := fun s => if entOk ((s.me.s sr).setWidth 32) then none else some (Slot.m.trap .illegalType 0 0) }

def opMshad (y : Sync) : Op := (Op.cmd .m y).atOnce y fun s => s.modMe fun c => { c with mshad := true }

/-! ## Operand values (R48, R128, R129) -/

/-- An element read through `rd`, which gives the byte at a unit-pad offset: element `k` of a row at `base`. -/
def rdElem (rd : Nat → Nat) (t : Ty) (base k : Nat) : Nat :=
  if t == .e2m1 then rd (base + k / 2) / 16 ^ (k % 2) % 16
  else (List.range t.bytes).foldl (fun v i => v + rd (base + k * t.bytes + i) * 256 ^ i) 0

/-- Val of R48: the element, its block scale and its band scale, multiplied exactly. -/
def scaled (t : Ty) (bits : Nat) (blk : Option Nat) (band : Option FVal) : FVal × Flags :=
  let v := valOf t bits
  let r : FVal × Flags := match blk with
    | none => (v, 0)
    | some c => mulVal v (.fin false (scaleUnits c) 128)
  match band with
  | none => r
  | some b => let q := mulVal r.1 b; (q.1, q.2 ||| r.2)

/-- The band scale of an operand, when the entry's scale mode uses it. -/
def bandOf (e : Ent) (v : BitVec 16) : Option FVal := if e.scale = 0 then none else some (floatOf .bf16 v.toNat)

/-- Val(A, i, k). -/
def aVal (rd : Nat → Nat) (e : Ent) (h : Shadow) (i k : Nat) : FVal × Flags :=
  let blk := if e.scale = 2 then some (rd (h.saddr.toNat + i * (h.k.toNat / 8) + k / 8)) else none
  scaled e.a (rdElem rd e.a (h.aaddr.toNat + i * h.astr.toNat) k) blk (bandOf e h.banda)

/-- The mask of a group of 16 k of a column (R129). -/
def maskOf (rd : Nat → Nat) (h : Shadow) (j g : Nat) : Nat :=
  let a := h.maddr.toNat + (j * h.k.toNat / 16 + g) * 2
  rd a + 256 * rd (a + 1)

/-- The packed value a position receives, none where the position counts as clear (R129). -/
def packedAt (mask n t : Nat) : Option Nat :=
  if mask.testBit t ∧ popN mask t < n then some (popN mask t) else none

/-- Val(B, k, j), or none at a clear position. -/
def bVal (rd : Nat → Nat) (kd : MatKind) (e : Ent) (h : Shadow) (j k : Nat) : Option (FVal × Flags) :=
  let row := h.baddr.toNat + j * h.bstr.toNat
  let blk := if e.scale = 2 then some (rd (h.saddr.toNat + 64 * (h.k.toNat / 8) + j * (h.k.toNat / 8) + k / 8)) else none
  let el := fun i => scaled e.b (rdElem rd e.b row i) blk (bandOf e h.bandb)
  if kd == .mmas then
    (packedAt (maskOf rd h j (k / 16)) e.nOf (k % 16)).map fun p => el (k / 16 * e.nOf + p)
  else some (el k)

/-- Whether some mask has not exactly N bits set (R129). -/
def masksOff (rd : Nat → Nat) (e : Ent) (h : Shadow) : Bool :=
  (List.range (bRows .mmas e)).any fun j =>
    (List.range (h.k.toNat / 16)).any fun g => popN (maskOf rd h j g) 16 != e.nOf

/-- The product at one k: +0 at a clear position. -/
def termAt (rd : Nat → Nat) (kd : MatKind) (e : Ent) (h : Shadow) (i j k : Nat) : FVal × Flags :=
  match bVal rd kd e h j k with
  | none => (.fin false 0 1, 0)
  | some b =>
    let a := aVal rd e h i k
    let p := mulVal a.1 b.1
    (p.1, p.2 ||| a.2 ||| b.2)

/-- The exact sum of terms with every flag met. -/
def sumTerms (l : List (FVal × Flags)) : FVal × Flags :=
  let r := exactSum (l.map fun x => x.1)
  (r.1, l.foldl (fun f x => f ||| x.2) r.2)

/-- One group added to an accumulator held as bits (R58, R59). -/
def accStep (e : Ent) (acc : Nat × Flags) (sum : FVal × Flags) : Nat × Flags :=
  let x := exactSum [valOf e.acc acc.1, sum.1]
  let fl := acc.2 ||| sum.2 ||| x.2
  if e.acc == .i32 then
    let i := match x.1 with | .fin s n d => snum s n / d | _ => 0
    let r := if e.asat then saturate .i32 i else (wrapInt .i32 i, 0)
    (r.1, fl ||| r.2)
  else
    let r := rne e.acc x.1
    (r.1, fl ||| r.2)

/-- A cell's accumulator after every group (R58). -/
def cellOf (rd : Nat → Nat) (kd : MatKind) (e : Ent) (h : Shadow) (init i j : Nat) : Nat × Flags :=
  (List.range (h.k.toNat / e.group)).foldl (fun acc g =>
    accStep e acc (sumTerms ((List.range e.group).map fun t => termAt rd kd e h i j (g * e.group + t)))) (init, 0)

/-! ## Complex cells (R60) -/

/-- A part of a complex element: part 0 real, part 1 imaginary, scaled by its band. -/
def cplxA (rd : Nat → Nat) (e : Ent) (h : Shadow) (i k part : Nat) : FVal × Flags :=
  scaled .bf16 (rdElem rd .bf16 (h.aaddr.toNat + i * h.astr.toNat) (2 * k + part)) none (bandOf e h.banda)
def cplxB (rd : Nat → Nat) (e : Ent) (h : Shadow) (j k part : Nat) : FVal × Flags :=
  scaled .bf16 (rdElem rd .bf16 (h.baddr.toNat + j * h.bstr.toNat) (2 * k + part)) none (bandOf e h.bandb)

/-- A product of two parts, negated when asked. -/
def cplxTerm (neg : Bool) (x y : FVal × Flags) : FVal × Flags :=
  let p := mulVal x.1 y.1
  (if neg then p.1.negate else p.1, p.2 ||| x.2 ||| y.2)

/-- The term of a complex part at one k: a·c − b·d, or a·d + b·c, exactly (R60). -/
def cplxAt (rd : Nat → Nat) (e : Ent) (h : Shadow) (i j part k : Nat) : FVal × Flags :=
  let a := fun p => cplxA rd e h i k p
  let b := fun p => cplxB rd e h j k p
  sumTerms (if part = 0 then [cplxTerm false (a 0) (b 0), cplxTerm true (a 1) (b 1)]
    else [cplxTerm false (a 0) (b 1), cplxTerm false (a 1) (b 0)])

/-- A complex cell's real or imaginary accumulator after every group. -/
def cplxCell (rd : Nat → Nat) (e : Ent) (h : Shadow) (init i j part : Nat) : Nat × Flags :=
  (List.range (h.k.toNat / 16)).foldl (fun acc g =>
    accStep e acc (sumTerms ((List.range 16).map fun t => cplxAt rd e h i j part (g * 16 + t)))) (init, 0)

/-! ## A tile's result (R65, R125, R136) -/

/-- The values of a row as the tile lays them out: one for each lane. -/
def rowLanes (kd : MatKind) (e : Ent) : Nat := if kd == .mmac then 64 else bRows kd e

/-- The accumulator of lane `l` of row `i`. -/
def laneAcc (rd : Nat → Nat) (kd : MatKind) (e : Ent) (h : Shadow) (init i l : Nat) : Nat × Flags :=
  if kd == .mmac then cplxCell rd e h init i (l / 2) (l % 2) else cellOf rd kd e h init i l

/-- The starting accumulator of a lane. -/
def initOf (acc : Bool) (e : Ent) (old l : Nat) : Nat := if acc then laneOf old e.acc.bytes l else 0

/-- A row of the result: its accumulators, converted when the entry asks, packed from byte 0 up. -/
def rowResult (rd : Nat → Nat) (m : MatOp) (i old : Nat) : Nat × Flags :=
  let e := entOf m.entry
  (List.range (rowLanes m.kind e)).foldl (fun r l =>
    let c := laneAcc rd m.kind e m.sh (initOf m.acc e old l) i l
    match e.out with
    | none => (r.1 + c.1 * 2 ^ (e.acc.bits * l), r.2 ||| c.2)
    | some t =>
      let q := roundTo t e.rnd 0 (valOf e.acc c.1)
      (r.1 + q.1 * 2 ^ (t.bits * l), r.2 ||| c.2 ||| q.2)) (0, 0)

/-- How many writes each beat sees at the least: those that the operation's bundle has waited for in its issue cycle (R298), when
it streams from that cycle on. -/
def MatOp.least (m : MatOp) : Nat := if m.start = some m.sees.1 then m.sees.2 else 0

/-- The operand bytes of an operation (R134): each 64-byte beat has its own place in the order of the accesses to its chunk
(R295), so it holds what was in memory before the streaming with a draw's number of the writes made since, in their order. -/
def MatOp.reader (m : MatOp) (draw : Nat) (x : Nat) : Nat :=
  let a := unitKey (dieOf m.ctx) (clusOf m.ctx) (coreNo m.ctx) (x % 2 ^ 20)
  ((m.writes.take (max m.least (Config.beat draw (x / 64)))).foldl (fun v w =>
    if decide (w.1 ≤ a) && decide (a < w.1 + w.2.length) then w.2.getD (a - w.1) 0 else v) (memGet m.base a)).toNat

/-! ## Shadow recompute (R66 to R68) -/

/-- A value as FP32 bits. -/
def toF32 (x : FVal) : Nat := (rne .f32 x).1

/-- The product of R67 at one k, each value rounded first; 0 at a clear position. -/
def shadowTerm (rd : Nat → Nat) (kd : MatKind) (e : Ent) (h : Shadow) (i j k : Nat) : FVal :=
  match bVal rd kd e h j k with
  | none => .fin false 0 1
  | some b => (mulVal (floatOf .f32 (toF32 (aVal rd e h i k).1)) (floatOf .f32 (toF32 b.1))).1

/-- The recomputed value of a cell: the operation's own initial accumulator, rounded only with each product added. -/
def shadowCell (rd : Nat → Nat) (kd : MatKind) (e : Ent) (h : Shadow) (init i j : Nat) : Nat :=
  toF32 ((List.range h.k.toNat).foldl (fun r k =>
    floatOf .f32 (toF32 (exactSum [r, shadowTerm rd kd e h i j k]).1)) (valOf e.acc init))

/-- The quotient of two magnitudes in FP32. -/
def f32Quot (x y : FVal) : FVal :=
  match x, y with
  | .fin _ n d, .fin _ n' d' => floatOf .f32 (toF32 (.fin false (n * d') (d * n')))
  | .inf _, .fin .. => .inf false
  | .fin .., .inf _ => .fin false 0 1
  | _, _ => .nan false

/-- The deviation of a cell from its FP32 bits c and r; NaN where R67 states none. -/
def deviation (c r : Nat) : FVal :=
  let vc := floatOf .f32 c
  let vr := floatOf .f32 r
  if vc.isNan && vr.isNan then .fin false 0 1
  else if vc.isNan || vr.isNan then .inf false
  else
    let d := floatOf .f32 (toF32 (exactSum [vc, vr.negate]).1)
    let m := if vr.abs.lt (.fin false 1 (2 ^ 126)) then .fin false 1 (2 ^ 126) else vr.abs
    if d.isNan then .nan false else f32Quot d.abs m

/-- The cells of a tile: deviation, row, column, c and r. -/
def shadowCells (rd : Nat → Nat) (m : MatOp) (olds : List Nat) : List (FVal × Nat × Nat × Nat × Nat) :=
  let e := entOf m.entry
  ((List.range 64).map fun i => (List.range (bRows m.kind e)).map fun j =>
    let init := initOf m.acc e (olds.getD i 0) j
    let c := toF32 (valOf e.acc (cellOf rd m.kind e m.sh init i j).1)
    let r := shadowCell rd m.kind e m.sh init i j
    (deviation c r, i, j, c, r)).flatten

/-- The first cell of the largest deviation, in row order and then column order. -/
def worstCell : List (FVal × Nat × Nat × Nat × Nat) → FVal × Nat × Nat × Nat × Nat
  | [] => (.fin false 0 1, 0, 0, 0, 0)
  | x :: l => l.foldl (fun a b => if a.1.lt b.1 then b else a) x

/-- Bytes 16 to 23 and 32 to 39 of a shadow record. R67 gives no cells of a complex tile and no deviation of equal
infinities; there they are free. -/
def shadowTail (rd : Nat → Nat) (m : MatOp) (olds : List Nat) (draw : Nat) : List Byte × List Byte :=
  let cells := shadowCells rd m olds
  if m.kind == .mmac || cells.any (fun c => c.1.isNan) then
    ((List.range 8).map fun i => Config.freeByte draw i,
     (List.range 8).map fun i => Config.freeByte draw (8 + i))
  else
    let w := worstCell cells
    (leBytes (toF32 w.1) 4 ++ leBytes w.2.1 2 ++ leBytes w.2.2.1 2, leBytes w.2.2.2.1 4 ++ leBytes w.2.2.2.2 4)

/-- The shadow record of an operation at its completion (R68). -/
def shadowRec (m : MatOp) (cyc task : Nat) (tail : List Byte × List Byte) : List Byte :=
  leBytes 1 2 ++ leBytes (dieOf m.ctx) 1 ++ leBytes (clusOf m.ctx) 1 ++ leBytes (coreNo m.ctx) 1 ++
    leBytes (ctxNo m.ctx) 1 ++ leBytes m.tnum 1 ++ leBytes m.eidx 1 ++ leBytes cyc 8 ++ tail.1 ++
    leBytes m.entry.toNat 4 ++ leBytes task 4 ++ tail.2 ++ leBytes m.opnum 8 ++ zeros 16

/-! ## Start and completion (R131 to R133) -/

/-- Whether a destination is a row of an operation's tile that is written before the operation. -/
def MatOp.follows (m : MatOp) : Dest → Bool
  | .row n | .nib n _ none => decide (m.tile ≤ n) && decide (n < m.tile + 64)
  | .under n id | .nib n _ (some id) => decide (m.tile ≤ n) && decide (n < m.tile + 64) && decide (id ≤ m.id)
  | _ => false

/-- Whether a context has a row result still to be written into an operation's tile that it issued before the operation (R133):
one in flight, one in a latch (R326), or that of a vector operation of the operation's own bundle that is late. The latches
of a stopped context go into its image and hold nothing back (R144; log entry 116). -/
def State.rowsInFlight (s : State) (m : MatOp) : Bool :=
  let c := s.ctx m.ctx
  (c.inflight ++ match c.st with | .stopped _ => [] | _ => c.latches).any (fun r => m.follows r.dest) ||
    (s.core (coreOf m.ctx)).late.any fun x => x.ctx == m.ctx && decide (x.mark ≤ m.id) &&
      match vopOf x.op with | some v => (v.dest c).any m.follows | none => false

/-- The operation streams from this cycle on: it is counted in OPNUM, itself included (R68; log entry 117), and but for MZERO for
SHADN (R66, R137). The old accumulators are those of now (R133). What was in memory before this cycle it sees, and what is
written from this cycle on it may see (R134). -/
def State.startMat (s : State) (core : Nat) (m : MatOp) : MatOp × State :=
  let c := s.core core
  let n := c.opnum + 1
  if m.kind == .mzero then ({ m with start := some s.clock, opnum := n }, s.setCore core { c with opnum := n })
  else
    let hit := c.shadn != 0 && c.shcount + 1 == c.shadn.toNat
    let m' := { m with
      start := some s.clock, olds := (List.range 64).map fun i => c.row (m.tile + i), base := s.mem0, writes := [], shadow := m.shadow || hit, opnum := n }
    let s1 := s.setCore core { c with opnum := c.opnum + 1, shcount := if hit then 0 else c.shcount + 1 }
    let ent := entOf m.entry
    (m', s1.checkReads m.ctx ((regions m.kind ent m.sh).map fun r =>
      (unitKey (dieOf m.ctx) (clusOf m.ctx) (coreNo m.ctx) r.1, r.2 + 1 - r.1)))

/-- MATRIX_START (R131 to R133): the active operation, or the pending one behind an active one that has streamed into
another tile, starts once no row write of its context into its tile is in flight. A halted die starts none but those of contexts
being killed (R328, R330). -/
def stepMatrixStart (core : Nat) (s : State) : State :=
  let c := s.core core
  let kept := fun m : MatOp => (s.die (core / 64)).halted && match (s.ctx m.ctx).st with | .dying _ => false | _ => true
  match c.act with
  | none => s
  | some a =>
    match a.start with
    | none =>
      if s.rowsInFlight a || kept a then s
      else
        let r := s.startMat core a
        r.2.modCore core fun c => { c with act := some r.1 }
    | some t =>
      match c.pend with
      | none => s
      | some p =>
        if p.start.isSome || decide (s.clock < t + a.stream) || p.tile == a.tile || s.rowsInFlight p || kept p then s
        else
          let r := s.startMat core p
          r.2.modCore core fun c => { c with pend := some r.1 }

/-- The tile of an operation written with its result, and the flags. -/
def State.matResult (s : State) (m : MatOp) : State :=
  let core := coreOf m.ctx
  if m.kind == .mzero then
    s.modCore core fun c => (List.range 64).foldl (fun c i => c.setRow (m.tile + i) 0) c
  else
    let d := s.draw
    let rd := m.reader d.1
    let olds := m.olds.map fun r => r.toNat
    let rows := (List.range 64).map fun i => rowResult rd m i (olds.getD i 0)
    let spm : Flags := if m.kind == .mmas && masksOff rd (entOf m.entry) m.sh then flSPM else 0
    let fl := rows.foldl (fun f r => f ||| r.2) spm
    let rcd := shadowRec m (s.cycle (dieOf m.ctx)) (s.ctx m.ctx).task (shadowTail rd m olds d.1)
    let s1 := d.2.modCore core fun c =>
      let c1 := (List.range 64).foldl (fun c i => c.setRow (m.tile + i) (BitVec.ofNat 2048 (rows.getD i (0, 0)).1)) c
      if m.shadow then { c1 with shadq := c1.shadq ++ [(s.clock + 8192, rcd)] } else c1
    s1.modCtx m.ctx fun c => c.raise fl

/-- MATRIX_COMPLETE (R131, R132), at the end of cycle start + S + 11: tile, flags and signal take effect, and the pending
operation becomes active. `turn` is empty at the end of a cycle. -/
def stepMatrixComplete (core : Nat) (s : State) : State :=
  match (s.core core).act with
  | none => s
  | some m =>
    match m.start with
    | none => s
    | some t =>
      if s.turn.isEmpty && decide (t + m.stream + 11 ≤ s.clock) then
        let s1 := s.matResult m
        let s2 := match m.done.sig with | some (n, i) => s1.signal m.ctx n i | none => s1
        s2.modCore core fun c => { c with act := c.pend, pend := none }
      else s

/-- Whether a write of `n` bytes meets an operation's unit pad. -/
def MatOp.inPad (m : MatOp) (a n : Nat) : Bool := overlaps a n (unitKey (dieOf m.ctx) (clusOf m.ctx) (coreNo m.ctx) 0) (2 ^ 20)

/-- The writes of a cycle kept by an operation that streams in it, in their order. -/
def MatOp.look (m : MatOp) (clock : Nat) (l : List (Nat × List Byte)) : MatOp :=
  match m.start with
  | some t =>
    if clock < t + m.stream then
      { m with writes := m.writes ++ l.filter fun w => m.inPad w.1 w.2.length }
    else m
  | none => m

/-! ## The telemetry ring (R69) -/

/-- A record put into the die's telemetry ring, or counted as dropped. A ring that runs past the pad's end wraps to its beginning
(log entry 118). -/
def State.telemetry (s : State) (die : Nat) (r : List Byte) : State :=
  let slots := (s.dreg die 7 0x30).toNat
  let head := (s.dreg die 7 0x38).toNat
  if slots = 0 ∨ (head + 1) % slots = (s.dreg die 7 0x40).toNat % slots then s.bumpDreg die 7 0x48 1
  else
    (s.write (dieKey die (((s.dreg die 7 0x28).toNat + 64 * head) % 2 ^ 25)) r).setDreg die 7 0x38
      (BitVec.ofNat 64 ((head + 1) % slots))

/-- SHADOW_RECORD (R67): the checker writes its oldest record to the ring, at the latest 8192 cycles after completion. -/
def stepShadowRecord (core : Nat) (s : State) : State :=
  match (s.core core).shadq with
  | [] => s
  | r :: l => (s.modCore core fun c => { c with shadq := l }).telemetry (core / 64) r.2

/-- The meaning of `mcfg`: it issues, blocks or traps as a bundle of its own (`opMcfg`). -/
def execMcfg (f : MField) (sr : Nat) (y : Sync) (s : State) : Host.Outcome State Fault Refusal :=
  .next (issue [opMcfg f sr y] s)

/-- The meaning of `mcfgi`: it issues, blocks or traps as a bundle of its own (`opMcfgi`). -/
def execMcfgi (f : MField) (imm : Nat) (y : Sync) (s : State) : Host.Outcome State Fault Refusal :=
  .next (issue [opMcfgi f imm y] s)

/-- The meaning of `mma`: it issues, blocks or traps as a bundle of its own (`opMma`). -/
def execMma (tile : Nat) (src : FmtSrc) (e : Nat) (acc : Bool) (y : Sync) (s : State) : Host.Outcome State Fault Refusal :=
  .next (issue [opMma tile src e acc y] s)

/-- The meaning of `mmas`: it issues, blocks or traps as a bundle of its own (`opMmas`). -/
def execMmas (tile : Nat) (src : FmtSrc) (e : Nat) (acc : Bool) (y : Sync) (s : State) : Host.Outcome State Fault Refusal :=
  .next (issue [opMmas tile src e acc y] s)

/-- The meaning of `mmac`: it issues, blocks or traps as a bundle of its own (`opMmac`). -/
def execMmac (tile : Nat) (src : FmtSrc) (e : Nat) (acc : Bool) (y : Sync) (s : State) : Host.Outcome State Fault Refusal :=
  .next (issue [opMmac tile src e acc y] s)

/-- The meaning of `mzero`: it issues, blocks or traps as a bundle of its own (`opMzero`). -/
def execMzero (tile : Nat) (y : Sync) (s : State) : Host.Outcome State Fault Refusal :=
  .next (issue [opMzero tile y] s)

/-- The meaning of `mrestart`: it issues, blocks or traps as a bundle of its own (`opMrestart`). -/
def execMrestart (off : Int) (y : Sync) (s : State) : Host.Outcome State Fault Refusal :=
  .next (issue [opMrestart off y] s)

/-- The meaning of `mrestartOff`: it issues, blocks or traps as a bundle of its own (`opMrestartOff`). -/
def execMrestartOff (y : Sync) (s : State) : Host.Outcome State Fault Refusal :=
  .next (issue [opMrestartOff y] s)

/-- The meaning of `mkeep`: it issues, blocks or traps as a bundle of its own (`opMkeep`). -/
def execMkeep (mask : Nat) (y : Sync) (s : State) : Host.Outcome State Fault Refusal :=
  .next (issue [opMkeep mask y] s)

/-- The meaning of `mdrop`: it issues, blocks or traps as a bundle of its own (`opMdrop`). -/
def execMdrop (mask : Nat) (y : Sync) (s : State) : Host.Outcome State Fault Refusal :=
  .next (issue [opMdrop mask y] s)

/-- The meaning of `mfmt`: it issues, blocks or traps as a bundle of its own (`opMfmt`). -/
def execMfmt (src : FmtSrc) (e : Nat) (sr : Nat) (y : Sync) (s : State) : Host.Outcome State Fault Refusal :=
  .next (issue [opMfmt src e sr y] s)

/-- The meaning of `mshad`: it issues, blocks or traps as a bundle of its own (`opMshad`). -/
def execMshad (y : Sync) (s : State) : Host.Outcome State Fault Refusal :=
  .next (issue [opMshad y] s)

/-- The meaning of `matrixStart`: the step `stepMatrixStart` on the operands that the state holds. -/
def execMatrixStart (s : State) : Host.Outcome State Fault Refusal :=
  .next (stepMatrixStart (s.arg 0) s)

/-- The meaning of `matrixComplete`: the step `stepMatrixComplete` on the operands that the state holds. -/
def execMatrixComplete (s : State) : Host.Outcome State Fault Refusal :=
  .next (stepMatrixComplete (s.arg 0) s)

/-- The meaning of `shadowRecord`: the step `stepShadowRecord` on the operands that the state holds. -/
def execShadowRecord (s : State) : Host.Outcome State Fault Refusal :=
  .next (stepShadowRecord (s.arg 0) s)


end Sys2Proof.Machine
end

