-- ==== Sys2Proof/Machine/Xlate.lean ====
section
/-! DEFINITION. The virtual space of a die: walks, the TLB, and how an engine or the port reads and writes one piece of
memory by its global address (R201 to R209, R215 to R217, R224, R332). -/

namespace Sys2Proof.Machine

/-! ## Leaves and the table region (R203, R204, R207, R216) -/

def leafV (e : Word) : Bool := e.getLsbD 0
def leafL (e : Word) : Bool := e.getLsbD 1
def leafTier (e : Word) : Nat := bitsOf e 3 2
def leafH (e : Word) : Bool := e.getLsbD 4
def leafD (e : Word) : Bool := e.getLsbD 5
def leafA (e : Word) : Bool := e.getLsbD 6
def leafMig (e : Word) : Bool := e.getLsbD 7
def leafR (e : Word) : Bool := e.getLsbD 8
def leafW (e : Word) : Bool := e.getLsbD 9
def leafE (e : Word) : Bool := e.getLsbD 10
def leafPin (e : Word) : Bool := e.getLsbD 11
def leafFrame (e : Word) : Nat := bitsOf e 51 16
def leafRci (e : Word) : Nat := bitsOf e 63 52

/-- The size of a page of a level, of a table, and the index of a VA in the table of a level (R203). -/
def pageSize (lvl : Nat) : Nat := if lvl = 1 then 2 ^ 34 else if lvl = 2 then 2 ^ 25 else 2 ^ 16
def tableSize (lvl : Nat) : Nat := if lvl = 1 then 8192 else 4096
def tableIndex (lvl va : Nat) : Nat := if lvl = 1 then va / 2 ^ 34 % 1024 else va / pageSize lvl % 512

/-- The first VA of the page of a level that holds `va`. -/
def pageBase (lvl va : Nat) : Nat := va / pageSize lvl * pageSize lvl

/-- The table region of a virtual device: its first byte and the byte after it. -/
def State.tableRegion (s : State) (die vd : Nat) : Nat × Nat :=
  ((s.reg die vd 2 0x08).toNat, (s.reg die vd 2 0x10).toNat)

/-- Whether bytes of HBM lie in home slices that the die presents (R14, R215). -/
def State.hbmHas (s : State) (die a n : Nat) : Bool := decide (a + n ≤ s.nclus die * 2 ^ 32)

/-- Whether a table of a size lies in the table region, which is a range of the die's own HBM (R207). -/
def State.inTables (s : State) (die vd a n : Nat) : Bool :=
  let r := s.tableRegion die vd
  decide (r.1 ≤ a) && decide (a + n ≤ r.2) && s.hbmHas die a n

/-- Whether bytes of HBM meet a table region. -/
def State.meetsTables (s : State) (die vd a n : Nat) : Bool :=
  let r := s.tableRegion die vd
  decide (r.1 < r.2) && overlaps a n r.1 (r.2 - r.1)

/-- Whether a frame lies in the die's range of its tier (R216). -/
def State.frameOk (s : State) (die tier frame size : Nat) : Bool :=
  let units := size / 65536
  let rng := fun v : Word => decide (bitsOf v 31 0 ≤ frame) && decide (frame + units ≤ bitsOf v 63 32)
  match tier with
  | 0 => s.hbmHas die (frame * 65536) size
  | 1 => rng (s.dreg die 2 0x40)
  | 2 => rng (s.dreg die 2 0x48)
  | _ => true

/-- The hull aperture of a virtual device (R224, R227). -/
def State.aperture (s : State) (die vd : Nat) : Nat × Nat := ((s.reg die vd 3 0x00).toNat, (s.reg die vd 3 0x08).toNat)

/-- Whether a range of VA meets the hull aperture. -/
def State.meetsAperture (s : State) (die vd va n : Nat) : Bool :=
  let r := s.aperture die vd
  decide (r.1 < r.2) && decide (0 < n) && overlaps va n r.1 (r.2 - r.1)

/-- Whether a leaf keeps the rules of R205 and R224, its permissions apart. -/
def State.leafOk (s : State) (die vd lvl va : Nat) (e : Word) : Bool :=
  bitsOf e 15 12 == 0 && (leafFrame e * 65536) % pageSize lvl == 0 &&
    s.frameOk die (leafTier e) (leafFrame e) (pageSize lvl) &&
    !(leafTier e == 0 && s.meetsTables die vd (leafFrame e * 65536) (pageSize lvl)) &&
    leafH e == s.meetsAperture die vd (pageBase lvl va) (pageSize lvl)

/-! ## The walk (R205, R206) -/

/-- The causes of a page fault (R212). -/
inductive PfCause where
  | notValid | perm | tier
  deriving DecidableEq, Repr

/-- The CAUSE codes of R212. -/
def PfCause.code : PfCause → Nat
  | .notValid => 0 | .perm => 1 | .tier => 2

/-- What a walk ends in: a leaf with its level and HBM offset, a fault, or a table fault at an HBM offset. -/
inductive WalkRes where
  | leaf (lvl pte : Nat) (e : Word)
  | fault (c : PfCause) (lvl : Nat)
  | node (off : Nat)
  deriving DecidableEq, Repr

/-- What an access of a kind lacks in a leaf (R206). A request through the port needs E as well. -/
def leafLacks (acc : Access) (port : Bool) (e : Word) : Option PfCause :=
  let ok := match acc with
    | .read => leafR e
    | .write => leafW e
    | .atomic => leafR e && leafW e
    | .none => true
  if !ok || (port && !leafE e) then some .perm
  else if acc == .atomic && leafTier e != 0 then some .tier
  else none

/-- A table entry of the die's HBM. -/
def State.entry (s : State) (die off : Nat) : Word := BitVec.ofNat 64 (s.readNat (hbmKey die off) 8)

/-- The reserved bits of a non-leaf entry. -/
def nodeBad (e : Word) : Bool := bitsOf e 63 52 != 0 || bitsOf e 11 2 != 0

/-- The walk from the table `t` of a level on, with the levels still to go. -/
def State.walkFrom (s : State) (die vd va : Nat) (acc : Access) (port : Bool) (t : Nat) : Nat → WalkRes
  | 0 => .node t
  | n + 1 =>
    let lvl := 3 - n
    let off := t + 8 * tableIndex lvl va
    let e := s.entry die off
    if !leafV e then .fault .notValid lvl
    else if !leafL e then
      if n = 0 ∨ nodeBad e = true then .node off
      else
        let t' := bitsOf e 51 12 * 4096
        if s.inTables die vd t' (tableSize (lvl + 1)) then s.walkFrom die vd va acc port t' n else .node off
    else if !s.leafOk die vd lvl va e then .node off
    else
      match leafLacks acc port e with
      | some c => .fault c lvl
      | none => .leaf lvl off e

/-- The table entries that a walk reads from the table `t` of a level on, by their HBM offsets. -/
def State.entriesFrom (s : State) (die vd va t : Nat) : Nat → List Nat
  | 0 => []
  | n + 1 =>
    let lvl := 3 - n
    let off := t + 8 * tableIndex lvl va
    let e := s.entry die off
    let t' := bitsOf e 51 12 * 4096
    off :: if leafV e && !leafL e && n != 0 && !nodeBad e && s.inTables die vd t' (tableSize (lvl + 1)) then
      s.entriesFrom die vd va t' n else []

/-- The table entries that the walk of a VA reads. -/
def State.entriesOf (s : State) (die vd va : Nat) : List Nat :=
  let t := (s.reg die vd 2 0).toNat
  if s.inTables die vd t 8192 then s.entriesFrom die vd va t 3 else []

/-- The first uncorrectable chunk that table entries lie in (R331). -/
def State.badEntry (s : State) (die : Nat) (l : List Nat) : Option Nat := l.findSome? fun off => s.badIn (hbmKey die off) 8

/-- The machine checks that reads of table entries raise. -/
def State.checkEntries (s : State) (die who : Nat) (l : List Nat) : State := s.checkAt die who (l.map fun off => (hbmKey die off, 8))

/-- Walk of R205. A root outside the table region is a table fault at the root. -/
def State.walk (s : State) (die vd va : Nat) (acc : Access) (port : Bool) : WalkRes :=
  let t := (s.reg die vd 2 0).toNat
  if s.inTables die vd t 8192 then s.walkFrom die vd va acc port t 3 else .node t

/-! ## The TLB (R208, R209) -/

/-- Whether a TLB entry maps a VA of a virtual device. -/
def TlbE.maps (x : TlbE) (vd va : Nat) : Bool :=
  x.vd == vd && decide (x.va ≤ va) && decide (va < x.va + pageSize x.lvl)

/-- Whether a TLB entry maps a byte of a range. -/
def TlbE.meets (x : TlbE) (vd va n : Nat) : Bool := x.vd == vd && overlaps x.va (pageSize x.lvl) va n

/-- The entry that maps a VA. -/
def Die.tlbFind (d : Die) (vd va : Nat) : Option TlbE := d.tlb.find? fun x => x.maps vd va

/-- The die without the TLB entries that meet a range. -/
def Die.tlbDrop (d : Die) (vd va n : Nat) : Die := { d with tlb := d.tlb.filter fun x => !x.meets vd va n }

/-- A bit set in an 8-byte table entry, indivisibly, only when it is clear (R209). -/
def State.setPteBit (s : State) (die pte bit : Nat) : State :=
  let e := s.entry die pte
  if e.getLsbD bit then s else s.writeNat (hbmKey die pte) 8 (e ||| field bit bit).toNat

/-- The entries that the TLB holds besides a new one: of 16,384 some one makes room, since replacement is not architectural
(R208). -/
def tlbRest (l : List TlbE) (draw : Nat) : List TlbE := if l.length < 16384 then l else l.eraseIdx (Config.choice draw % l.length)

/-- Whether an access through a TLB entry reads the leaf again, to set A or D in it. -/
def TlbE.rereads (x : TlbE) (wr : Bool) : Bool := !leafA x.leaf || (wr && !leafD x.leaf)

/-- The first access through a new TLB entry: A is set, and for a write D when the entry's is clear. -/
def State.touch (s : State) (die : Nat) (x : TlbE) (wr : Bool) : State :=
  let e1 := if leafA x.leaf then x.leaf else x.leaf ||| field 6 6
  let s1 := if leafA x.leaf then s else s.setPteBit die x.pte 6
  let e2 := if wr && !leafD e1 then e1 ||| field 5 5 else e1
  let s2 := if wr && !leafD e1 then s1.setPteBit die x.pte 5 else s1
  let rest := (s2.die die).tlb.filter fun y => !(y.vd == x.vd && y.va == x.va && y.lvl == x.lvl)
  { (s2.modDie die fun d => { d with tlb := { x with leaf := e2 } :: tlbRest rest s2.free }) with free := s2.free + 1 }

/-- Where bytes of memory are: a home address and the leaf's RCI when a counter of R217 is to count them, bytes that the host
holds at a home address, a fault, a table fault, an access that waits for a page that moves, one whose walk would be that of a
virtual device whose walks have stopped (R332), one of the port whose walk reads an uncorrectable chunk (R331), or a slice of a
cluster the die does not present. -/
inductive Where where
  | home (key : Nat) (rci : Option Nat)
  | host (key : Nat)
  | fault (c : PfCause)
  | node (off : Nat)
  | wait
  | dead
  | bad (chunk : Nat)
  | absent (off : Nat)
  deriving DecidableEq, Repr

/-- The home of a byte at a host's address: the endpoint is the leaf's RCI (R215). -/
def hostKey (rci a : Nat) : Nat := 2 ^ 66 + rci * 2 ^ 52 + a

/-- The home of a byte at an offset of a page. -/
def leafHome (die : Nat) (e : Word) (off : Nat) : Where :=
  let a := leafFrame e * 65536 + off
  match leafTier e with
  | 0 => .home (hbmKey die a) (some (leafRci e))
  | 1 => .home (warmKey a) (some (leafRci e))
  | 2 => .home (coldKey a) (some (leafRci e))
  | _ => .host (hostKey (leafRci e) a)

/-- Whether the die uses a TLB entry it holds: replacement is not architectural, so a held entry may have gone (R208). -/
def State.tlbUse (s : State) : Bool := Config.choice s.free % 2 == 0

/-- A VA translated for an access (R209): through the TLB's entry or by a walk. A fault through a held entry is judged
by a walk. `who` is the context that makes the access, 4096 when it has ended, or none for a request at the port; an
uncorrectable chunk of a table raises a machine check, and fails a request at the port (R331). -/
def State.translate (s : State) (die vd va : Nat) (acc : Access) (who : Option Nat) : Where × State :=
  let d := s.die die
  let port := who.isNone
  let s0 := s.draw.2
  let wr := acc == .write || acc == .atomic
  let seen := fun l : List Nat => match who with | some k => s0.checkEntries die k l | none => s0
  let fails := fun l : List Nat => if port then s0.badEntry die l else none
  let hit := match d.tlbFind vd va with
    | some x => if s.tlbUse && (leafLacks acc port x.leaf).isNone then some x else none
    | none => none
  match hit with
  | some x =>
    if leafMig x.leaf then (.wait, s0)
    else
      let l := if x.rereads wr then [x.pte] else []
      (match fails l with
       | some c => (.bad c, s0)
       | none => (leafHome die x.leaf (va - x.va), (seen l).touch die x wr))
  | none =>
    if d.deadVds.contains vd then (.dead, s0)
    else
      let l := s.entriesOf die vd va
      match fails l with
      | some c => (.bad c, s0)
      | none =>
        match s.walk die vd va acc port with
        | .fault c _ => (.fault c, seen l)
        | .node off => (.node off, seen l)
        | .leaf lvl pte e =>
          if leafMig e then (.wait, seen l)
          else
            let x : TlbE := ⟨vd, lvl, pageBase lvl va, pte, e⟩
            (leafHome die e (va - x.va), (seen l).touch die x wr)

/-! ## Pieces of memory -/

/-- Where an address of a die's own kinds leads, for a virtual device: a pad, the HBM aperture, or its virtual space. -/
def State.locate (s : State) (die vd : Nat) (a : Word) (acc : Access) (who : Option Nat) : Where × State :=
  match kindOf a with
  | 0x0 => s.translate die vd (lowOf a) acc who
  | 0xF =>
    let off := lowOf a % 2 ^ 36
    (if s.hbmHas die off 1 then .home (hbmKey die off) none else .absent off, s)
  | _ => (.home (homeKey die (kindOf a) (lowOf a)) none, s)

/-- One more beat counted in a region counter (R217), one outside its device's RCBND too (log entry 156). -/
def State.countBeat (s : State) (die : Nat) (rci : Option Nat) : State :=
  match rci with
  | none => s
  | some r => s.bumpDreg die 2 (0x58 + 8 * r) 1

/-- What a read of a piece ends in. -/
inductive ReadRes where
  | bytes (l : List Byte) (key : Nat)
  | fault (c : PfCause) (va : Nat)
  | node (off : Nat)
  | wait
  | dead
  | bad (chunk : Nat)
  | absent (off : Nat)
  deriving DecidableEq, Repr

/-- Bytes of host memory: what was last written there, or what the host has put there itself. -/
def State.hostBytes (s : State) (key n : Nat) : List Byte :=
  (List.range n).map fun i => (Config.hostByte s.clock (key + i)).getD (memGet s.mem (key + i))

/-- A piece of memory that lies in one page, read; `cnt` says that a 64-byte beat begins with it (R217). -/
def State.aread1 (s : State) (die vd : Nat) (a : Word) (n : Nat) (acc : Access) (who : Option Nat) (cnt : Bool) : ReadRes × State :=
  let r := s.locate die vd a acc who
  match r.1 with
  | .home key rci => (.bytes (r.2.read key n) key, if cnt then r.2.countBeat die rci else r.2)
  | .host key => (.bytes (r.2.hostBytes key n) key, r.2)
  | .fault c => (.fault c a.toNat, r.2)
  | .node off => (.node off, r.2)
  | .wait => (.wait, r.2)
  | .dead => (.dead, r.2)
  | .bad c => (.bad c, r.2)
  | .absent off => (.absent off, r.2)

/-- How many of `n` bytes from an address lie in its first 64 KiB. -/
def firstPart (a : Word) (n : Nat) : Nat := min n (65536 - lowOf a % 65536)

/-- A piece of at most 64 KiB read: it meets at most two pages. -/
def State.aread (s : State) (die vd : Nat) (a : Word) (n : Nat) (acc : Access) (who : Option Nat) : ReadRes × State :=
  let p := firstPart a n
  let r := s.aread1 die vd a p acc who true
  if p = n then r
  else
    match r.1 with
    | .bytes l key =>
      let q := r.2.aread1 die vd (a + BitVec.ofNat 64 p) (n - p) acc who true
      match q.1 with
      | .bytes l' _ => (.bytes (l ++ l') key, q.2)
      | x => (x, q.2)
    | _ => r

/-- What a write of a piece ends in. -/
inductive WriteRes where
  | done
  | fault (c : PfCause) (va : Nat)
  | node (off : Nat)
  | wait
  | dead
  | bad (chunk : Nat)
  | absent (off : Nat)
  deriving DecidableEq, Repr

/-- A piece that lies in one page, written. -/
def State.awrite1 (s : State) (die vd : Nat) (a : Word) (l : List Byte) (acc : Access) (who : Option Nat) (cnt : Bool) : WriteRes × State :=
  let r := s.locate die vd a acc who
  match r.1 with
  | .home key rci => (.done, if cnt then (r.2.write key l).countBeat die rci else r.2.write key l)
  | .host key => (.done, r.2.write key l)
  | .fault c => (.fault c a.toNat, r.2)
  | .node off => (.node off, r.2)
  | .wait => (.wait, r.2)
  | .dead => (.dead, r.2)
  | .bad c => (.bad c, r.2)
  | .absent off => (.absent off, r.2)

/-- A piece of at most 64 KiB written. -/
def State.awrite (s : State) (die vd : Nat) (a : Word) (l : List Byte) (acc : Access) (who : Option Nat) : WriteRes × State :=
  let p := firstPart a l.length
  let r := s.awrite1 die vd a (l.take p) acc who true
  if p = l.length then r
  else
    match r.1 with
    | .done => r.2.awrite1 die vd (a + BitVec.ofNat 64 p) (l.drop p) acc who true
    | _ => r

/-- The range of bytes as pieces of at most 64 bytes that do not cross a 64-byte boundary. -/
def pieces (a : Word) (n : Nat) : Nat → List (Word × Nat)
  | 0 => []
  | f + 1 =>
    if n = 0 then []
    else
      let p := min n (64 - a.toNat % 64)
      (a, p) :: pieces (a + BitVec.ofNat 64 p) (n - p) f

/-- What a read that is no request at the port raises (R331). -/
def State.checkOf (s : State) (die : Nat) (who : Option Nat) (key n : Nat) : State :=
  match who with
  | some k => s.checkAt die k [(key, n)]
  | none => s

/-- A range read piece by piece; what stops a piece stops the read. -/
def State.areadAll (s : State) (die vd : Nat) (acc : Access) (who : Option Nat) : List (Word × Nat) → ReadRes × State
  | [] => (.bytes [] 0, s)
  | p :: ps =>
    let r := s.aread die vd p.1 p.2 acc who
    match r.1 with
    | .bytes l key =>
      let q := (r.2.checkOf die who key p.2).areadAll die vd acc who ps
      match q.1 with
      | .bytes l' _ => (.bytes (l ++ l') key, q.2)
      | x => (x, q.2)
    | _ => r

/-- A range read. -/
def State.areadN (s : State) (die vd : Nat) (a : Word) (n : Nat) (acc : Access) (who : Option Nat) : ReadRes × State :=
  s.areadAll die vd acc who (pieces a n (n / 64 + 2))

/-- The bytes at an address written piece by piece. -/
def State.awriteAll (s : State) (die vd : Nat) (acc : Access) (who : Option Nat) (l : List Byte) :
    List (Word × Nat) → WriteRes × State
  | [] => (.done, s)
  | p :: ps =>
    let r := s.awrite die vd p.1 (l.take p.2) acc who
    match r.1 with
    | .done => r.2.awriteAll die vd acc who (l.drop p.2) ps
    | _ => r

/-- A range written. -/
def State.awriteN (s : State) (die vd : Nat) (a : Word) (l : List Byte) (acc : Access) (who : Option Nat) : WriteRes × State :=
  s.awriteAll die vd acc who l (pieces a l.length (l.length / 64 + 2))

/-! ## Fatal table faults (R332) -/

/-- The contexts of a die whose cluster a virtual device owns and that hold a task. -/
def State.ctxsOfVd (s : State) (die vd : Nat) : List Nat :=
  (List.range 256).map (fun i => 256 * die + i) |>.filter fun k =>
    s.ownerOf die (clusOf k) == some vd && (s.ctx k).st != .free

/-- Contexts killed one after another. -/
def State.killAll (s : State) (reason : Nat) (l : List Nat) : State := l.foldl (fun t k => t.kill k reason) s

/-- TABLE_NODE: every context of the virtual device on the die is killed with reason 4, its port is dead and its walks
stop until its reset. -/
def State.tableNode (s : State) (die vd off : Nat) : State :=
  if (s.die die).deadVds.contains vd then s
  else
    let l := s.ctxsOfVd die vd
    let s1 := (s.killAll 4 l).modDie die fun d => { d with deadVds := vd :: d.deadVds }
    s1.fatal die (faultRec 0x31 die 0xFF 0xFF 0xFF vd 1 off 0 (s.cycle die) (leBytes l.length 4))

end Sys2Proof.Machine
end

