-- ==== Sys2Proof/Machine/Records.lean ====
section
/-! DEFINITION. Task records, jobs and what completions count into: the decrements of R186, the partials of R198, the
handles of R182 wherever their task is (R193, R337), and the page faults of R210 to R212. -/

namespace Sys2Proof.Machine

/-! ## Task records (R184 to R186) -/

def taskDie (t : Nat) : Nat := t / 2 ^ 24 % 16
def taskGen (t : Nat) : Nat := t / 2 ^ 12 % 2 ^ 12
def taskIdx (t : Nat) : Nat := t % 2 ^ 12

/-- The TASKID of a record (R184). -/
def taskId (die gen idx : Nat) : Nat := die * 2 ^ 24 + gen * 2 ^ 12 + idx

/-- A TASKID with a new die number. -/
def taskOn (die t : Nat) : Nat := taskId die (taskGen t) (taskIdx t)

/-- A task record. -/
def State.trec (s : State) (die idx : Nat) : Rec := tget Rec.reset (s.die die).recs idx

/-- The state with a task record replaced. -/
def State.setRec (s : State) (die idx : Nat) (r : Rec) : State :=
  s.modDie die fun d => { d with recs := tput d.recs idx r }

/-- Whether a TASKID names a record in use. -/
def State.taskLive (s : State) (t : Nat) : Bool :=
  let r := s.trec (taskDie t) (taskIdx t)
  decide (t < 2 ^ 28) && r.st != 0 && r.gen == taskGen t

/-- Whether a TASKID names a record in use of a die and a virtual device. -/
def State.taskOf (s : State) (die vd t : Nat) : Bool :=
  s.taskLive t && taskDie t == die && (s.trec die (taskIdx t)).vd == vd

/-! ## Jobs (R197 to R200) -/

/-- A job's home die. -/
def jobHome (num : Nat) : Nat := num % 16

/-- A die's entry for a job. -/
def State.job (s : State) (die num : Nat) : Option Job := (s.die die).jobs.find? fun j => j.num == num

/-- The state with a job's entry changed. -/
def State.modJob (s : State) (die num : Nat) (f : Job → Job) : State :=
  s.modDie die fun d => { d with jobs := d.jobs.map fun j => if j.num == num then f j else j }

/-- A message put on its way (R245). -/
def State.send (s : State) (src dst : Nat) (b : Body) : State := { s with wire := s.wire ++ [⟨src, dst, b⟩] }

/-- Whether a die can take an event of a job: it has an entry or room for one (R197). -/
def State.jobRoom (s : State) (die num : Nat) : Bool := (s.job die num).isSome || decide ((s.die die).jobs.length < 256)

/-- A die's entry for a job made by its first event; a die that is not the job's home tells the home die (R197). -/
def State.jobEnsure (s : State) (die vd num : Nat) : State :=
  if (s.job die num).isSome then s
  else
    let j : Job := ⟨num, vd, 0, 0, 0, false, if jobHome num = die then 2 ^ die else 0, none, 0, false⟩
    let s1 := s.modDie die fun d => { d with jobs := d.jobs ++ [j] }
    if jobHome num = die then s1 else s1.send (s.place die) (s.place (jobHome num)) (.join num die vd)

/-- A change of PART, counted in CHG (R197, R198). -/
def State.partAdd (s : State) (die vd num : Nat) (n : Int) : State :=
  (s.jobEnsure die vd num).modJob die num fun j => { j with part := j.part + n, chg := (j.chg + 1) % 2 ^ 32 }

/-- One more discard counted. -/
def State.discAdd (s : State) (die vd num : Nat) : State :=
  (s.jobEnsure die vd num).modJob die num fun j => { j with disc := (j.disc + 1) % 2 ^ 32 }

/-- Whether a job's cancel bit is set on a die (R200). -/
def State.cancelled (s : State) (die num : Nat) : Bool := match s.job die num with | some j => j.cancel | none => false

/-- A record freed; its generation stays until it is taken again. -/
def State.freeRec (s : State) (die idx : Nat) : State :=
  let r := s.trec die idx
  s.setRec die idx { Rec.reset with gen := r.gen, vd := r.vd }

/-! ## Decrements (R186) -/

/-- DEPDROP rises (R199). -/
def State.depDrop (s : State) (die : Nat) : State := s.bumpDreg die 1 0x08 1

/-- A record made ready: it waits behind those that became ready before it, at its own priority (R23). -/
def State.makeReady (s : State) (die idx : Nat) : State :=
  let d := s.die die
  let r := s.trec die idx
  (s.setRec die idx { r with st := 2, since := d.schedSeq, level := r.prio, waited := s.clock }).modDie die
    fun d => { d with schedSeq := d.schedSeq + 1 }

/-- A dependency count lowered by `n` (R186, R190): what it lacks is ignored and counted; at 0 the task is ready. -/
def State.decr (s : State) (t n : Nat) : State :=
  let die := taskDie t
  if !s.taskLive t then s.depDrop die
  else
    let r := s.trec die (taskIdx t)
    let s1 := if r.dep < n then s.depDrop die else s
    let s2 := s1.setRec die (taskIdx t) { r with dep := r.dep - n }
    if r.dep ≠ 0 ∧ r.dep ≤ n ∧ (r.st = 1 ∨ r.st = 4) then s2.makeReady die (taskIdx t) else s2

/-! ## Completions (R41, R181, R182, R193, R337) -/

/-- A completion that nobody waits for. -/
def Done.nobody : Done := ⟨4096, 2 ^ 32, none, none⟩

/-- Where the task of a completion is. -/
inductive Home where
  | ctx (k : Nat) | image (die vd : Nat) (a : Word) | himg (die idx : Nat) | gone
  deriving DecidableEq, Repr

/-- The task's context, its saved image, its suspended record, or nowhere. -/
def State.homeOf (s : State) (d : Done) : Home :=
  let c := s.ctx d.ctx
  if c.st != .free && c.task == d.task then .ctx d.ctx
  else if !s.taskLive d.task then .gone
  else
    let die := taskDie d.task
    let r := s.trec die (taskIdx d.task)
    match r.at_ with
    | .onCtx k => .ctx k
    | .saved img => .image die r.vd (BitVec.ofNat 64 img)
    | .nowhere => if r.st = 4 ∨ r.st = 2 then .himg die (taskIdx d.task) else .gone

/-- A handle's counts after a completion (R182): `dl` and `dr` local and remote completions, the bytes of a command that
ended well, and its error. -/
def Handle.count (h : Handle) (dl dr bytes err : Nat) : Handle :=
  { h with
    loc := h.loc + dl
    rem := h.rem + dr
    bytes := if err = 0 then (h.bytes + bytes) % 2 ^ 64 else h.bytes
    err := if h.err = 0 then err else h.err }

/-- A handle's 24 bytes in a context image (R335), and back. -/
def Handle.toBytes (h : Handle) : List Byte :=
  leBytes h.out 4 ++ leBytes h.loc 4 ++ leBytes h.rem 4 ++ leBytes h.err 1 ++ zeros 3 ++ leBytes h.bytes 8

def Handle.ofBytes (l : List Byte) : Handle :=
  { out := leNat (l.take 4), loc := leNat ((l.drop 4).take 4), rem := leNat ((l.drop 8).take 4)
    err := leNat ((l.drop 12).take 1), bytes := leNat ((l.drop 16).take 8) }

/-- What a change of a saved image comes to: the bytes that it found and the state after it, or a state in which it is still to
be made. -/
inductive Patch where
  | made (old : List Byte) (s : State)
  | open_ (s : State)

/-- Bytes of a saved image changed in place by the port: a read and a write of its page, which sets D (R204), and fails for good
at a table fault (R205). -/
def State.imagePatch (s : State) (die vd : Nat) (a : Word) (n : Nat) (f : List Byte → List Byte) : Patch :=
  let r := s.areadN die vd a n .none (some 4096)
  match r.1 with
  | .bytes l _ =>
    let w := r.2.awriteN die vd a (f l) .write (some 4096)
    match w.1 with
    | .done => .made l w.2
    | .node off => .open_ (s.tableNode die vd off)
    | _ => .open_ s
  | .node off => .open_ (s.tableNode die vd off)
  | _ => .open_ s

/-- Whether a suspension's condition holds (R193). -/
def suspDone (kind : Nat) (h : Handle) : Bool := if kind = 0 then h.loc == h.out else kind == 1 && h.rem == h.out

/-- A completion of a command to be counted on its handle as the cycle ends: what waits or reads in the cycle sees the counts of
its start (R183). -/
def State.count (s : State) (d : Done) (dl dr bytes err : Nat) : State :=
  if d.hnd.isNone then s else { s with counts := s.counts ++ [⟨d, dl, dr, bytes, err, false⟩] }

/-- A completion put aside until its task's image can be written. -/
def State.later (s : State) (u : CountUpd) : State := { s with counts := s.counts ++ [u] }

/-- A completion counted on its handle, wherever its task is. A suspension's condition decrements the task as it comes true, until
the task is dispatched (R186, R193; log entry 140). -/
def State.counted (s : State) (u : CountUpd) : State :=
  match u.done.hnd with
  | none => s
  | some h =>
    let d := u.done
    match s.homeOf d with
    | .ctx k => s.modCtx k fun c => c.setH h ((c.h h).count u.dl u.dr u.bytes u.err)
    | .image die vd a =>
      match s.imagePatch die vd (a + BitVec.ofNat 64 (1280 + 24 * h)) 24 fun l =>
          ((Handle.ofBytes l).count u.dl u.dr u.bytes u.err).toBytes with
      | .made _ t => t
      | .open_ t => t.later u
    | .himg die idx =>
      let r := s.trec die idx
      if r.wkind < 2 ∧ r.hnum = h then
        let h' := r.himg.count u.dl u.dr u.bytes u.err
        let s1 := s.setRec die idx { r with himg := h' }
        if suspDone r.wkind h' && !suspDone r.wkind r.himg then s1.decr d.task 1 else s1
      else s
    | .gone => s

/-- A semaphore value raised, and the SEM_OVERFLOW of a sum above 65,535 (R173). -/
def semRaise (v n : Nat) : Nat × Bool := (min 65535 (v + n), decide (65535 < v + n))

/-- A SEM_OVERFLOW record (R329). -/
def semOverflow (die cl co cx n task cyc : Nat) : List Byte := faultRec 0x30 die cl co cx n 0 0 task cyc []

/-- A completion's signal applied (R41): to the core's semaphore, or into the saved image. -/
def State.sigDone (s : State) (d : Done) : State :=
  match d.sig with
  | none => s
  | some (n, i) =>
    match s.homeOf d with
    | .ctx k => s.signal k n i
    | .image die vd a =>
      match s.imagePatch die vd (a + BitVec.ofNat 64 (1664 + 2 * n)) 2 fun l => leBytes (semRaise (leNat l) i).1 2 with
      | .open_ t => t.later ⟨d, 0, 0, 0, 0, true⟩
      | .made l t =>
        if (semRaise (leNat l) i).2 then t.nonFatal die (semOverflow die 0xFF 0xFF 0xFF n d.task (s.cycle die)) else t
    | _ => s

/-- The completions of a cycle counted, in their order. -/
def State.countsEnd (s : State) : State :=
  s.counts.foldl (fun t u => if u.sig then t.sigDone u.done else t.counted u) { s with counts := [] }

/-- A command complete in both ways at once: it is counted as the cycle ends and its signal applied. -/
def State.finish (s : State) (d : Done) (bytes err : Nat) : State := (s.count d 1 1 bytes err).sigDone d

/-- A command of the acting context counted on its handle when it is accepted: OUT rises at the end of the cycle
(R182). -/
def State.accept (s : State) (hnd : Option Nat) : State :=
  match hnd with
  | none => s
  | some h => s.push s.cur ⟨.out h, 0, fullMask, 0, 1, .c, false⟩

/-- Whether a handle's OUT cannot rise further: its command blocks (R181). -/
def Ctx.hndFull (c : Ctx) (hnd : Option Nat) : Bool :=
  match hnd with
  | none => false
  | some h => (c.h h).out == 2 ^ 32 - 1

/-! ## Page faults (R210 to R212) -/

/-- A page-fault record (R212). -/
def pfRec (kind die cl co cx cause acc va token queue vd task : Nat) : List Byte :=
  leBytes kind 2 ++ leBytes die 1 ++ leBytes cl 1 ++ leBytes co 1 ++ leBytes cx 1 ++ leBytes cause 1 ++ leBytes acc 1 ++
    leBytes va 8 ++ leBytes token 4 ++ leBytes queue 1 ++ leBytes vd 1 ++ zeros 2 ++ leBytes task 4 ++ zeros 4 ++
    leBytes 0 8 ++ zeros 24

/-- A new token that holds something, its record written or held. -/
def State.pageFault (s : State) (die : Nat) (what : Option FaultOf) (rcd : Nat → List Byte) : Nat × State :=
  let t := (s.die die).nextTok
  let s1 := s.modDie die fun d =>
    { d with nextTok := (t + 1) % 2 ^ 32, faults := match what with | some w => tput d.faults t w | none => d.faults }
  (t, s1.nonFatal die (rcd t))

/-- The record of a fault of a command of a context. -/
def ctxFault (k : Nat) (c : PfCause) (acc va queue vd task token : Nat) : List Byte :=
  pfRec 0x10 (dieOf k) (clusOf k) (coreNo k) (ctxNo k) c.code acc va token queue vd task

/-- The record of a request through the port whose walk faults: CAUSE 4 (R212). -/
def portFault (acc va vd token : Nat) : List Byte := pfRec 0x10 0xFF 0xFF 0xFF 0xFF 4 acc va token 0xFF vd 0

end Sys2Proof.Machine
end

