-- ==== Sys2Proof/Machine/Barrier.lean ====
section
/-! DEFINITION. Semaphore, barrier and handle instructions and the barrier units (R172 to R183). -/

namespace Sys2Proof.Machine

/-! ## The barrier object (R175) -/

/-- The fields of a barrier object. -/
structure Bar where
  pbytes : Nat
  exp : Nat
  pend : Nat
  early : Nat
  flags : Nat
  armHead : Nat
  armCnt : Nat
  nphase : Nat
  deriving DecidableEq, Repr

/-- The object at a home address. -/
def State.bar (s : State) (a : Nat) : Bar :=
  { pbytes := s.readNat a 8, exp := s.readNat (a + 8) 4, pend := s.readNat (a + 12) 4, early := s.readNat (a + 16) 2
    flags := s.readNat (a + 18) 1, armHead := s.readNat (a + 20) 2, armCnt := s.readNat (a + 22) 2
    nphase := s.readNat (a + 24) 8 }

/-- The 32 bytes of an object; byte 19 keeps what it holds. -/
def Bar.bytes (b : Bar) (b19 : Nat) : List Byte :=
  leBytes b.pbytes 8 ++ leBytes b.exp 4 ++ leBytes b.pend 4 ++ leBytes b.early 2 ++ leBytes b.flags 1 ++ leBytes b19 1 ++
    leBytes b.armHead 2 ++ leBytes b.armCnt 2 ++ leBytes b.nphase 8

/-- The object written in one indivisible step (R176). -/
def State.setBar (s : State) (a : Nat) (b : Bar) : State := s.write a (b.bytes (s.readNat (a + 19) 1))

/-- PHASE. -/
def Bar.phase (b : Bar) : Nat := b.flags % 2

/-- EXP as the unit reads it: 0 counts as 1 (R177). -/
def Bar.expected (b : Bar) : Nat := max 1 b.exp

/-- The die of a home address of a pad. -/
def keyDie (a : Nat) : Nat := a / 2 ^ 48 % 16

/-! ## The armed list (R177, R180) -/

/-- The records linked from `i` on, at most `n` of them, that are armed on the barrier. -/
def State.armedFrom (s : State) (die key i : Nat) : Nat → List Nat
  | 0 => []
  | n + 1 =>
    let r := s.trec die i
    if i < 4096 ∧ r.armed = some key then i :: s.armedFrom die key r.link n else []

/-- The armed tasks of an object. -/
def State.armedOf (s : State) (key : Nat) (b : Bar) : List Nat := s.armedFrom (keyDie key) key b.armHead b.armCnt

/-- A record that is no longer armed. -/
def State.disarm (s : State) (die i : Nat) : State :=
  s.setRec die i { s.trec die i with armed := none, link := 0xFFFF }

/-- Armed tasks released: each dependency count drops by 1. -/
def State.releaseArmed (s : State) (die : Nat) (l : List Nat) : State :=
  l.foldl (fun t i => (t.disarm die i).decr (taskId die (t.trec die i).gen i) 1) s

/-- Records linked one behind the other. -/
def State.relink (s : State) (die : Nat) : List Nat → State
  | [] => s
  | [i] => s.setRec die i { s.trec die i with link := 0xFFFF }
  | i :: j :: l => (s.setRec die i { s.trec die i with link := j }).relink die (j :: l)

/-- A record taken out of the armed list it is in, before it is freed; ARMHEAD and ARMCNT follow, and nothing counts in DEPDROP
(log entry 137). -/
def State.unarm (s : State) (die i : Nat) : State :=
  match (s.trec die i).armed with
  | none => s
  | some key =>
    let b := s.bar key
    let l := (s.armedOf key b).filter fun j => j != i
    let s1 := ((s.checkAt (keyDie key) 4096 [(key, 32)]).disarm die i).relink die l
    s1.setBar key { b with armHead := l.headD 0xFFFF, armCnt := l.length }

/-- A record that leaves use: out of its armed list, and free. -/
def State.endRec (s : State) (die idx : Nat) : State := (s.unarm die idx).freeRec die idx

/-- An accepted task discarded (R198, R200). -/
def State.discard (s : State) (die idx : Nat) : State :=
  let r := s.trec die idx
  ((s.endRec die idx).partAdd die r.vd r.job (-1)).discAdd die r.vd r.job

/-! ## Updates (R176 to R180) -/

/-- A phase completion (R177). -/
def State.barPhase (s : State) (a : Nat) (b : Bar) : State :=
  let l := s.armedOf a b
  let b' : Bar :=
    { b with
      flags := if b.phase = 0 then b.flags + 1 else b.flags - 1
      nphase := (b.nphase + 1) % 2 ^ 64
      armHead := 0xFFFF
      armCnt := 0
      pend := if b.expected < b.early then 0 else b.expected - b.early
      early := 0 }
  (s.setBar a b').releaseArmed (keyDie a) l

/-- Whether a phase completes. -/
def Bar.complete (b : Bar) : Bool := b.pend == 0 && b.pbytes == 0

/-- The unit's check after an update (R177): at two zeros the phase completes, and a further phase that is complete at
once is the unit's own next step. -/
def State.barCheck (s : State) (a : Nat) : State :=
  let b := s.bar a
  if b.complete then
    let s1 := s.barPhase a b
    if (s1.bar a).complete then s1.next ⟨.barrierAutoPhase, [keyDie a, a]⟩ else s1
  else s

/-- One arrival (R179). -/
def Bar.arrive (b : Bar) : Bar :=
  if 0 < b.pend then { b with pend := b.pend - 1 }
  else if b.early < b.expected ∧ b.early < 65535 then { b with early := b.early + 1 }
  else { b with flags := Nat.lor b.flags 2 }

/-- A phase that is complete with no further arrival is taken before any later update (R177). -/
def State.autoPhase (s : State) (a : Nat) : State :=
  let e : Ev := ⟨.barrierAutoPhase, [keyDie a, a]⟩
  if s.agenda.contains e then
    let t := { s with agenda := s.agenda.erase e }
    if (t.bar a).complete then t.barPhase a (t.bar a) else t
  else s

/-- Arrivals one at a time, with the check after each; a phase that follows at once is taken between them. -/
def State.arrivals (s : State) (a : Nat) : Nat → State
  | 0 => s
  | n + 1 =>
    let s1 := s.setBar a (s.bar a).arrive
    let b := s1.bar a
    let s2 := if b.complete then s1.barPhase a b else s1
    let b2 := s2.bar a
    (if b.complete && b2.complete then s2.barPhase a b2 else s2).arrivals a n

/-- One update performed on an object (R178 to R180), whose chunk the unit reads for the context that sent it (R331). BARWAIT.t puts
its task at the head of the armed list (log entry 136); one of another die's task is stale (log entry 149). -/
def State.barUpdate (s0 : State) (u : BarUpd) : State :=
  let a := u.key
  let die := keyDie a
  let s := (s0.checkAt die u.src [(a, 32)]).autoPhase a
  match u.op with
  | .init n =>
    let s1 := s.releaseArmed die (s.armedOf a (s.bar a))
    let c := if n = 0 then 1 else n
    s1.write a (leBytes 0 8 ++ leBytes c 4 ++ leBytes c 4 ++ leBytes 0 4 ++ leBytes 0xFFFF 2 ++ leBytes 0 2 ++ leBytes 0 8)
  | .arrive n => if n = 0 then s.barCheck a else s.arrivals a n
  | .expect n =>
    let b := s.bar a
    (s.setBar a { b with pbytes := (b.pbytes + n) % 2 ^ 64 }).barCheck a
  | .arm t parity =>
    let b := s.bar a
    let r := s.trec die (taskIdx t)
    (if !s.taskLive t || taskDie t != die || r.armed.isSome then s.depDrop die
     else if b.phase ≠ parity then s.decr t 1
     else
       let s1 := s.setRec die (taskIdx t) { r with armed := some a, link := if b.armCnt = 0 then 0xFFFF else b.armHead }
       s1.setBar a { b with armHead := taskIdx t, armCnt := (b.armCnt + 1) % 65536 }).barCheck a

/-- Whether an update to an object comes before what context `k` does there: it is the context's own, or it was accepted no
later than `seen`, when the context last passed a wait or issued a read, through which it may have learned of it (R176, R297 to
R299; log entry 111). -/
def BarUpd.before (v : BarUpd) (key k seen : Nat) : Bool := v.key == key && (v.src == k || decide (v.at_ ≤ seen))

/-- Whether an update of a queue may reach its unit now: none ahead of it comes before it. -/
def barMay (q : List BarUpd) (n : Nat) : Bool :=
  match q[n]? with
  | none => false
  | some u => !(q.take n).any fun v => v.before u.key u.src u.seen

/-- BARRIER_UPDATE (R176): an update that has reached its unit is performed. -/
def stepBarrierUpdate (die n : Nat) (s : State) : State :=
  let q := (s.die die).barQ
  if barMay q n then
    match q[n]? with
    | none => s
    | some u => (s.modDie die fun d => { d with barQ := q.eraseIdx n }).barUpdate u
  else s

/-- BARRIER_AUTO_PHASE (R177): a phase that is complete with no further arrival. -/
def stepBarrierAutoPhase (_die a : Nat) (s : State) : State :=
  let b := s.bar a
  if b.complete then s.barPhase a b else s

/-- The updates to an object that come before the bytes of command `id` of context `k`, performed with those ahead of them. -/
def State.barFlush (s : State) (die a k id : Nat) : State :=
  let q := (s.die die).barQ
  let l := (List.range q.length).filter fun i => match q[i]? with
    | some v => v.before a k (s.ctx k).synced && decide (v.seq ≤ id)
    | none => false
  match l.getLast? with
  | none => s
  | some i =>
    ((q.take (i + 1)).filter fun v => v.key == a).foldl (fun t u => t.barUpdate u)
      (s.modDie die fun d => { d with barQ := ((q.take (i + 1)).filter fun v => v.key != a) ++ q.drop (i + 1) })

/-- The bytes of a write of a copy subtracted from its barrier (R161). -/
def State.barBytes (s0 : State) (a n : Nat) : State :=
  let s := s0.autoPhase a
  let b := s.bar a
  (s.setBar a { b with pbytes := (b.pbytes + (2 ^ 64 - n % 2 ^ 64)) % 2 ^ 64 }).barCheck a

/-! ## Barrier instructions (R178) -/

/-- The checks of a barrier's address: R12, its kind, the die-pad bounds and its alignment. -/
def State.barTrap (s : State) (sl : Slot) (a : Word) : Option Trap :=
  match s.checkRange s.cur .copy a 1 with
  | some .privilege => some (sl.trap .privilege 0 0)
  | some c => some (sl.trap c 0 a)
  | none =>
    if kindOf a != 0x8 && kindOf a != 0x9 then some (sl.trap .addrClass 0 a)
    else if a.toNat % 32 ≠ 0 then some (sl.trap .align 0 a)
    else none

/-- The object an address of the own die names. -/
def State.barKey (s : State) (a : Word) : Nat := homeKey (dieOf s.cur) (kindOf a) (lowOf a)

/-- An update sent to the barrier unit. -/
def State.barSend (s : State) (a : Word) (op : BarOp) : State :=
  s.modDie (dieOf s.cur) fun d => { d with barQ := d.barQ ++ [⟨s.cur, s.barKey a, op, s.clock, s.bids, s.me.synced⟩] }

/-- A barrier instruction that sends an update. -/
def barOp (a : Nat) (y : Sync) (f : Ctx → BarOp) : Op :=
  { (Op.cmd .y y).atOnce y (fun s => s.barSend (s.me.s a) (f s.me)) with addr := fun s => s.barTrap .y (s.me.s a) }

def opBarinit (a b : Nat) (y : Sync) : Op := barOp a y fun c => .init ((c.s b).toNat % 2 ^ 32)
def opBararr (a b imm : Nat) (y : Sync) : Op :=
  barOp a y fun c => .arrive (if b = 0 then imm else (c.s b).toNat % 2 ^ 32)
def opBarexp (a b : Nat) (y : Sync) : Op := barOp a y fun c => .expect (c.s b).toNat
def opBarwaitT (a b c : Nat) (y : Sync) : Op := barOp a y fun x => .arm (x.s c).toNat ((x.s b).toNat % 2)

/-- BARWAIT (R180): it passes once PHASE differs from the parity and no update that comes before it is still on its way. An
address that traps does not wait. -/
def opBarwait (a b : Nat) (y : Sync) : Op :=
  { (Op.cmd .y y).atOnce y (fun s => s.checkReads s.cur [(s.barKey (s.me.s a), 32)]) with
    probe := fun s => if (s.barTrap .y (s.me.s a)).isSome then s else s.checkReads s.cur [(s.barKey (s.me.s a), 32)]
    ready := fun s => (s.barTrap .y (s.me.s a)).isSome ||
      ((s.bar (s.barKey (s.me.s a))).phase != (s.me.s b).toNat % 2 &&
        !(s.die (dieOf s.cur)).barQ.any fun v => v.before (s.barKey (s.me.s a)) s.cur s.me.synced)
    addr := fun s => s.barTrap .y (s.me.s a) }

/-! ## Semaphores (R173, R174) -/

/-- One semaphore's updates combined: the thresholds taken, the last SEMSET, the increments. -/
def semNext (v : Nat) (l : List SemUpd) (n : Nat) : Nat :=
  let w := v - l.foldl (fun t u => match u with | .sub m x => if m = n then t + x else t | _ => t) 0
  let x := l.foldl (fun t u => match u with | .set m y => if m = n then y else t | _ => t) w
  l.foldl (fun t u => match u with | .add m y => if m = n then t + y else t | _ => t) x

/-- The semaphore that an update names. -/
def SemUpd.sem : SemUpd → Nat
  | .sub n _ => n
  | .set n _ => n
  | .add n _ => n

/-- The context of a core whose run holds a semaphore. -/
def State.semHolder (s : State) (core n : Nat) : Option Nat :=
  (ctxsOf core).find? fun k =>
    let c := s.ctx k
    c.st != .free && decide (c.sbase ≤ n) && decide (n < c.slim)

/-- One semaphore at the end of a cycle. -/
def State.semEnd (s : State) (core : Nat) (l : List SemUpd) (n : Nat) : State :=
  let v := semNext ((s.core core).sem n) l n
  let s1 := s.modCore core fun c => { c with sems := tput c.sems n (min 65535 v) }
  if v ≤ 65535 then s1
  else
    let k := s.semHolder core n
    let die := core / 64
    let cx := match k with | some x => ctxNo x | none => 0xFF
    let task := match k with | some x => (s.ctx x).task | none => 0
    s1.nonFatal die (semOverflow die (core / 4 % 16) (core % 4) cx n task (s.cycle die))

/-- A core's semaphores at the end of a cycle. -/
def State.semsEnd (s : State) (core : Nat) : State :=
  let l := (s.core core).semUpd
  (nub (l.map SemUpd.sem)).foldl (fun t n => t.semEnd core l n) (s.modCore core fun c => { c with semUpd := [] })

/-- The core semaphore an instruction names. -/
def semNo (n : Nat) (gl : Bool) (c : Ctx) : Nat := if gl then n else c.sbase + n

/-- Whether a semaphore may be named: in the allotment, or with G in the run of a context of the core whose task has
the issuer's JOBID. -/
def State.semMay (s : State) (n : Nat) (gl : Bool) : Bool :=
  if gl then
    (ctxsOf (coreOf s.cur)).any fun k =>
      let c := s.ctx k
      c.st != .free && c.job == s.me.job && decide (c.sbase ≤ n) && decide (n < c.slim)
  else s.me.hasSem n

/-- An amount or a threshold: the immediate when c is s0, else s_c[15:0]. -/
def semAmount (c imm : Nat) (x : Ctx) : Nat := if c = 0 then imm else (x.s c).toNat % 65536

/-- A semaphore instruction: its range check joins that of its sync pair. -/
def semOp (n : Nat) (gl : Bool) (y : Sync) (f : State → State) : Op :=
  ((Op.cmd .y y).rangeIf fun s => !s.semMay n gl).atOnce y f

def opSemadd (n : Nat) (gl : Bool) (c imm : Nat) (y : Sync) : Op :=
  semOp n gl y fun s => s.semUpd (coreOf s.cur) (.add (semNo n gl s.me) (semAmount c imm s.me))
def opSemset (n : Nat) (gl : Bool) (c : Nat) (y : Sync) : Op :=
  semOp n gl y fun s => s.semUpd (coreOf s.cur) (.set (semNo n gl s.me) ((s.me.s c).toNat % 65536))

/-- SEMWAIT: its threshold is a wait of the bundle (R41). -/
def opSemwait (n : Nat) (gl : Bool) (c imm : Nat) (y : Sync) : Op :=
  { semOp n gl y (fun s => s) with waits := fun x => syncWaits y x ++ [(semNo n gl x, semAmount c imm x)] }

/-- SEMRD: V, delivered after 2 cycles. -/
def opSemrd (n : Nat) (gl : Bool) (c : Nat) (y : Sync) : Op :=
  { semOp n gl y (fun s => s.pushS c (BitVec.ofNat 64 ((s.core (coreOf s.cur)).sem (semNo n gl s.me))) 2 .y) with
    dests := fun _ => [.sreg c] }

/-! ## Handles (R183) -/

def opHwaitL (h : Nat) (y : Sync) : Op :=
  { (Op.cmd .y y).atOnce y (fun s => s) with ready := fun s => (s.me.h h).loc == (s.me.h h).out }
def opHwaitR (h : Nat) (y : Sync) : Op :=
  { (Op.cmd .y y).atOnce y (fun s => s) with ready := fun s => (s.me.h h).rem == (s.me.h h).out }

/-- The word HSTAT reads. -/
def Handle.stat (h : Handle) (sel : Nat) : Nat :=
  if sel = 0 then
    h.out % 65536 * 2 ^ 48 + h.loc % 65536 * 2 ^ 32 + h.rem % 65536 * 2 ^ 16 + h.err % 256 * 256
  else h.bytes

def opHstat (h c sel : Nat) (y : Sync) : Op :=
  { (Op.cmd .y y).atOnce y (fun s => s.pushS c (BitVec.ofNat 64 ((s.me.h h).stat sel)) 2 .y) with
    dests := fun _ => [.sreg c] }
def opHrel (h : Nat) (y : Sync) : Op :=
  { (Op.cmd .y y).atOnce y (fun s => s.modMe fun c => c.setH h .reset) with
    ready := fun s => (s.me.h h).rem == (s.me.h h).out }

/-- The meaning of `semadd`: it issues, blocks or traps as a bundle of its own (`opSemadd`). -/
def execSemadd (n : Nat) (gl : Bool) (c : Nat) (imm : Nat) (y : Sync) (s : State) : Host.Outcome State Fault Refusal :=
  .next (issue [opSemadd n gl c imm y] s)

/-- The meaning of `semset`: it issues, blocks or traps as a bundle of its own (`opSemset`). -/
def execSemset (n : Nat) (gl : Bool) (c : Nat) (y : Sync) (s : State) : Host.Outcome State Fault Refusal :=
  .next (issue [opSemset n gl c y] s)

/-- The meaning of `semwait`: it issues, blocks or traps as a bundle of its own (`opSemwait`). -/
def execSemwait (n : Nat) (gl : Bool) (c : Nat) (imm : Nat) (y : Sync) (s : State) : Host.Outcome State Fault Refusal :=
  .next (issue [opSemwait n gl c imm y] s)

/-- The meaning of `semrd`: it issues, blocks or traps as a bundle of its own (`opSemrd`). -/
def execSemrd (n : Nat) (gl : Bool) (c : Nat) (y : Sync) (s : State) : Host.Outcome State Fault Refusal :=
  .next (issue [opSemrd n gl c y] s)

/-- The meaning of `barinit`: it issues, blocks or traps as a bundle of its own (`opBarinit`). -/
def execBarinit (a : Nat) (b : Nat) (y : Sync) (s : State) : Host.Outcome State Fault Refusal :=
  .next (issue [opBarinit a b y] s)

/-- The meaning of `bararr`: it issues, blocks or traps as a bundle of its own (`opBararr`). -/
def execBararr (a : Nat) (b : Nat) (imm : Nat) (y : Sync) (s : State) : Host.Outcome State Fault Refusal :=
  .next (issue [opBararr a b imm y] s)

/-- The meaning of `barexp`: it issues, blocks or traps as a bundle of its own (`opBarexp`). -/
def execBarexp (a : Nat) (b : Nat) (y : Sync) (s : State) : Host.Outcome State Fault Refusal :=
  .next (issue [opBarexp a b y] s)

/-- The meaning of `barwait`: it issues, blocks or traps as a bundle of its own (`opBarwait`). -/
def execBarwait (a : Nat) (b : Nat) (y : Sync) (s : State) : Host.Outcome State Fault Refusal :=
  .next (issue [opBarwait a b y] s)

/-- The meaning of `barwaitT`: it issues, blocks or traps as a bundle of its own (`opBarwaitT`). -/
def execBarwaitT (a : Nat) (b : Nat) (c : Nat) (y : Sync) (s : State) : Host.Outcome State Fault Refusal :=
  .next (issue [opBarwaitT a b c y] s)

/-- The meaning of `hwaitL`: it issues, blocks or traps as a bundle of its own (`opHwaitL`). -/
def execHwaitL (h : Nat) (y : Sync) (s : State) : Host.Outcome State Fault Refusal :=
  .next (issue [opHwaitL h y] s)

/-- The meaning of `hwaitR`: it issues, blocks or traps as a bundle of its own (`opHwaitR`). -/
def execHwaitR (h : Nat) (y : Sync) (s : State) : Host.Outcome State Fault Refusal :=
  .next (issue [opHwaitR h y] s)

/-- The meaning of `hstat`: it issues, blocks or traps as a bundle of its own (`opHstat`). -/
def execHstat (h : Nat) (c : Nat) (sel : Nat) (y : Sync) (s : State) : Host.Outcome State Fault Refusal :=
  .next (issue [opHstat h c sel y] s)

/-- The meaning of `hrel`: it issues, blocks or traps as a bundle of its own (`opHrel`). -/
def execHrel (h : Nat) (y : Sync) (s : State) : Host.Outcome State Fault Refusal :=
  .next (issue [opHrel h y] s)

/-- The meaning of `barrierUpdate`: the step `stepBarrierUpdate` on the operands that the state holds. -/
def execBarrierUpdate (s : State) : Host.Outcome State Fault Refusal :=
  .next (stepBarrierUpdate (s.arg 0) (s.arg 1) s)

/-- The meaning of `barrierAutoPhase`: the step `stepBarrierAutoPhase` on the operands that the state holds. -/
def execBarrierAutoPhase (s : State) : Host.Outcome State Fault Refusal :=
  .next (stepBarrierAutoPhase (s.arg 0) (s.arg 1) s)


end Sys2Proof.Machine
end

