-- ==== Sys2Proof/WellFormed.lean ====
section
/-! DEFINITION. Which operations a bundle's slot words can hold: every field within its bits and its instruction's rules
(R32 to R45). The seventy-nine events have no encoding and are well-formed as they stand. -/

namespace Sys2Proof

open Sys2Proof.Machine

/-- A register number of six bits (R34). -/
def r6 (n : Nat) : Bool := decide (n < 64)

/-- A row number of ten bits (R35). -/
def r10 (n : Nat) : Bool := decide (n < 1024)

/-- A predicate that exists (R34). -/
def rk (n : Nat) : Bool := decide (n < 12)

/-- A guard names k0 to k11 (R32). -/
def Guard.wf (g : Guard) : Bool := rk g.k

/-- A signed value of `n` bits. -/
def sfits (n : Nat) (i : Int) : Bool := decide (-(2 ^ (n - 1) : Int) ≤ i) && decide (i < 2 ^ (n - 1))

/-- The consistency of a sync pair (R40). -/
def Sync.wf (y : Sync) : Bool :=
  decide (y.wsem < 256) && decide (y.wthr < 256) && decide (y.ssem < 256) && decide (y.sinc < 16) &&
    (decide (y.wthr ≠ 0) || decide (y.wsem = 0)) && (decide (y.sinc ≠ 0) || (decide (y.ssem = 0) && !y.spt))

/-- I and F of R100. -/
def tyIF (t : Ty) : Bool := t.isInt || t.isF

/-- B of R100. -/
def tyB (t : Ty) : Bool := t != .e2m1

/-- The types of VDOT4. -/
def tyDot4 (t : Ty) : Bool := t == .i8 || t == .n8 || t == .e4m3 || t == .e5m2

/-- The types of VDOT2. -/
def tyDot2 (t : Ty) : Bool := t == .i16 || t == .n16 || t == .bf16 || t == .f16

/-- The types of VTOP2: integers of 16 bits and more, and F. -/
def tyTop2 (t : Ty) : Bool := (t.isInt && decide (2 ≤ t.bytes)) || t.isF

/-- .f32, .bf16 and .f16. -/
def tyQ (t : Ty) : Bool := t == .f32 || t == .bf16 || t == .f16

/-- .i32, .n32 and .f32. -/
def ty32 (t : Ty) : Bool := t == .i32 || t == .n32 || t == .f32

/-- The 32- and 64-bit integers. -/
def tyW (t : Ty) : Bool := t.isInt && decide (4 ≤ t.bytes)

/-- .f32 and .f64. -/
def tyFF (t : Ty) : Bool := t == .f32 || t == .f64

/-- Whether VCVT accepts a pair of types (R111). -/
def cvtPair (d s : Ty) : Bool :=
  d != s && ((d != .e2m1 && s != .e2m1) ||
    (d == .e2m1 && (s == .e4m3 || s == .e5m2 || s == .bf16 || s == .f16 || s == .f32)) ||
    (s == .e2m1 && (d == .e4m3 || d == .e5m2 || d == .bf16 || d == .f16 || d == .f32)))

/-- The ratio of the widths of a pair (R112). -/
def cvtParts (d s : Ty) : Nat := max d.bits s.bits / min d.bits s.bits

/-- Whether VCVT accepts m = 1 with a destination type (R112). -/
def cvtSat (d : Ty) : Bool := d == .e5m2 || d.isF

/-- The parts of VQUANT's element form and of its scale form (R118). -/
def quantParts (t : Ty) (scale : Bool) : Nat := if scale then 2048 / t.lanes else 512 / t.lanes

/-- The types of CAMO by its operation (R168). -/
def camoTy (op : AmoOp) (t : Ty) : Bool :=
  match op with
  | .add | .min | .max => tyW t
  | .and | .or | .xchg | .cas => t.isInt
  | .fadd => tyFF t

/-- The types of XACC by its operation (R250). -/
def xaccTy (op : AccOp) (t : Ty) : Bool :=
  match op with
  | .add | .min | .max => t == .i32 || t == .i64 || t == .bf16 || t == .f32 || t == .f64
  | .and | .or | .xor => t == .i32 || t == .i64

/-- The types of XAMO by its operation (R250). -/
def xamoTy (op : AmoOp) (t : Ty) : Bool :=
  match op with
  | .fadd => tyFF t
  | _ => tyW t

/-- The wire types of XRED by its operation (R288). -/
def xredTy (op : RedOp) (t : Ty) : Bool :=
  match op with
  | .addSat => t == .i32
  | _ => t == .i32 || t == .e4m3 || t == .e5m2 || t == .bf16 || t == .f16 || t == .f32 || t == .f64

/-- XR with three registers. -/
def wXr3 (d a b : Nat) (g : Guard) : Bool := r6 d && r6 a && r6 b && g.wf

/-- XR with two registers. -/
def wXr2 (d a : Nat) (g : Guard) : Bool := r6 d && r6 a && g.wf

/-- XI. -/
def wXi (d a : Nat) (imm : Int) : Bool := r6 d && r6 a && sfits 13 imm

/-- XI with a shift count. -/
def wXsh (d a n : Nat) : Bool := r6 d && r6 a && decide (n < 64)

/-- Three predicates. -/
def wK3 (d a b : Nat) (g : Guard) : Bool := rk d && rk a && rk b && g.wf

/-- Three rows and a type. -/
def wV3 (ok : Ty → Bool) (t : Ty) (d a b : Nat) (g : Guard) : Bool := ok t && r10 d && r10 a && r10 b && g.wf

/-- Two rows and a type. -/
def wV2 (ok : Ty → Bool) (t : Ty) (d a : Nat) (g : Guard) : Bool := ok t && r10 d && r10 a && g.wf

/-- m = 1 only with the types that give it a meaning. -/
def mOk (ok : Ty → Bool) (t : Ty) (m : Bool) : Bool := !m || ok t

/-- A predicate, two rows and a type. -/
def wVc (t : Ty) (kd a b : Nat) (g : Guard) : Bool := tyIF t && rk kd && r10 a && r10 b && g.wf

/-- The immediate shifts. -/
def wVsh (t : Ty) (d a n : Nat) (g : Guard) : Bool := wV2 Ty.isInt t d a g && decide (n < t.bits)

/-- The fields of an L or S operation; `idx` says whether the index is used. -/
def wLs (data : Bool) (idx : Bool) (x : LSArgs) : Bool :=
  data && r6 x.base && (if idx then r6 x.idx else decide (x.idx = 0)) && x.g.wf && sfits 21 x.off &&
    (x.ord || x.scope == .ctx)

/-- LDG and STS: the offset field holds the index row. -/
def wGs (t : Ty) (d vx : Nat) (x : LSArgs) : Bool :=
  ty32 t && r10 vx && decide (x.off = 0) && wLs (r10 d) false x

/-- LDVH and STVH: a multiple of 64, bit 0 of the field being the half. -/
def wHalf (t : Ty) (d : Nat) (x : LSArgs) : Bool := tyB t && decide (x.off % 64 = 0) && wLs (r10 d) true x

/-- The fields of a local copy command. -/
def wCp (a b c e : Nat) (x : CopyArgs) : Bool :=
  r6 a && r6 b && r6 c && r6 e && decide (x.q < 4) && r6 x.bar && x.y.wf

/-- A handle of four bits. -/
def wH : Option Nat → Bool
  | none => true
  | some h => decide (h < 16)

/-- The fields of a remote command. -/
def wRc (a b c e : Nat) (x : XArgs) : Bool :=
  r6 a && r6 b && r6 c && r6 e && wH x.hnd && decide (x.flow < 16) && decide (x.tc < 4) && x.y.wf

/-- A commit of the matrix engine (R136). -/
def wMma (tile : Nat) (src : FmtSrc) (e : Nat) (y : Sync) : Bool :=
  decide (tile < 16) && decide (e < 16) && (src == .entry || decide (e = 0)) && y.wf

/-- The semaphore forms with an amount (R174): in the register, or 1 to 63 in the immediate. -/
def wSemImm (n c imm : Nat) (y : Sync) : Bool :=
  decide (n < 256) && r6 c && decide (imm < 64) && (if c = 0 then decide (imm ≠ 0) else decide (imm = 0)) && y.wf

/-- Two scalar registers. -/
def w2 (a b : Nat) (y : Sync) : Bool := r6 a && r6 b && y.wf

/-- Three scalar registers. -/
def w3 (a b c : Nat) (y : Sync) : Bool := r6 a && r6 b && r6 c && y.wf

/-- A window index and a register. -/
def wW (w c : Nat) (y : Sync) : Bool := decide (w < 256) && r6 c && y.wf

/-- A CTXSV or CTXLD. -/
def wImg (q a b e : Nat) (y : Sync) : Bool := decide (q < 4) && r6 a && r6 b && r6 e && y.wf

/-- Whether an instruction can stand in a slot word as it is written. -/
def Instr.wf : Instr → Bool
  | .add d a b g | .sub d a b g | .mul d a b g | .mulh d a b g | .mulhn d a b g | .div d a b g | .divn d a b g
  | .rem d a b g | .remn d a b g | .and d a b g | .or d a b g | .xor d a b g | .shl d a b g | .shr d a b g
  | .sra d a b g | .min d a b g | .minn d a b g | .max d a b g | .maxn d a b g | .sel d a b g | .cmpeq d a b g
  | .cmpne d a b g | .cmplt d a b g | .cmple d a b g | .cmpltn d a b g | .cmplen d a b g => wXr3 d a b g
  | .addsh d a b n g => wXr3 d a b g && decide (1 ≤ n) && decide (n ≤ 4)
  | .clz d a g | .popc d a g => wXr2 d a g
  | .sext d a w g | .zext d a w g => wXr2 d a g && decide (w < 3)
  | .addi d a i | .andi d a i | .ori d a i | .xori d a i | .cmpeqi d a i | .cmplti d a i | .cmpltni d a i => wXi d a i
  | .shli d a n | .shri d a n | .srai d a n => wXsh d a n
  | .sethi d i => r6 d && sfits 19 i
  | .kand d a b g | .kandn d a b g | .kor d a b g | .kxor d a b g => wK3 d a b g
  | .knot d a g | .kmov d a g => rk d && rk a && g.wf
  | .kmovB d sr g | .kmovLo d sr g => rk d && r6 sr && g.wf
  | .krd sr a q g => r6 sr && rk a && decide (q < 4) && g.wf
  | .kfirst sr a g => r6 sr && rk a && g.wf
  | .br g off | .call g off | .lbrk g off => g.wf && sfits 20 off
  | .jmp g off => g.wf && decide (off < 2 ^ 20)
  | .jr a g | .ret a g => r6 a && g.wf
  | .callr d a g => wXr2 d a g
  | .loop lc n fin => decide (lc < 2) && r6 n && decide (fin < 2 ^ 18)
  | .mfs d n => r6 d && decide (n < 8192)
  | .mts a n => r6 a && decide (n < 8192)
  | .trapi code => decide (code < 8192)
  | .tfence g => g.wf
  | .eret => true
  | .nop e _ => decide (1 ≤ e) && decide (e < 16)
  | .vadd t d a b g m | .vsub t d a b g m | .vmul t d a b g m | .vfma t d a b g m | .vfms t d a b g m =>
    wV3 tyIF t d a b g && mOk Ty.isInt t m
  | .vmin t d a b g m | .vmax t d a b g m => wV3 tyIF t d a b g && mOk Ty.isF t m
  | .vabs t d a g m => wV2 tyIF t d a g && mOk Ty.isSigned t m
  | .vneg t d a g m => wV2 tyIF t d a g && mOk Ty.isInt t m
  | .vdot4 t d a b g m => wV3 tyDot4 t d a b g && mOk Ty.isInt t m
  | .vdot2 t d a b g m => wV3 tyDot2 t d a b g && mOk Ty.isInt t m
  | .vand t d a b g | .vor t d a b g | .vxor t d a b g | .vshl t d a b g | .vshr t d a b g | .vsra t d a b g =>
    wV3 Ty.isInt t d a b g
  | .vnot t d a g => wV2 Ty.isInt t d a g
  | .vshlImm t d a n g | .vshrImm t d a n g | .vsraImm t d a n g => wVsh t d a n g
  | .vcmpeq t kd a b g | .vcmpne t kd a b g | .vcmplt t kd a b g | .vcmple t kd a b g => wVc t kd a b g
  | .vsel t d a b g => wV3 tyB t d a b g
  | .vmov t d a g => wV2 tyB t d a g
  | .vbcast t d a c g => wV2 tyB t d a g && decide (c < t.lanes)
  | .vbcastScalar t d sa g => tyB t && r10 d && r6 sa && g.wf
  | .vlaneInsert t d sa c g => tyB t && r10 d && r6 sa && decide (c < t.lanes) && g.wf
  | .vlaneExtract t sd a c g => tyB t && r6 sd && r10 a && decide (c < t.lanes) && g.wf
  | .vperm t d a b g _ => wV3 tyB t d a b g
  | .vrot t d a c g _ => wV2 tyB t d a g && decide (c < t.lanes)
  | .vcvt dty sty _ p d a g m => cvtPair dty sty && decide (p < cvtParts dty sty) && r10 d && r10 a && g.wf && mOk cvtSat dty m
  | .vscl t d a b g => wV3 Ty.isF t d a b g
  | .vredadd t d a g m | .vscan t d a _ g m => wV2 tyIF t d a g && mOk Ty.isInt t m
  | .vredmax t d a g m | .vredmin t d a g m => wV2 tyIF t d a g && mOk Ty.isF t m
  | .vcnt t d a g | .vcntLz t d a g => wV2 Ty.isInt t d a g
  | .vtop2 t d a g => wV2 tyTop2 t d a g
  | .vquant t d a p g => wV2 tyQ t d a g && decide (p < quantParts t false)
  | .vquantScale t d a p g => wV2 tyQ t d a g && decide (p < quantParts t true)
  | .vdeq t d a b g => wV3 tyQ t d a b g
  | .vcor t _ n d a g => wV2 tyQ t d a g && decide (4 ≤ n) && decide (n ≤ 28)
  | .mcfg _ sr y => r6 sr && y.wf
  | .mcfgi _ imm y => decide (imm < 65536) && y.wf
  | .mma tile src e _ y | .mmas tile src e _ y | .mmac tile src e _ y => wMma tile src e y
  | .mzero tile y => decide (tile < 16) && y.wf
  | .mrestart off y => sfits 23 off && y.wf
  | .mrestartOff y | .mshad y => y.wf
  | .mkeep mask y | .mdrop mask y => decide (mask < 65536) && y.wf
  | .mfmt src e sr y => decide (e < 16) && (src == .entry || decide (e = 0)) && r6 sr && y.wf
  | .ld t d x | .st t d x => t.isInt && wLs (r6 d) true x
  | .ldv t d x | .stv t d x => tyB t && wLs (r10 d) true x
  | .ldvh t _ d x | .stvh t _ d x => wHalf t d x
  | .ldk d x | .stk d x => wLs (rk d) true x
  | .ldg t d vx x | .sts t d vx x => wGs t d vx x
  | .aadd t d x | .amin t d x | .amax t d x | .aand t d x | .aor t d x | .axch t d x | .acas t d x =>
    tyW t && wLs (r6 d) true x
  | .afadd t d x => tyFF t && wLs (r6 d) true x
  | .fenceAcq _ | .fenceRel _ | .fenceAr _ => true
  | .tmov a b c e x | .tmov2 a b c e x | .tgath a b c e x | .tscat a b c e x | .tfill a b c e x => wCp a b c e x
  | .tmcast a b c e mask x => wCp a b c e x && decide (0 < mask) && decide (mask < 16)
  | .camo op t a b c e x => wCp a b c e x && camoTy op t
  | .qjoin mask y => decide (0 < mask) && decide (mask < 16) && y.wf
  | .migr a b c tier hnd y => r6 a && r6 b && r6 c && decide (tier < 3) && wH hnd && y.wf
  | .tlbinv a b y => w2 a b y
  | .tlbinvAll y => y.wf
  | .dirty a b c y | .dirtyKeep a b c y => w3 a b c y
  | .semadd n _ c imm y | .semwait n _ c imm y => wSemImm n c imm y
  | .semset n _ c y | .semrd n _ c y => decide (n < 256) && r6 c && y.wf
  | .barinit a b y | .barexp a b y | .barwait a b y => w2 a b y
  | .bararr a b imm y => r6 a && r6 b && decide (imm < 64) && (if b = 0 then decide (imm ≠ 0) else decide (imm = 0)) && y.wf
  | .barwaitT a b c y => w3 a b c y
  | .hwaitL h y | .hwaitR h y | .hrel h y => decide (h < 16) && y.wf
  | .hstat h c sl y => decide (h < 16) && r6 c && decide (sl < 2) && y.wf
  | .tspawn c a y => w2 c a y
  | .tspawnR c a b y => w3 a b c y
  | .tdep a imm y => r6 a && decide (0 < imm) && decide (imm < 64) && y.wf
  | .tsuspL h a b y | .tsuspR h a b y => decide (h < 16) && w2 a b y
  | .tsuspM c a b y => w3 a b c y
  | .texit y => y.wf
  | .tmatch a b c y | .tmatchS a b c y => w3 a b c y
  | .tcancel a y => r6 a && y.wf
  | .tjobq c a y => w2 c a y
  | .vwnew c b y => w2 c b y
  | .vwdup c a b y => w3 a b c y
  | .vwnar a b y => w2 a b y
  | .vwdrop a y => r6 a && y.wf
  | .vwq c a sl y => w2 c a y && decide (sl < 3)
  | .vwsync y => y.wf
  | .wcreate w c a y => wW w c y && r6 a
  | .wfree w y => decide (w < 256) && y.wf
  | .wfence w c y | .wfenceClose w c y | .wpost w c y | .wstart w c y | .wcompl w c y | .wwait w c y
  | .wlockSh w c y | .wlockEx w c y | .wunlock w c y => wW w c y
  | .xget a b c e x => wRc a b c e x
  | .xput a b c e tag x | .xputRel a b c e tag x => wRc a b c e x && decide (tag < 4096)
  | .xacc op t a b c e tag x => wRc a b c e x && decide (tag < 4096) && xaccTy op t
  | .xamo op t a b c e x => wRc a b c e x && xamoTy op t
  | .flowcfg a b y => w2 a b y
  | .csend q a b x => wRc a b 0 0 x && decide (q < 4)
  | .crecv c a y | .cret c a y => w2 c a y
  | .xred op t a b c tag x => wRc a b c 0 x && decide (x.flow = 0) && decide (tag < 4096) && xredTy op t
  | .preempt a c y => w2 a c y
  | .preemptSelf y => y.wf
  | .ctxsv q a b e y | .ctxsvUpad q a b e y | .ctxsvCpad q a b e y | .ctxld q a b e y | .ctxldUpad q a b e y
  | .ctxldCpad q a b e y => wImg q a b e y
  | .acfg _ a y => r6 a && y.wf
  | .ago a b hnd y => w2 a b y && wH hnd
  | .aq c sl y => r6 c && decide (sl < 2) && y.wf
  | .event a b code y => w2 a b y && decide (code < 64)
  | .shadnWrite | .resultWriteback | .lateAccessPerform | .agingDue | .matrixStart | .matrixComplete | .shadowRecord
  | .copyComplete | .pageWalk | .fltreplay | .frpush | .trgWrite | .migrationMove | .rcntDecay | .barrierUpdate
  | .barrierAutoPhase | .remoteSpawnArrival | .spawnAckArrival | .tdepArrival | .cancelArrival | .tjobqAnswer
  | .jobJoinNotice | .jobWave | .jobDoneNotice | .taskDispatch | .taskPriorityRise | .chordDeltaApply | .fenceAnnounce
  | .wfenceComplete | .postArrival | .completeArrival | .lockRequestArrival | .lockReleaseArrival | .lockGrantArrival
  | .lockRetry | .remoteRequest | .remoteAck | .getDataLand | .flowRetry | .portArbitration | .vdcapWindow | .placeDown
  | .placeUp | .csendSend | .cretPermitSend | .permitArrival | .chanStall | .chaudit | .auditMark | .auditBack
  | .auditTimeout | .reduceResultArrival | .reduceTimeout | .reduceKeyAbort | .preemptStop | .preemptTimeoutKill
  | .killFinish | .machineCheck | .faultRecordDrain | .fqtail | .apexStart | .apexEnd | .eventDeliver | .launch
  | .resetContext | .resetCore | .resetCluster | .resetVd | .resetDie | .resetPackage | .chantabWrite | .vdfreeze
  | .vdexport | .vdimport | .attgo | .attestQuoteDone | .powerOn | .registerWrite | .releaseAcknowledgement => true

end Sys2Proof
end

