-- ==== Sys2Proof/Decode.lean ====
section
/-! DEFINITION. The decoder of slot words (R34 to R45), total on any bits and rejecting by name, and the encoder written
from the same layouts. Within a slot the checks come in the order of R45: opcode and sub-op, reserved and unused fields,
guard, type, then the predicate numbers that no context has. -/

namespace Sys2Proof

open Sys2Proof.Machine

/-- Why a slot word is no operation (R44). -/
inductive Reject where
  | illegalOpcode | illegalBundle | illegalType | regRange
  deriving DecidableEq, Repr

/-- What a slot word decodes to. -/
abbrev Dec := Except Reject Instr

/-- The kinds of word: a header with an empty mask, the seven slot kinds (VA and VB decode alike, R27), and the events,
which have no word. -/
inductive WordKind where
  | hdr | x | v | m | l | s | c | y | event
  deriving DecidableEq, Repr

/-! ## Fields -/

/-- Bits hi down to lo of a word. -/
def fld (w hi lo : Nat) : Nat := w / 2 ^ lo % 2 ^ (hi + 1 - lo)

/-- An `n`-bit two's-complement field's value. -/
def sfld (n v : Nat) : Int := if v < 2 ^ (n - 1) then (v : Int) else (v : Int) - 2 ^ n

/-- The `n`-bit field of a signed value. -/
def ofS (n : Nat) (i : Int) : Nat := (i % 2 ^ n).toNat

/-- A guard field (R32). -/
def guardOf (v : Nat) : Guard := ⟨decide (16 ≤ v), v % 16⟩

/-- A check that comes before what follows it. -/
def chk (ok : Bool) (r : Reject) (k : Dec) : Dec := if ok then k else .error r

/-- A guard's check, and what follows. -/
def chkG (v : Nat) (k : Guard → Dec) : Dec := if v % 16 < 12 then k (guardOf v) else .error .illegalBundle

/-- A type's check, and what follows. -/
def chkT (ok : Ty → Bool) (v : Nat) (k : Ty → Dec) : Dec :=
  match Ty.ofCode v with
  | some t => if ok t then k t else .error .illegalType
  | none => .error .illegalType

/-- A predicate number's check. -/
def chkK (v : Nat) (k : Dec) : Dec := if v < 12 then k else .error .regRange

/-- A bit as a number. -/
def bit (b : Bool) : Nat := if b then 1 else 0

/-! ## The X slot (R34) -/

def xd (w : Nat) : Nat := fld w 24 19
def xa (w : Nat) : Nat := fld w 18 13
def xb (w : Nat) : Nat := fld w 12 7
def xg (w : Nat) : Nat := fld w 6 2
def xsub (w : Nat) : Nat := fld w 1 0
def ximm (w : Nat) : Int := sfld 13 (fld w 12 0)
def pkd (w : Nat) : Nat := fld w 24 21
def pka (w : Nat) : Nat := fld w 20 17
def pkb (w : Nat) : Nat := fld w 16 13

/-- XR with d, a, b and sub-op 0. -/
def dXr3 (w : Nat) (f : Nat → Nat → Nat → Guard → Instr) : Dec :=
  chk (xsub w == 0) .illegalOpcode <| chkG (xg w) fun g => .ok (f (xd w) (xa w) (xb w) g)

/-- XR with d and a. -/
def dXr2 (w : Nat) (f : Nat → Nat → Guard → Instr) : Dec :=
  chk (xsub w == 0) .illegalOpcode <| chk (xb w == 0) .illegalBundle <| chkG (xg w) fun g => .ok (f (xd w) (xa w) g)

/-- SEXT and ZEXT. -/
def dExt (w : Nat) (f : Nat → Nat → Nat → Guard → Instr) : Dec :=
  chk (xsub w != 3) .illegalOpcode <| chk (xb w == 0) .illegalBundle <|
    chkG (xg w) fun g => .ok (f (xd w) (xa w) (xsub w) g)

/-- XI. -/
def dXi (w : Nat) (f : Nat → Nat → Int → Instr) : Dec := .ok (f (xd w) (xa w) (ximm w))

/-- The immediate shifts (R86). -/
def dXsh (w : Nat) (f : Nat → Nat → Nat → Instr) : Dec :=
  chk (fld w 12 6 == 0) .illegalBundle <| .ok (f (xd w) (xa w) (fld w 5 0))

/-- The predicate form with three predicates. -/
def dK3 (w : Nat) (f : Nat → Nat → Nat → Guard → Instr) : Dec :=
  chk (xb w == 0) .illegalBundle <| chkG (xg w) fun g => chkK (pkd w) <| chkK (pka w) <| chkK (pkb w) <|
    .ok (f (pkd w) (pka w) (pkb w) g)

/-- The predicate form with two predicates. -/
def dK2 (w : Nat) (f : Nat → Nat → Guard → Instr) : Dec :=
  chk (xb w == 0 && pkb w == 0) .illegalBundle <| chkG (xg w) fun g => chkK (pkd w) <| chkK (pka w) <|
    .ok (f (pkd w) (pka w) g)

/-- A predicate from a scalar. -/
def dKs (w : Nat) (f : Nat → Nat → Guard → Instr) : Dec :=
  chk (pka w == 0 && pkb w == 0) .illegalBundle <| chkG (xg w) fun g => chkK (pkd w) <| .ok (f (pkd w) (xb w) g)

/-- A scalar from a predicate. -/
def dSk (w : Nat) (f : Nat → Nat → Guard → Instr) : Dec :=
  chk (pkd w == 0 && pkb w == 0) .illegalBundle <| chkG (xg w) fun g => chkK (pka w) <| .ok (f (xb w) (pka w) g)

/-- XB with a signed offset. -/
def dXb (w : Nat) (f : Guard → Int → Instr) : Dec := chkG (fld w 24 20) fun g => .ok (f g (sfld 20 (fld w 19 0)))

/-- JR and RET. -/
def dJr (w : Nat) (f : Nat → Guard → Instr) : Dec :=
  chk (xsub w == 0) .illegalOpcode <| chk (xd w == 0 && xb w == 0) .illegalBundle <| chkG (xg w) fun g => .ok (f (xa w) g)

/-- An X-slot word. -/
def decodeX (w : Nat) : Dec :=
  match w / 2 ^ 25 with
  | 0x01 => dXr3 w .add
  | 0x02 => dXr3 w .sub
  | 0x03 => dXr3 w .mul
  | 0x04 => dXr3 w .mulh
  | 0x05 => dXr3 w .mulhn
  | 0x06 => dXr3 w .div
  | 0x07 => dXr3 w .divn
  | 0x08 => dXr3 w .rem
  | 0x09 => dXr3 w .remn
  | 0x0A => dXr3 w .and
  | 0x0B => dXr3 w .or
  | 0x0C => dXr3 w .xor
  | 0x0D => dXr3 w .shl
  | 0x0E => dXr3 w .shr
  | 0x0F => dXr3 w .sra
  | 0x10 => dXr3 w .min
  | 0x11 => dXr3 w .minn
  | 0x12 => dXr3 w .max
  | 0x13 => dXr3 w .maxn
  | 0x14 => chkG (xg w) fun g => .ok (.addsh (xd w) (xa w) (xb w) (xsub w + 1) g)
  | 0x15 => dXr3 w .sel
  | 0x16 => dXr2 w .clz
  | 0x17 => dXr2 w .popc
  | 0x18 => dExt w .sext
  | 0x19 => dExt w .zext
  | 0x1A => dXr3 w .cmpeq
  | 0x1B => dXr3 w .cmpne
  | 0x1C => dXr3 w .cmplt
  | 0x1D => dXr3 w .cmple
  | 0x1E => dXr3 w .cmpltn
  | 0x1F => dXr3 w .cmplen
  | 0x20 => dXi w .addi
  | 0x21 => dXi w .andi
  | 0x22 => dXi w .ori
  | 0x23 => dXi w .xori
  | 0x24 => dXsh w .shli
  | 0x25 => dXsh w .shri
  | 0x26 => dXsh w .srai
  | 0x27 => dXi w .cmpeqi
  | 0x28 => dXi w .cmplti
  | 0x29 => dXi w .cmpltni
  | 0x2A => .ok (.sethi (xd w) (sfld 19 (fld w 18 0)))
  | 0x30 =>
    match xsub w with
    | 0 => dK3 w .kand
    | 1 => dK3 w .kandn
    | _ => .error .illegalOpcode
  | 0x31 => chk (xsub w == 0) .illegalOpcode <| dK3 w .kor
  | 0x32 => chk (xsub w == 0) .illegalOpcode <| dK3 w .kxor
  | 0x33 => chk (xsub w == 0) .illegalOpcode <| dK2 w .knot
  | 0x34 =>
    match xsub w with
    | 0 => dK2 w .kmov
    | 1 => dKs w .kmovB
    | 2 => dKs w .kmovLo
    | _ => .error .illegalOpcode
  | 0x35 => dSk w fun d a g => .krd d a (xsub w) g
  | 0x36 => chk (xsub w == 0) .illegalOpcode <| dSk w .kfirst
  | 0x40 => dXb w .br
  | 0x41 => chkG (fld w 24 20) fun g => .ok (.jmp g (fld w 19 0))
  | 0x42 => dJr w .jr
  | 0x43 => dXb w .call
  | 0x44 => dXr2 w .callr
  | 0x45 => dJr w .ret
  | 0x46 => .ok (.loop (fld w 24 24) (fld w 23 18) (fld w 17 0))
  | 0x47 => dXb w .lbrk
  | 0x50 =>
    if xa w = 0 then .ok (.mfs (xd w) (fld w 12 0))
    else .error (if specKnown (fld w 12 0) then .illegalBundle else .illegalOpcode)
  | 0x51 =>
    if xd w = 0 then .ok (.mts (xa w) (fld w 12 0))
    else .error (if specWritable (fld w 12 0) then .illegalBundle else .illegalOpcode)
  | 0x52 => chk (xd w == 0 && xa w == 0) .illegalBundle <| .ok (.trapi (fld w 12 0))
  | 0x53 =>
    chk (xsub w == 0) .illegalOpcode <| chk (xd w == 0 && xa w == 0 && xb w == 0) .illegalBundle <|
      chkG (xg w) fun g => .ok (.tfence g)
  | 0x54 => chk (xsub w == 0) .illegalOpcode <| chk (fld w 24 2 == 0) .illegalBundle <| .ok .eret
  | _ => .error .illegalOpcode

/-! ## The V slot (R35, R100) -/

def vt (w : Nat) : Nat := fld w 39 36
def vd (w : Nat) : Nat := fld w 35 26
def va (w : Nat) : Nat := fld w 25 16
def vb (w : Nat) : Nat := fld w 15 6
def vg (w : Nat) : Nat := fld w 5 1
def vm (w : Nat) : Bool := fld w 0 0 == 1

/-- Whether a type code names a type of a set. -/
def tyIn (ok : Ty → Bool) (v : Nat) : Bool := match Ty.ofCode v with | some t => ok t | none => false

/-- The guard, then the type. -/
def dGT (w : Nat) (ok : Ty → Bool) (k : Ty → Guard → Dec) : Dec := chkG (vg w) fun g => chkT ok (vt w) fun t => k t g

/-- A check that depends on the type, made only when the type is one the operation supports: what is out of range for
no type is left to the type check. -/
def chkTd (ok : Ty → Bool) (v : Nat) (p : Ty → Bool) (k : Dec) : Dec :=
  match Ty.ofCode v with
  | some t => if ok t && !p t then .error .illegalBundle else k
  | none => k

/-- Three rows with m free for a set of types. -/
def dV3m (w : Nat) (mset ok : Ty → Bool) (f : Ty → Nat → Nat → Nat → Guard → Bool → Instr) : Dec :=
  chk (!vm w || tyIn mset (vt w)) .illegalBundle <| dGT w ok fun t g => .ok (f t (vd w) (va w) (vb w) g (vm w))

/-- Two rows with m free for a set of types. -/
def dV2m (w : Nat) (mset ok : Ty → Bool) (f : Ty → Nat → Nat → Guard → Bool → Instr) : Dec :=
  chk ((!vm w || tyIn mset (vt w)) && vb w == 0) .illegalBundle <| dGT w ok fun t g => .ok (f t (vd w) (va w) g (vm w))

/-- Three rows without m. -/
def dV3 (w : Nat) (ok : Ty → Bool) (f : Ty → Nat → Nat → Nat → Guard → Instr) : Dec :=
  chk (!vm w) .illegalBundle <| dGT w ok fun t g => .ok (f t (vd w) (va w) (vb w) g)

/-- Two rows without m. -/
def dV2 (w : Nat) (ok : Ty → Bool) (f : Ty → Nat → Nat → Guard → Instr) : Dec :=
  chk (!vm w && vb w == 0) .illegalBundle <| dGT w ok fun t g => .ok (f t (vd w) (va w) g)

/-- The shifts: by a row, or by a count below the lane's width. -/
def dVsh (w : Nat) (f : Ty → Nat → Nat → Nat → Guard → Instr) (fi : Ty → Nat → Nat → Nat → Guard → Instr) : Dec :=
  if vm w then
    chk (fld w 15 12 == 0) .illegalBundle <| chkTd Ty.isInt (vt w) (fun t => decide (fld w 11 6 < t.bits)) <|
      dGT w Ty.isInt fun t g => .ok (fi t (vd w) (va w) (fld w 11 6) g)
  else dGT w Ty.isInt fun t g => .ok (f t (vd w) (va w) (vb w) g)

/-- The compares: kd in d[3:0]. -/
def dVc (w : Nat) (f : Ty → Nat → Nat → Nat → Guard → Instr) : Dec :=
  chk (!vm w && fld w 35 30 == 0) .illegalBundle <| dGT w tyIF fun t g => chkK (fld w 29 26) <|
    .ok (f t (fld w 29 26) (va w) (vb w) g)

/-- A lane index below the row's lane count. -/
def dLane (w : Nat) (k : Dec) : Dec := chkTd tyB (vt w) (fun t => decide (vb w < t.lanes)) k

/-- VCVT (R111, R112). -/
def dVcvt (w : Nat) : Dec :=
  let dt := Ty.ofCode (vt w)
  let st := Ty.ofCode (fld w 15 12)
  chk (!vm w || tyIn cvtSat (vt w)) .illegalBundle <|
    chk (match dt, st with
      | some x, some y => !cvtPair x y || decide (fld w 8 6 < cvtParts x y)
      | _, _ => true) .illegalBundle <|
    chkG (vg w) fun g =>
      match dt, st, Rnd.ofCode (fld w 11 9) with
      | some x, some y, some r =>
        if cvtPair x y then .ok (.vcvt x y r (fld w 8 6) (vd w) (va w) g (vm w)) else .error .illegalType
      | _, _, _ => .error .illegalType

/-- The VCOR functions (R35). -/
def corOf : Nat → Option CorFn
  | 0 => some .sin | 1 => some .cos | 2 => some .atan2 | 3 => some .exp | 4 => some .ln | 5 => some .sqrt
  | 6 => some .div | 7 => some .tanh | 8 => some .sigm | 9 => some .silu | _ => none

/-- The code of a VCOR function. -/
def corCode : CorFn → Nat
  | .sin => 0 | .cos => 1 | .atan2 => 2 | .exp => 3 | .ln => 4 | .sqrt => 5 | .div => 6 | .tanh => 7 | .sigm => 8
  | .silu => 9

/-- VCOR. -/
def dVcor (w : Nat) : Dec :=
  match corOf (fld w 15 12) with
  | none => .error .illegalOpcode
  | some f =>
    chk (!vm w && decide (4 ≤ fld w 11 6) && decide (fld w 11 6 ≤ 28)) .illegalBundle <|
      dGT w tyQ fun t g => .ok (.vcor t f (fld w 11 6) (vd w) (va w) g)

/-- A V-slot word. -/
def decodeV (w : Nat) : Dec :=
  match w / 2 ^ 40 with
  | 0x01 => dV3m w Ty.isInt tyIF .vadd
  | 0x02 => dV3m w Ty.isInt tyIF .vsub
  | 0x03 => dV3m w Ty.isInt tyIF .vmul
  | 0x04 => dV3m w Ty.isInt tyIF .vfma
  | 0x05 => dV3m w Ty.isInt tyIF .vfms
  | 0x06 => dV3m w Ty.isF tyIF .vmin
  | 0x07 => dV3m w Ty.isF tyIF .vmax
  | 0x08 => dV2m w Ty.isSigned tyIF .vabs
  | 0x09 => dV2m w Ty.isInt tyIF .vneg
  | 0x0A => dV3m w (fun t => t == .i8 || t == .n8) tyDot4 .vdot4
  | 0x0B => dV3m w (fun t => t == .i16 || t == .n16) tyDot2 .vdot2
  | 0x0C => dV3 w Ty.isInt .vand
  | 0x0D => dV3 w Ty.isInt .vor
  | 0x0E => dV3 w Ty.isInt .vxor
  | 0x0F => dV2 w Ty.isInt .vnot
  | 0x10 => dVsh w .vshl .vshlImm
  | 0x11 => dVsh w .vshr .vshrImm
  | 0x12 => dVsh w .vsra .vsraImm
  | 0x13 => dVc w .vcmpeq
  | 0x14 => dVc w .vcmpne
  | 0x15 => dVc w .vcmplt
  | 0x16 => dVc w .vcmple
  | 0x17 => dV3 w tyB .vsel
  | 0x18 => dV2 w tyB .vmov
  | 0x19 =>
    if vm w then
      chk (fld w 25 22 == 0 && vb w == 0) .illegalBundle <|
        dGT w tyB fun t g => .ok (.vbcastScalar t (vd w) (fld w 21 16) g)
    else dLane w <| dGT w tyB fun t g => .ok (.vbcast t (vd w) (va w) (vb w) g)
  | 0x1A =>
    if vm w then
      chk (fld w 35 32 == 0) .illegalBundle <| dLane w <|
        dGT w tyB fun t g => .ok (.vlaneExtract t (fld w 31 26) (va w) (vb w) g)
    else
      chk (fld w 25 22 == 0) .illegalBundle <| dLane w <|
        dGT w tyB fun t g => .ok (.vlaneInsert t (vd w) (fld w 21 16) (vb w) g)
  | 0x1B => dGT w tyB fun t g => .ok (.vperm t (vd w) (va w) (vb w) g (vm w))
  | 0x1C => dLane w <| dGT w tyB fun t g => .ok (.vrot t (vd w) (va w) (vb w) g (vm w))
  | 0x1D => dVcvt w
  | 0x1E => dV3 w Ty.isF .vscl
  | 0x1F => dV2m w Ty.isInt tyIF .vredadd
  | 0x20 => dV2m w Ty.isF tyIF .vredmax
  | 0x21 => dV2m w Ty.isF tyIF .vredmin
  | 0x22 =>
    chk (fld w 15 7 == 0 && (!vm w || tyIn Ty.isInt (vt w))) .illegalBundle <|
      dGT w tyIF fun t g => .ok (.vscan t (vd w) (va w) (fld w 6 6 == 1) g (vm w))
  | 0x23 =>
    chk (vb w == 0) .illegalBundle <| dGT w Ty.isInt fun t g =>
      .ok (if vm w then .vcntLz t (vd w) (va w) g else .vcnt t (vd w) (va w) g)
  | 0x24 => dV2 w tyTop2 .vtop2
  | 0x25 =>
    chk (fld w 15 11 == 0) .illegalBundle <|
      chkTd tyQ (vt w) (fun t => decide (fld w 10 6 < quantParts t (vm w))) <| dGT w tyQ fun t g =>
        .ok (if vm w then .vquantScale t (vd w) (va w) (fld w 10 6) g else .vquant t (vd w) (va w) (fld w 10 6) g)
  | 0x26 => dV3 w tyQ .vdeq
  | 0x27 => dVcor w
  | _ => .error .illegalOpcode

/-! ## The sync pair (R40) -/

/-- The sync pair of a word's low 32 bits. -/
def syncOf (w : Nat) : Sync := ⟨fld w 31 24, fld w 23 16, fld w 15 8, fld w 7 4, fld w 3 3 == 1⟩

/-- Whether a sync pair's bits are consistent and its reserved ones zero. -/
def syncOk (w : Nat) : Bool :=
  fld w 2 0 == 0 && (fld w 23 16 != 0 || fld w 31 24 == 0) &&
    (fld w 7 4 != 0 || (fld w 15 8 == 0 && fld w 3 3 == 0))

/-- The bits of a sync pair. -/
def syncBits (y : Sync) : Nat :=
  y.wsem * 2 ^ 24 + y.wthr * 2 ^ 16 + y.ssem * 2 ^ 8 + y.sinc * 2 ^ 4 + bit y.spt * 2 ^ 3

/-- The unused fields and the sync pair, checked together, and what follows. -/
def chkY (ok : Bool) (w : Nat) (i : Instr) : Dec := if ok && syncOk w then .ok i else .error .illegalBundle

/-! ## The M slot (R37, R127, R136 to R141) -/

/-- The MCFG field codes (R37). -/
def mfOf : Nat → Option MField
  | 1 => some .aaddr | 2 => some .baddr | 3 => some .maddr | 4 => some .saddr | 5 => some .k | 6 => some .astr
  | 7 => some .bstr | 8 => some .banda | 9 => some .bandb | _ => none

/-- The code of an MCFG field. -/
def mfCode : MField → Nat
  | .aaddr => 1 | .baddr => 2 | .maddr => 3 | .saddr => 4 | .k => 5 | .astr => 6 | .bstr => 7 | .banda => 8 | .bandb => 9

/-- The format sources (R37). -/
def srcOf : Nat → Option FmtSrc
  | 0 => some .entry | 1 => some .lc0 | 2 => some .lc1 | _ => none

/-- The code of a format source. -/
def srcCode : FmtSrc → Nat
  | .entry => 0 | .lc0 => 1 | .lc1 => 2

/-- MMA, MMAS and MMAC. -/
def dMma (w : Nat) (f : Nat → FmtSrc → Nat → Bool → Sync → Instr) : Dec :=
  match srcOf (fld w 51 50) with
  | none => .error .illegalBundle
  | some src =>
    chkY (fld w 44 32 == 0 && (src == .entry || fld w 49 46 == 0)) w
      (f (fld w 55 52) src (fld w 49 46) (fld w 45 45 == 1) (syncOf w))

/-- An M-slot word. -/
def decodeM (w : Nat) : Dec :=
  match w / 2 ^ 56 with
  | 0x01 =>
    match mfOf (fld w 55 48) with
    | none => .error .illegalBundle
    | some f => chkY (fld w 47 38 == 0) w (.mcfg f (fld w 37 32) (syncOf w))
  | 0x02 =>
    match mfOf (fld w 55 48) with
    | none => .error .illegalBundle
    | some f => chkY true w (.mcfgi f (fld w 47 32) (syncOf w))
  | 0x03 => dMma w .mma
  | 0x04 => dMma w .mmas
  | 0x05 => dMma w .mmac
  | 0x06 => chkY (fld w 51 32 == 0) w (.mzero (fld w 55 52) (syncOf w))
  | 0x07 =>
    if fld w 55 55 = 1 then chkY true w (.mrestart (sfld 23 (fld w 54 32)) (syncOf w))
    else chkY (fld w 54 32 == 0) w (.mrestartOff (syncOf w))
  | 0x08 => chkY (fld w 55 48 == 0) w (.mkeep (fld w 47 32) (syncOf w))
  | 0x09 => chkY (fld w 55 48 == 0) w (.mdrop (fld w 47 32) (syncOf w))
  | 0x0A =>
    match srcOf (fld w 51 50) with
    | none => .error .illegalBundle
    | some src =>
      chkY (fld w 55 52 == 0 && fld w 45 38 == 0 && (src == .entry || fld w 49 46 == 0)) w
        (.mfmt src (fld w 49 46) (fld w 37 32) (syncOf w))
  | 0x0B => chkY (fld w 55 32 == 0) w (.mshad (syncOf w))
  | _ => .error .illegalOpcode

/-! ## The L and S slots (R36, R149, R153, R154, R300) -/

/-- The scopes (R36). -/
def scopeOf : Nat → Option Scope
  | 0 => some .ctx | 1 => some .core | 2 => some .cl | 3 => some .die | 4 => some .pkg | 5 => some .sys | _ => none

/-- The code of a scope. -/
def scopeCode : Scope → Nat
  | .ctx => 0 | .core => 1 | .cl => 2 | .die => 3 | .pkg => 4 | .sys => 5

def lsBase (w : Nat) : Nat := fld w 55 50
def lsData (w : Nat) : Nat := fld w 49 40
def lsG (w : Nat) : Nat := fld w 39 35
def lsT (w : Nat) : Nat := fld w 34 31
def lsIdx (w : Nat) : Nat := fld w 26 21

/-- The scope, the ordering bit and other reserved fields, the guard, then the type, and what follows. -/
def dLs (w : Nat) (ok : Bool) (ty : Ty → Bool) (idx : Nat) (off : Int) (k : Ty → LSArgs → Dec) : Dec :=
  match scopeOf (fld w 29 27) with
  | none => .error .illegalBundle
  | some sc =>
    chk (ok && (fld w 30 30 == 1 || sc == .ctx)) .illegalBundle <|
      chkG (lsG w) fun g => chkT ty (lsT w) fun t => k t ⟨lsBase w, idx, off, g, fld w 30 30 == 1, sc⟩

/-- A scalar data field. -/
def dScal (w : Nat) (ty : Ty → Bool) (f : Ty → Nat → LSArgs → Instr) : Dec :=
  dLs w (fld w 49 46 == 0) ty (lsIdx w) (sfld 21 (fld w 20 0)) fun t x => .ok (f t (fld w 45 40) x)

/-- A row. -/
def dRow (w : Nat) (f : Ty → Nat → LSArgs → Instr) : Dec :=
  dLs w true tyB (lsIdx w) (sfld 21 (fld w 20 0)) fun t x => .ok (f t (lsData w) x)

/-- Half a row: offset[0] chooses it and is cleared. -/
def dHalf (w : Nat) (f : Ty → Bool → Nat → LSArgs → Instr) : Dec :=
  dLs w (fld w 5 1 == 0) tyB (lsIdx w) (sfld 21 (fld w 20 6 * 64)) fun t x => .ok (f t (fld w 0 0 == 1) (lsData w) x)

/-- A predicate: the type field is unused, so that any value there but 0 is a nonzero unused field: ILLEGAL_BUNDLE and not
ILLEGAL_TYPE (log entry 119). -/
def dPred (w : Nat) (f : Nat → LSArgs → Instr) : Dec :=
  dLs w (fld w 49 44 == 0 && lsT w == 0) (fun _ => true) (lsIdx w) (sfld 21 (fld w 20 0)) fun _ x =>
    chkK (fld w 43 40) <| .ok (f (fld w 43 40) x)

/-- A gather or scatter. -/
def dGs (w : Nat) (f : Ty → Nat → Nat → LSArgs → Instr) : Dec :=
  dLs w (lsIdx w == 0 && fld w 10 0 == 0) ty32 0 0 fun t x => .ok (f t (lsData w) (fld w 20 11) x)

/-- An L-slot word. -/
def decodeL (w : Nat) : Dec :=
  match w / 2 ^ 56 with
  | 0x01 => dScal w Ty.isInt .ld
  | 0x02 => dRow w .ldv
  | 0x03 => dHalf w .ldvh
  | 0x04 => dPred w .ldk
  | 0x05 => dGs w .ldg
  | _ => .error .illegalOpcode

/-- FENCE (R36): a kind and a scope alone. -/
def dFence (w : Nat) : Dec :=
  let k := fld w 34 31
  if k = 0 ∨ 3 < k then .error .illegalOpcode
  else
    match scopeOf (fld w 29 27) with
    | none => .error .illegalBundle
    | some sc =>
      chk (fld w 55 35 == 0 && fld w 30 30 == 0 && fld w 26 0 == 0) .illegalBundle <|
        .ok (if k = 1 then .fenceAcq sc else if k = 2 then .fenceRel sc else .fenceAr sc)

/-- An S-slot word. -/
def decodeS (w : Nat) : Dec :=
  match w / 2 ^ 56 with
  | 0x01 => dScal w Ty.isInt .st
  | 0x02 => dRow w .stv
  | 0x03 => dHalf w .stvh
  | 0x04 => dPred w .stk
  | 0x05 => dGs w .sts
  | 0x06 => dScal w tyW .aadd
  | 0x07 => dScal w tyW .amin
  | 0x08 => dScal w tyW .amax
  | 0x09 => dScal w tyW .aand
  | 0x0A => dScal w tyW .aor
  | 0x0B => dScal w tyW .axch
  | 0x0C => dScal w tyW .acas
  | 0x0D => dScal w tyFF .afadd
  | 0x0E => dFence w
  | _ => .error .illegalOpcode

/-! ## The C slot (R38, R157, R221, R250, R278, R288, R336, R343) -/

def ca (w : Nat) : Nat := fld w 87 82
def cb (w : Nat) : Nat := fld w 81 76
def cc (w : Nat) : Nat := fld w 75 70
def ce (w : Nat) : Nat := fld w 69 64
def cq (w : Nat) : Nat := fld w 63 62

/-- The handle, when HV is set. -/
def hndOf (w : Nat) : Option Nat := if fld w 32 32 = 1 then some (fld w 61 58) else none

/-- With HV clear the handle field is zero. -/
def hndOk (w : Nat) : Bool := fld w 32 32 == 1 || fld w 61 58 == 0

/-- The fields of a local copy. -/
def cpArgs (w : Nat) : CopyArgs := ⟨cq w, fld w 51 46, syncOf w⟩

/-- The handle, flow, traffic class and HV, zero in the local copies. -/
def cpZero (w : Nat) : Bool := fld w 61 52 == 0 && fld w 35 32 == 0

/-- A local copy with no sub-op and no mask. -/
def dCp (w : Nat) (f : Nat → Nat → Nat → Nat → CopyArgs → Instr) : Dec :=
  chkY (cpZero w && fld w 45 40 == 0 && fld w 39 36 == 0) w (f (ca w) (cb w) (cc w) (ce w) (cpArgs w))

/-- The atomic operations by code. -/
def amoOf : Nat → Option AmoOp
  | 0 => some .add | 1 => some .min | 2 => some .max | 3 => some .and | 4 => some .or | 5 => some .xchg
  | 6 => some .cas | 7 => some .fadd | _ => none

/-- The code of an atomic operation. -/
def amoCode : AmoOp → Nat
  | .add => 0 | .min => 1 | .max => 2 | .and => 3 | .or => 4 | .xchg => 5 | .cas => 6 | .fadd => 7

/-- CAMO. -/
def dCamo (w : Nat) : Dec :=
  match amoOf (fld w 45 40) with
  | none => .error .illegalOpcode
  | some op =>
    chk (cpZero w && syncOk w) .illegalBundle <| chkT (camoTy op) (fld w 39 36) fun t =>
      .ok (.camo op t (ca w) (cb w) (cc w) (ce w) (cpArgs w))

/-- The fields of a remote command. -/
def xArgs (w : Nat) : XArgs := ⟨hndOf w, fld w 57 54, fld w 53 52, syncOf w⟩

/-- The reserved fields of a remote command, with others. -/
def rcOk (w : Nat) (more : Bool) : Bool := cq w == 0 && hndOk w && more && syncOk w

/-- The accumulate operations by code. -/
def accOf : Nat → Option AccOp
  | 0 => some .add | 1 => some .min | 2 => some .max | 3 => some .and | 4 => some .or | 5 => some .xor | _ => none

/-- The code of an accumulate operation. -/
def accCode : AccOp → Nat
  | .add => 0 | .min => 1 | .max => 2 | .and => 3 | .or => 4 | .xor => 5

/-- The reductions by code. -/
def redOf : Nat → Option RedOp
  | 0 => some .add | 1 => some .min | 2 => some .max | 3 => some .addSat | _ => none

/-- The code of a reduction. -/
def redCode : RedOp → Nat
  | .add => 0 | .min => 1 | .max => 2 | .addSat => 3

/-- XACC. -/
def dXacc (w : Nat) : Dec :=
  match accOf (fld w 39 37) with
  | none => .error .illegalOpcode
  | some op =>
    chk (rcOk w true) .illegalBundle <| chkT (xaccTy op) (fld w 36 33) fun t =>
      .ok (.xacc op t (ca w) (cb w) (cc w) (ce w) (fld w 51 40) (xArgs w))

/-- XAMO. -/
def dXamo (w : Nat) : Dec :=
  match amoOf (fld w 39 37) with
  | none => .error .illegalOpcode
  | some op =>
    chk (rcOk w (fld w 51 40 == 0)) .illegalBundle <| chkT (xamoTy op) (fld w 36 33) fun t =>
      .ok (.xamo op t (ca w) (cb w) (cc w) (ce w) (xArgs w))

/-- XRED. -/
def dXred (w : Nat) : Dec :=
  match redOf (fld w 39 37) with
  | none => .error .illegalOpcode
  | some op =>
    chk (rcOk w (ce w == 0 && fld w 57 54 == 0)) .illegalBundle <| chkT (xredTy op) (fld w 36 33) fun t =>
      .ok (.xred op t (ca w) (cb w) (cc w) (fld w 51 40) (xArgs w))

/-- CTXSV and CTXLD. -/
def dImg (w : Nat) (f0 f1 f2 : Nat → Nat → Nat → Nat → Sync → Instr) : Dec :=
  let k := fld w 45 40
  chk (decide (k < 3)) .illegalOpcode <|
    chkY (cc w == 0 && fld w 61 52 == 0 && fld w 51 46 == 0 && fld w 39 32 == 0) w
      ((if k = 0 then f0 else if k = 1 then f1 else f2) (cq w) (ca w) (cb w) (ce w) (syncOf w))

/-- A C-slot word. -/
def decodeC (w : Nat) : Dec :=
  match w / 2 ^ 88 with
  | 0x01 => dCp w .tmov
  | 0x02 => dCp w .tmov2
  | 0x03 =>
    chkY (cpZero w && fld w 45 40 == 0 && fld w 39 36 != 0) w
      (.tmcast (ca w) (cb w) (cc w) (ce w) (fld w 39 36) (cpArgs w))
  | 0x04 => dCp w .tgath
  | 0x05 => dCp w .tscat
  | 0x06 => dCp w .tfill
  | 0x07 => dCamo w
  | 0x08 =>
    chkY (fld w 87 44 == 0 && fld w 39 32 == 0 && fld w 43 40 != 0) w (.qjoin (fld w 43 40) (syncOf w))
  | 0x09 =>
    chkY (rcOk w (fld w 51 40 == 0 && fld w 39 33 == 0)) w (.xget (ca w) (cb w) (cc w) (ce w) (xArgs w))
  | 0x0A =>
    chkY (rcOk w (fld w 39 34 == 0)) w
      (if fld w 33 33 = 1 then .xputRel (ca w) (cb w) (cc w) (ce w) (fld w 51 40) (xArgs w)
       else .xput (ca w) (cb w) (cc w) (ce w) (fld w 51 40) (xArgs w))
  | 0x0B => dXacc w
  | 0x0C => dXamo w
  | 0x0D => dXred w
  | 0x0E =>
    chkY (hndOk w && cc w == 0 && ce w == 0 && fld w 51 33 == 0) w (.csend (cq w) (ca w) (cb w) (xArgs w))
  | 0x0F =>
    chkY (hndOk w && fld w 75 62 == 0 && fld w 57 33 == 0) w (.ago (ca w) (cb w) (hndOf w) (syncOf w))
  | 0x10 =>
    chkY (hndOk w && fld w 69 62 == 0 && fld w 57 42 == 0 && fld w 41 40 != 3 && fld w 39 33 == 0) w
      (.migr (ca w) (cb w) (cc w) (fld w 41 40) (hndOf w) (syncOf w))
  | 0x11 => dImg w .ctxsv .ctxsvUpad .ctxsvCpad
  | 0x12 => dImg w .ctxld .ctxldUpad .ctxldCpad
  | _ => .error .illegalOpcode

/-! ## The Y slot (R39, R174 to R200, R222, R223, R237, R247, R271, R280, R281, R333, R341, R350, R357) -/

def ya (w : Nat) : Nat := fld w 55 50
def yb (w : Nat) : Nat := fld w 49 44
def yc (w : Nat) : Nat := fld w 43 38
def yi (w : Nat) : Nat := fld w 37 32

/-- The semaphore layout (R174): the semaphore, G, c and the immediate. -/
def ysem (w : Nat) : Nat := fld w 55 48
def yg (w : Nat) : Bool := fld w 47 47 == 1

/-- SEMADD and SEMWAIT. -/
def dSemImm (w : Nat) (f : Nat → Bool → Nat → Nat → Sync → Instr) : Dec :=
  chkY (fld w 46 44 == 0 && (if yc w = 0 then yi w != 0 else yi w == 0)) w (f (ysem w) (yg w) (yc w) (yi w) (syncOf w))

/-- SEMSET and SEMRD. -/
def dSem (w : Nat) (f : Nat → Bool → Nat → Sync → Instr) : Dec :=
  chkY (fld w 46 44 == 0 && yi w == 0) w (f (ysem w) (yg w) (yc w) (syncOf w))

/-- Registers a and b alone. -/
def dAb (w : Nat) (f : Nat → Nat → Sync → Instr) : Dec :=
  chkY (yc w == 0 && yi w == 0) w (f (ya w) (yb w) (syncOf w))

/-- Register a alone. -/
def dA (w : Nat) (f : Nat → Sync → Instr) : Dec :=
  chkY (yb w == 0 && yc w == 0 && yi w == 0) w (f (ya w) (syncOf w))

/-- Registers c and a alone. -/
def dCa (w : Nat) (f : Nat → Nat → Sync → Instr) : Dec :=
  chkY (yb w == 0 && yi w == 0) w (f (yc w) (ya w) (syncOf w))

/-- Two forms told apart by imm6[0], the rest of imm6 zero. -/
def dFlag (w : Nat) (ok0 ok1 : Bool) (i0 i1 : Instr) : Dec :=
  chkY (fld w 37 33 == 0 && (if yi w = 0 then ok0 else ok1)) w (if yi w = 0 then i0 else i1)

/-- TSUSP (R191). -/
def dTsusp (w : Nat) : Dec :=
  match fld w 33 32 with
  | 0 => chkY (yc w == 0) w (.tsuspL (fld w 37 34) (ya w) (yb w) (syncOf w))
  | 1 => chkY (yc w == 0) w (.tsuspR (fld w 37 34) (ya w) (yb w) (syncOf w))
  | 2 => chkY (fld w 37 34 == 0) w (.tsuspM (yc w) (ya w) (yb w) (syncOf w))
  | _ => .error .illegalBundle

/-- The window layout (R247): the window, c and the immediate. -/
def dW (w : Nat) (f : Nat → Nat → Sync → Instr) : Dec :=
  chkY (fld w 47 44 == 0 && yi w == 0) w (f (ysem w) (yc w) (syncOf w))

/-- The window forms with a flag. -/
def dWf (w : Nat) (f0 f1 : Nat → Nat → Sync → Instr) : Dec :=
  dFlag w (fld w 47 44 == 0) (fld w 47 44 == 0) (f0 (ysem w) (yc w) (syncOf w)) (f1 (ysem w) (yc w) (syncOf w))

/-- The auction fields (R341). -/
def afOf : Nat → Option AField
  | 1 => some .aeps | 2 => some .arounds | 3 => some .aphases | 4 => some .adiv | 5 => some .ainit | _ => none

/-- The code of an auction field. -/
def afCode : AField → Nat
  | .aeps => 1 | .arounds => 2 | .aphases => 3 | .adiv => 4 | .ainit => 5

/-- A Y-slot word. -/
def decodeY (w : Nat) : Dec :=
  match w / 2 ^ 56 with
  | 0x01 => dSemImm w .semadd
  | 0x02 => dSem w .semset
  | 0x03 => dSemImm w .semwait
  | 0x04 => dSem w .semrd
  | 0x05 => dAb w .barinit
  | 0x06 =>
    chkY (yc w == 0 && (if yb w = 0 then yi w != 0 else yi w == 0)) w (.bararr (ya w) (yb w) (yi w) (syncOf w))
  | 0x07 => dAb w .barexp
  | 0x08 =>
    dFlag w (yc w == 0) true (.barwait (ya w) (yb w) (syncOf w)) (.barwaitT (ya w) (yb w) (yc w) (syncOf w))
  | 0x09 =>
    let ok := fld w 55 54 == 0 && fld w 49 38 == 0
    dFlag w ok ok (.hwaitL (fld w 53 50) (syncOf w)) (.hwaitR (fld w 53 50) (syncOf w))
  | 0x0A =>
    chkY (fld w 55 54 == 0 && yb w == 0 && decide (yi w < 2)) w (.hstat (fld w 53 50) (yc w) (yi w) (syncOf w))
  | 0x0B => chkY (fld w 55 54 == 0 && fld w 49 32 == 0) w (.hrel (fld w 53 50) (syncOf w))
  | 0x0C =>
    dFlag w (yb w == 0) true (.tspawn (yc w) (ya w) (syncOf w)) (.tspawnR (yc w) (ya w) (yb w) (syncOf w))
  | 0x0D => chkY (yb w == 0 && yc w == 0 && yi w != 0) w (.tdep (ya w) (yi w) (syncOf w))
  | 0x0E => dTsusp w
  | 0x0F => chkY (fld w 55 32 == 0) w (.texit (syncOf w))
  | 0x10 =>
    dFlag w true true (.tmatch (ya w) (yb w) (yc w) (syncOf w)) (.tmatchS (ya w) (yb w) (yc w) (syncOf w))
  | 0x11 => dA w .tcancel
  | 0x12 => dCa w .tjobq
  | 0x13 => chkY (fld w 47 44 == 0) w (.wcreate (ysem w) (yc w) (yi w) (syncOf w))
  | 0x14 => chkY (fld w 47 32 == 0) w (.wfree (ysem w) (syncOf w))
  | 0x15 => dWf w .wfence .wfenceClose
  | 0x16 => dW w .wpost
  | 0x17 => dW w .wstart
  | 0x18 => dW w .wcompl
  | 0x19 => dW w .wwait
  | 0x1A => dWf w .wlockSh .wlockEx
  | 0x1B => dW w .wunlock
  | 0x1C => dCa w .crecv
  | 0x1D => dCa w .cret
  | 0x1E => chkY (ya w == 0 && yi w == 0) w (.vwnew (yc w) (yb w) (syncOf w))
  | 0x1F => chkY (yi w == 0) w (.vwdup (yc w) (ya w) (yb w) (syncOf w))
  | 0x20 => dAb w .vwnar
  | 0x21 => dA w .vwdrop
  | 0x22 => chkY (yb w == 0 && decide (yi w < 3)) w (.vwq (yc w) (ya w) (yi w) (syncOf w))
  | 0x23 => chkY (fld w 55 32 == 0) w (.vwsync (syncOf w))
  | 0x24 => dAb w .flowcfg
  | 0x25 =>
    match afOf (yi w) with
    | none => .error .illegalBundle
    | some f => chkY (yb w == 0 && yc w == 0) w (.acfg f (ya w) (syncOf w))
  | 0x26 => chkY (ya w == 0 && yb w == 0 && decide (yi w < 2)) w (.aq (yc w) (yi w) (syncOf w))
  | 0x27 => chkY (yc w == 0) w (.event (ya w) (yb w) (yi w) (syncOf w))
  | 0x28 =>
    dFlag w true true (.dirty (ya w) (yb w) (yc w) (syncOf w)) (.dirtyKeep (ya w) (yb w) (yc w) (syncOf w))
  | 0x29 =>
    dFlag w (yc w == 0) (fld w 55 38 == 0) (.tlbinv (ya w) (yb w) (syncOf w)) (.tlbinvAll (syncOf w))
  | 0x2A =>
    dFlag w (yb w == 0) (fld w 55 38 == 0) (.preempt (ya w) (yc w) (syncOf w)) (.preemptSelf (syncOf w))
  | _ => .error .illegalOpcode

/-! ## Headers -/

/-- A header word with an empty mask (R25, R28). -/
def decodeHdr (w : Nat) : Dec :=
  chk (fld w 31 24 == 0) .illegalOpcode <|
    chk (fld w 18 0 == 0 && fld w 23 20 != 0) .illegalBundle <| .ok (.nop (fld w 23 20) (fld w 19 19 == 1))

/-- A word of a kind. -/
def decode : WordKind → Nat → Dec
  | .hdr, w => decodeHdr w
  | .x, w => decodeX w
  | .v, w => decodeV w
  | .m, w => decodeM w
  | .l, w => decodeL w
  | .s, w => decodeS w
  | .c, w => decodeC w
  | .y, w => decodeY w
  | .event, _ => .error .illegalOpcode

/-- The width of a word of a kind in bits (R25, R26). -/
def WordKind.bits : WordKind → Nat
  | .hdr | .x => 32
  | .v => 48
  | .m | .l | .s | .y => 64
  | .c => 96
  | .event => 0

/-! ## The encoder -/

/-- A guard's bits. -/
def gBits (g : Guard) : Nat := bit g.neg * 16 + g.k

def eXr (op d a b : Nat) (g : Guard) (sub : Nat) : Nat :=
  op * 2 ^ 25 + d * 2 ^ 19 + a * 2 ^ 13 + b * 2 ^ 7 + gBits g * 2 ^ 2 + sub
def eXi (op d a : Nat) (imm : Int) : Nat := op * 2 ^ 25 + d * 2 ^ 19 + a * 2 ^ 13 + ofS 13 imm
def eXn (op d a n : Nat) : Nat := op * 2 ^ 25 + d * 2 ^ 19 + a * 2 ^ 13 + n
def eP (op kd ka kb sr : Nat) (g : Guard) (sub : Nat) : Nat :=
  op * 2 ^ 25 + kd * 2 ^ 21 + ka * 2 ^ 17 + kb * 2 ^ 13 + sr * 2 ^ 7 + gBits g * 2 ^ 2 + sub
def eXb (op : Nat) (g : Guard) (off : Nat) : Nat := op * 2 ^ 25 + gBits g * 2 ^ 20 + off
def eV (op ty d a b : Nat) (g : Guard) (m : Bool) : Nat :=
  op * 2 ^ 40 + ty * 2 ^ 36 + d * 2 ^ 26 + a * 2 ^ 16 + b * 2 ^ 6 + gBits g * 2 + bit m
def eMma (op tile : Nat) (src : FmtSrc) (e : Nat) (acc : Bool) (y : Sync) : Nat :=
  op * 2 ^ 56 + tile * 2 ^ 52 + srcCode src * 2 ^ 50 + e * 2 ^ 46 + bit acc * 2 ^ 45 + syncBits y
def eM (op hi lo : Nat) (y : Sync) : Nat := op * 2 ^ 56 + hi * 2 ^ 48 + lo * 2 ^ 32 + syncBits y
def eLs (op data ty : Nat) (x : LSArgs) (off : Nat) : Nat :=
  op * 2 ^ 56 + x.base * 2 ^ 50 + data * 2 ^ 40 + gBits x.g * 2 ^ 35 + ty * 2 ^ 31 + bit x.ord * 2 ^ 30 +
    scopeCode x.scope * 2 ^ 27 + x.idx * 2 ^ 21 + off
def eFence (kind : Nat) (sc : Scope) : Nat := 0x0E * 2 ^ 56 + kind * 2 ^ 31 + scopeCode sc * 2 ^ 27
def eC (op a b c e q : Nat) (mid : Nat) (y : Sync) : Nat :=
  op * 2 ^ 88 + a * 2 ^ 82 + b * 2 ^ 76 + c * 2 ^ 70 + e * 2 ^ 64 + q * 2 ^ 62 + mid * 2 ^ 32 + syncBits y
def eCp (op a b c e sub fl : Nat) (x : CopyArgs) : Nat :=
  eC op a b c e x.q (x.bar * 2 ^ 14 + sub * 2 ^ 8 + fl * 2 ^ 4) x.y

/-- The handle's field and HV, from bit 32 up. -/
def hBits : Option Nat → Nat
  | none => 0
  | some h => h * 2 ^ 26 + 1
def eX (op a b c e q tag fl : Nat) (x : XArgs) : Nat :=
  eC op a b c e q (hBits x.hnd + x.flow * 2 ^ 22 + x.tc * 2 ^ 20 + tag * 2 ^ 8 + fl * 2) x.y
def eImg (op sub q a b e : Nat) (y : Sync) : Nat := eC op a b 0 e q (sub * 2 ^ 8) y
def eY (op a b c imm : Nat) (y : Sync) : Nat :=
  op * 2 ^ 56 + a * 2 ^ 50 + b * 2 ^ 44 + c * 2 ^ 38 + imm * 2 ^ 32 + syncBits y
def eSem (op n : Nat) (gl : Bool) (c imm : Nat) (y : Sync) : Nat :=
  op * 2 ^ 56 + n * 2 ^ 48 + bit gl * 2 ^ 47 + c * 2 ^ 38 + imm * 2 ^ 32 + syncBits y
def eW (op w c imm : Nat) (y : Sync) : Nat := eSem op w false c imm y

/-- The word of a well-formed instruction; 0 for an event. -/
def encode : Instr → Nat
  | .add d a b g => eXr 0x01 d a b g 0
  | .sub d a b g => eXr 0x02 d a b g 0
  | .mul d a b g => eXr 0x03 d a b g 0
  | .mulh d a b g => eXr 0x04 d a b g 0
  | .mulhn d a b g => eXr 0x05 d a b g 0
  | .div d a b g => eXr 0x06 d a b g 0
  | .divn d a b g => eXr 0x07 d a b g 0
  | .rem d a b g => eXr 0x08 d a b g 0
  | .remn d a b g => eXr 0x09 d a b g 0
  | .and d a b g => eXr 0x0A d a b g 0
  | .or d a b g => eXr 0x0B d a b g 0
  | .xor d a b g => eXr 0x0C d a b g 0
  | .shl d a b g => eXr 0x0D d a b g 0
  | .shr d a b g => eXr 0x0E d a b g 0
  | .sra d a b g => eXr 0x0F d a b g 0
  | .min d a b g => eXr 0x10 d a b g 0
  | .minn d a b g => eXr 0x11 d a b g 0
  | .max d a b g => eXr 0x12 d a b g 0
  | .maxn d a b g => eXr 0x13 d a b g 0
  | .addsh d a b n g => eXr 0x14 d a b g (n - 1)
  | .sel d a b g => eXr 0x15 d a b g 0
  | .clz d a g => eXr 0x16 d a 0 g 0
  | .popc d a g => eXr 0x17 d a 0 g 0
  | .sext d a w g => eXr 0x18 d a 0 g w
  | .zext d a w g => eXr 0x19 d a 0 g w
  | .cmpeq d a b g => eXr 0x1A d a b g 0
  | .cmpne d a b g => eXr 0x1B d a b g 0
  | .cmplt d a b g => eXr 0x1C d a b g 0
  | .cmple d a b g => eXr 0x1D d a b g 0
  | .cmpltn d a b g => eXr 0x1E d a b g 0
  | .cmplen d a b g => eXr 0x1F d a b g 0
  | .addi d a imm => eXi 0x20 d a imm
  | .andi d a imm => eXi 0x21 d a imm
  | .ori d a imm => eXi 0x22 d a imm
  | .xori d a imm => eXi 0x23 d a imm
  | .shli d a n => eXn 0x24 d a n
  | .shri d a n => eXn 0x25 d a n
  | .srai d a n => eXn 0x26 d a n
  | .cmpeqi d a imm => eXi 0x27 d a imm
  | .cmplti d a imm => eXi 0x28 d a imm
  | .cmpltni d a imm => eXi 0x29 d a imm
  | .sethi d imm => eXn 0x2A d 0 (ofS 19 imm)
  | .kand d a b g => eP 0x30 d a b 0 g 0
  | .kandn d a b g => eP 0x30 d a b 0 g 1
  | .kor d a b g => eP 0x31 d a b 0 g 0
  | .kxor d a b g => eP 0x32 d a b 0 g 0
  | .knot d a g => eP 0x33 d a 0 0 g 0
  | .kmov d a g => eP 0x34 d a 0 0 g 0
  | .kmovB d sr g => eP 0x34 d 0 0 sr g 1
  | .kmovLo d sr g => eP 0x34 d 0 0 sr g 2
  | .krd sr a q g => eP 0x35 0 a 0 sr g q
  | .kfirst sr a g => eP 0x36 0 a 0 sr g 0
  | .br g off => eXb 0x40 g (ofS 20 off)
  | .jmp g off => eXb 0x41 g off
  | .jr a g => eXr 0x42 0 a 0 g 0
  | .call g off => eXb 0x43 g (ofS 20 off)
  | .callr d a g => eXr 0x44 d a 0 g 0
  | .ret a g => eXr 0x45 0 a 0 g 0
  | .loop lc n fin => 0x46 * 2 ^ 25 + lc * 2 ^ 24 + n * 2 ^ 18 + fin
  | .lbrk g off => eXb 0x47 g (ofS 20 off)
  | .mfs d n => eXn 0x50 d 0 n
  | .mts a n => eXn 0x51 0 a n
  | .trapi code => eXn 0x52 0 0 code
  | .tfence g => eXr 0x53 0 0 0 g 0
  | .eret => 0x54 * 2 ^ 25
  | .nop e sp => e * 2 ^ 20 + bit sp * 2 ^ 19
  | .vadd t d a b g m => eV 0x01 t.code d a b g m
  | .vsub t d a b g m => eV 0x02 t.code d a b g m
  | .vmul t d a b g m => eV 0x03 t.code d a b g m
  | .vfma t d a b g m => eV 0x04 t.code d a b g m
  | .vfms t d a b g m => eV 0x05 t.code d a b g m
  | .vmin t d a b g m => eV 0x06 t.code d a b g m
  | .vmax t d a b g m => eV 0x07 t.code d a b g m
  | .vabs t d a g m => eV 0x08 t.code d a 0 g m
  | .vneg t d a g m => eV 0x09 t.code d a 0 g m
  | .vdot4 t d a b g m => eV 0x0A t.code d a b g m
  | .vdot2 t d a b g m => eV 0x0B t.code d a b g m
  | .vand t d a b g => eV 0x0C t.code d a b g false
  | .vor t d a b g => eV 0x0D t.code d a b g false
  | .vxor t d a b g => eV 0x0E t.code d a b g false
  | .vnot t d a g => eV 0x0F t.code d a 0 g false
  | .vshl t d a b g => eV 0x10 t.code d a b g false
  | .vshlImm t d a n g => eV 0x10 t.code d a n g true
  | .vshr t d a b g => eV 0x11 t.code d a b g false
  | .vshrImm t d a n g => eV 0x11 t.code d a n g true
  | .vsra t d a b g => eV 0x12 t.code d a b g false
  | .vsraImm t d a n g => eV 0x12 t.code d a n g true
  | .vcmpeq t kd a b g => eV 0x13 t.code kd a b g false
  | .vcmpne t kd a b g => eV 0x14 t.code kd a b g false
  | .vcmplt t kd a b g => eV 0x15 t.code kd a b g false
  | .vcmple t kd a b g => eV 0x16 t.code kd a b g false
  | .vsel t d a b g => eV 0x17 t.code d a b g false
  | .vmov t d a g => eV 0x18 t.code d a 0 g false
  | .vbcast t d a c g => eV 0x19 t.code d a c g false
  | .vbcastScalar t d sa g => eV 0x19 t.code d sa 0 g true
  | .vlaneInsert t d sa c g => eV 0x1A t.code d sa c g false
  | .vlaneExtract t sd a c g => eV 0x1A t.code sd a c g true
  | .vperm t d a b g m => eV 0x1B t.code d a b g m
  | .vrot t d a c g m => eV 0x1C t.code d a c g m
  | .vcvt dty sty md p d a g m => eV 0x1D dty.code d a (sty.code * 2 ^ 6 + md.code * 2 ^ 3 + p) g m
  | .vscl t d a b g => eV 0x1E t.code d a b g false
  | .vredadd t d a g m => eV 0x1F t.code d a 0 g m
  | .vredmax t d a g m => eV 0x20 t.code d a 0 g m
  | .vredmin t d a g m => eV 0x21 t.code d a 0 g m
  | .vscan t d a ex g m => eV 0x22 t.code d a (bit ex) g m
  | .vcnt t d a g => eV 0x23 t.code d a 0 g false
  | .vcntLz t d a g => eV 0x23 t.code d a 0 g true
  | .vtop2 t d a g => eV 0x24 t.code d a 0 g false
  | .vquant t d a p g => eV 0x25 t.code d a p g false
  | .vquantScale t d a p g => eV 0x25 t.code d a p g true
  | .vdeq t d a b g => eV 0x26 t.code d a b g false
  | .vcor t f n d a g => eV 0x27 t.code d a (corCode f * 2 ^ 6 + n) g false
  | .mcfg f sr y => eM 0x01 (mfCode f) sr y
  | .mcfgi f imm y => eM 0x02 (mfCode f) imm y
  | .mma tile src e acc y => eMma 0x03 tile src e acc y
  | .mmas tile src e acc y => eMma 0x04 tile src e acc y
  | .mmac tile src e acc y => eMma 0x05 tile src e acc y
  | .mzero tile y => eM 0x06 (tile * 2 ^ 4) 0 y
  | .mrestart off y => eM 0x07 (2 ^ 7) (ofS 23 off) y
  | .mrestartOff y => eM 0x07 0 0 y
  | .mkeep mask y => eM 0x08 0 mask y
  | .mdrop mask y => eM 0x09 0 mask y
  | .mfmt src e sr y => eM 0x0A 0 (srcCode src * 2 ^ 18 + e * 2 ^ 14 + sr) y
  | .mshad y => eM 0x0B 0 0 y
  | .ld t d x => eLs 0x01 d t.code x (ofS 21 x.off)
  | .ldv t d x => eLs 0x02 d t.code x (ofS 21 x.off)
  | .ldvh t hi d x => eLs 0x03 d t.code x (ofS 21 x.off + bit hi)
  | .ldk d x => eLs 0x04 d 0 x (ofS 21 x.off)
  | .ldg t d vx x => eLs 0x05 d t.code x (vx * 2 ^ 11)
  | .st t d x => eLs 0x01 d t.code x (ofS 21 x.off)
  | .stv t d x => eLs 0x02 d t.code x (ofS 21 x.off)
  | .stvh t hi d x => eLs 0x03 d t.code x (ofS 21 x.off + bit hi)
  | .stk d x => eLs 0x04 d 0 x (ofS 21 x.off)
  | .sts t d vx x => eLs 0x05 d t.code x (vx * 2 ^ 11)
  | .aadd t d x => eLs 0x06 d t.code x (ofS 21 x.off)
  | .amin t d x => eLs 0x07 d t.code x (ofS 21 x.off)
  | .amax t d x => eLs 0x08 d t.code x (ofS 21 x.off)
  | .aand t d x => eLs 0x09 d t.code x (ofS 21 x.off)
  | .aor t d x => eLs 0x0A d t.code x (ofS 21 x.off)
  | .axch t d x => eLs 0x0B d t.code x (ofS 21 x.off)
  | .acas t d x => eLs 0x0C d t.code x (ofS 21 x.off)
  | .afadd t d x => eLs 0x0D d t.code x (ofS 21 x.off)
  | .fenceAcq scope => eFence 1 scope
  | .fenceRel scope => eFence 2 scope
  | .fenceAr scope => eFence 3 scope
  | .tmov a b c e x => eCp 0x01 a b c e 0 0 x
  | .tmov2 a b c e x => eCp 0x02 a b c e 0 0 x
  | .tmcast a b c e mask x => eCp 0x03 a b c e 0 mask x
  | .tgath a b c e x => eCp 0x04 a b c e 0 0 x
  | .tscat a b c e x => eCp 0x05 a b c e 0 0 x
  | .tfill a b c e x => eCp 0x06 a b c e 0 0 x
  | .camo op t a b c e x => eCp 0x07 a b c e (amoCode op) t.code x
  | .qjoin mask y => eC 0x08 0 0 0 0 0 (mask * 2 ^ 8) y
  | .migr a b c tier hnd y => eC 0x10 a b c 0 0 (hBits hnd + tier * 2 ^ 8) y
  | .tlbinv a b y => eY 0x29 a b 0 0 y
  | .tlbinvAll y => eY 0x29 0 0 0 1 y
  | .dirty a b c y => eY 0x28 a b c 0 y
  | .dirtyKeep a b c y => eY 0x28 a b c 1 y
  | .semadd n gl c imm y => eSem 0x01 n gl c imm y
  | .semset n gl c y => eSem 0x02 n gl c 0 y
  | .semwait n gl c imm y => eSem 0x03 n gl c imm y
  | .semrd n gl c y => eSem 0x04 n gl c 0 y
  | .barinit a b y => eY 0x05 a b 0 0 y
  | .bararr a b imm y => eY 0x06 a b 0 imm y
  | .barexp a b y => eY 0x07 a b 0 0 y
  | .barwait a b y => eY 0x08 a b 0 0 y
  | .barwaitT a b c y => eY 0x08 a b c 1 y
  | .hwaitL h y => eY 0x09 h 0 0 0 y
  | .hwaitR h y => eY 0x09 h 0 0 1 y
  | .hstat h c sl y => eY 0x0A h 0 c sl y
  | .hrel h y => eY 0x0B h 0 0 0 y
  | .tspawn c a y => eY 0x0C a 0 c 0 y
  | .tspawnR c a b y => eY 0x0C a b c 1 y
  | .tdep a imm y => eY 0x0D a 0 0 imm y
  | .tsuspL h a b y => eY 0x0E a b 0 (h * 4) y
  | .tsuspR h a b y => eY 0x0E a b 0 (h * 4 + 1) y
  | .tsuspM c a b y => eY 0x0E a b c 2 y
  | .texit y => eY 0x0F 0 0 0 0 y
  | .tmatch a b c y => eY 0x10 a b c 0 y
  | .tmatchS a b c y => eY 0x10 a b c 1 y
  | .tcancel a y => eY 0x11 a 0 0 0 y
  | .tjobq c a y => eY 0x12 a 0 c 0 y
  | .vwnew c b y => eY 0x1E 0 b c 0 y
  | .vwdup c a b y => eY 0x1F a b c 0 y
  | .vwnar a b y => eY 0x20 a b 0 0 y
  | .vwdrop a y => eY 0x21 a 0 0 0 y
  | .vwq c a sl y => eY 0x22 a 0 c sl y
  | .vwsync y => eY 0x23 0 0 0 0 y
  | .wcreate w c a y => eW 0x13 w c a y
  | .wfree w y => eW 0x14 w 0 0 y
  | .wfence w c y => eW 0x15 w c 0 y
  | .wfenceClose w c y => eW 0x15 w c 1 y
  | .wpost w c y => eW 0x16 w c 0 y
  | .wstart w c y => eW 0x17 w c 0 y
  | .wcompl w c y => eW 0x18 w c 0 y
  | .wwait w c y => eW 0x19 w c 0 y
  | .wlockSh w c y => eW 0x1A w c 0 y
  | .wlockEx w c y => eW 0x1A w c 1 y
  | .wunlock w c y => eW 0x1B w c 0 y
  | .xget a b c e x => eX 0x09 a b c e 0 0 0 x
  | .xput a b c e tag x => eX 0x0A a b c e 0 tag 0 x
  | .xputRel a b c e tag x => eX 0x0A a b c e 0 tag 1 x
  | .xacc op t a b c e tag x => eX 0x0B a b c e 0 tag (accCode op * 2 ^ 4 + t.code) x
  | .xamo op t a b c e x => eX 0x0C a b c e 0 0 (amoCode op * 2 ^ 4 + t.code) x
  | .flowcfg a b y => eY 0x24 a b 0 0 y
  | .csend q a b x => eX 0x0E a b 0 0 q 0 0 x
  | .crecv c a y => eY 0x1C a 0 c 0 y
  | .cret c a y => eY 0x1D a 0 c 0 y
  | .xred op t a b c tag x => eX 0x0D a b c 0 0 tag (redCode op * 2 ^ 4 + t.code) x
  | .preempt a c y => eY 0x2A a 0 c 0 y
  | .preemptSelf y => eY 0x2A 0 0 0 1 y
  | .ctxsv q a b e y => eImg 0x11 0 q a b e y
  | .ctxsvUpad q a b e y => eImg 0x11 1 q a b e y
  | .ctxsvCpad q a b e y => eImg 0x11 2 q a b e y
  | .ctxld q a b e y => eImg 0x12 0 q a b e y
  | .ctxldUpad q a b e y => eImg 0x12 1 q a b e y
  | .ctxldCpad q a b e y => eImg 0x12 2 q a b e y
  | .acfg f a y => eY 0x25 a 0 0 (afCode f) y
  | .ago a b hnd y => eC 0x0F a b 0 0 0 (hBits hnd) y
  | .aq c sl y => eY 0x26 0 0 c sl y
  | .event a b code y => eY 0x27 a b 0 code y
  | .shadnWrite | .resultWriteback | .lateAccessPerform | .agingDue | .matrixStart | .matrixComplete | .shadowRecord
  | .copyComplete | .pageWalk | .fltreplay | .frpush | .trgWrite | .migrationMove | .rcntDecay | .barrierUpdate
  | .barrierAutoPhase | .remoteSpawnArrival | .spawnAckArrival | .tdepArrival | .cancelArrival | .tjobqAnswer
  | .jobJoinNotice | .jobWave | .jobDoneNotice | .taskDispatch | .taskPriorityRise | .chordDeltaApply
  | .fenceAnnounce | .wfenceComplete | .postArrival | .completeArrival | .lockRequestArrival | .lockReleaseArrival
  | .lockGrantArrival | .lockRetry | .remoteRequest | .remoteAck | .getDataLand | .flowRetry | .portArbitration
  | .vdcapWindow | .placeDown | .placeUp | .csendSend | .cretPermitSend | .permitArrival | .chanStall | .chaudit
  | .auditMark | .auditBack | .auditTimeout | .reduceResultArrival | .reduceTimeout | .reduceKeyAbort | .preemptStop
  | .preemptTimeoutKill | .killFinish | .machineCheck | .faultRecordDrain | .fqtail | .apexStart | .apexEnd
  | .eventDeliver | .launch | .resetContext | .resetCore | .resetCluster | .resetVd | .resetDie | .resetPackage
  | .chantabWrite | .vdfreeze | .vdexport | .vdimport | .attgo | .attestQuoteDone | .powerOn | .registerWrite
  | .releaseAcknowledgement => 0

/-- The kind of word an instruction is encoded in. -/
def Instr.kind : Instr → WordKind
  | .add .. | .sub .. | .mul .. | .mulh .. | .mulhn .. | .div .. | .divn .. | .rem .. | .remn .. | .and .. | .or ..
  | .xor .. | .shl .. | .shr .. | .sra .. | .min .. | .minn .. | .max .. | .maxn .. | .addsh .. | .sel .. | .clz ..
  | .popc .. | .sext .. | .zext .. | .cmpeq .. | .cmpne .. | .cmplt .. | .cmple .. | .cmpltn .. | .cmplen ..
  | .addi .. | .andi .. | .ori .. | .xori .. | .shli .. | .shri .. | .srai .. | .cmpeqi .. | .cmplti .. | .cmpltni ..
  | .sethi .. | .kand .. | .kandn .. | .kor .. | .kxor .. | .knot .. | .kmov .. | .kmovB .. | .kmovLo .. | .krd ..
  | .kfirst .. | .br .. | .jmp .. | .jr .. | .call .. | .callr .. | .ret .. | .loop .. | .lbrk .. | .mfs .. | .mts ..
  | .trapi .. | .tfence .. | .eret => .x
  | .nop .. => .hdr
  | .vadd .. | .vsub .. | .vmul .. | .vfma .. | .vfms .. | .vmin .. | .vmax .. | .vabs .. | .vneg .. | .vdot4 ..
  | .vdot2 .. | .vand .. | .vor .. | .vxor .. | .vnot .. | .vshl .. | .vshlImm .. | .vshr .. | .vshrImm .. | .vsra ..
  | .vsraImm .. | .vcmpeq .. | .vcmpne .. | .vcmplt .. | .vcmple .. | .vsel .. | .vmov .. | .vbcast ..
  | .vbcastScalar .. | .vlaneInsert .. | .vlaneExtract .. | .vperm .. | .vrot .. | .vcvt .. | .vscl .. | .vredadd ..
  | .vredmax .. | .vredmin .. | .vscan .. | .vcnt .. | .vcntLz .. | .vtop2 .. | .vquant .. | .vquantScale ..
  | .vdeq .. | .vcor .. => .v
  | .mcfg .. | .mcfgi .. | .mma .. | .mmas .. | .mmac .. | .mzero .. | .mrestart .. | .mrestartOff .. | .mkeep ..
  | .mdrop .. | .mfmt .. | .mshad .. => .m
  | .ld .. | .ldv .. | .ldvh .. | .ldk .. | .ldg .. => .l
  | .st .. | .stv .. | .stvh .. | .stk .. | .sts .. | .aadd .. | .amin .. | .amax .. | .aand .. | .aor .. | .axch ..
  | .acas .. | .afadd .. | .fenceAcq .. | .fenceRel .. | .fenceAr .. => .s
  | .tmov .. | .tmov2 .. | .tmcast .. | .tgath .. | .tscat .. | .tfill .. | .camo .. | .qjoin .. | .migr ..
  | .xget .. | .xput .. | .xputRel .. | .xacc .. | .xamo .. | .csend .. | .xred .. | .ctxsv .. | .ctxsvUpad ..
  | .ctxsvCpad .. | .ctxld .. | .ctxldUpad .. | .ctxldCpad .. | .ago .. => .c
  | .tlbinv .. | .tlbinvAll .. | .dirty .. | .dirtyKeep .. | .semadd .. | .semset .. | .semwait .. | .semrd ..
  | .barinit .. | .bararr .. | .barexp .. | .barwait .. | .barwaitT .. | .hwaitL .. | .hwaitR .. | .hstat ..
  | .hrel .. | .tspawn .. | .tspawnR .. | .tdep .. | .tsuspL .. | .tsuspR .. | .tsuspM .. | .texit .. | .tmatch ..
  | .tmatchS .. | .tcancel .. | .tjobq .. | .vwnew .. | .vwdup .. | .vwnar .. | .vwdrop .. | .vwq .. | .vwsync ..
  | .wcreate .. | .wfree .. | .wfence .. | .wfenceClose .. | .wpost .. | .wstart .. | .wcompl .. | .wwait ..
  | .wlockSh .. | .wlockEx .. | .wunlock .. | .flowcfg .. | .crecv .. | .cret .. | .preempt .. | .preemptSelf ..
  | .acfg .. | .aq .. | .event .. => .y
  | .shadnWrite | .resultWriteback | .lateAccessPerform | .agingDue | .matrixStart | .matrixComplete | .shadowRecord
  | .copyComplete | .pageWalk | .fltreplay | .frpush | .trgWrite | .migrationMove | .rcntDecay | .barrierUpdate
  | .barrierAutoPhase | .remoteSpawnArrival | .spawnAckArrival | .tdepArrival | .cancelArrival | .tjobqAnswer
  | .jobJoinNotice | .jobWave | .jobDoneNotice | .taskDispatch | .taskPriorityRise | .chordDeltaApply
  | .fenceAnnounce | .wfenceComplete | .postArrival | .completeArrival | .lockRequestArrival | .lockReleaseArrival
  | .lockGrantArrival | .lockRetry | .remoteRequest | .remoteAck | .getDataLand | .flowRetry | .portArbitration
  | .vdcapWindow | .placeDown | .placeUp | .csendSend | .cretPermitSend | .permitArrival | .chanStall | .chaudit
  | .auditMark | .auditBack | .auditTimeout | .reduceResultArrival | .reduceTimeout | .reduceKeyAbort | .preemptStop
  | .preemptTimeoutKill | .killFinish | .machineCheck | .faultRecordDrain | .fqtail | .apexStart | .apexEnd
  | .eventDeliver | .launch | .resetContext | .resetCore | .resetCluster | .resetVd | .resetDie | .resetPackage
  | .chantabWrite | .vdfreeze | .vdexport | .vdimport | .attgo | .attestQuoteDone | .powerOn | .registerWrite
  | .releaseAcknowledgement => .event

/-! ## Words as the opcode table numbers them -/

/-- The little-endian bytes of a word of `n` bytes, as the program store holds it (R25). -/
def wordBytes : Nat → Nat → List Nat
  | 0, _ => []
  | n + 1, w => w % 256 :: wordBytes n (w / 256)

/-- The word that stored bytes spell. -/
def wordOf : List Nat → Nat
  | [] => 0
  | b :: l => b + 256 * wordOf l

/-- The kind of a table word by its width: an X word, or a header where its top byte, the presence mask, is empty; a V word;
a C word. -/
def tableKind (nbits w : Nat) : WordKind :=
  if nbits = 48 then .v else if nbits = 96 then .c else if fld w 31 24 = 0 then .hdr else .x

/-- The instruction that the decoder reads from a word of the opcode table, stored byte by byte. -/
def decodeTableWord (nbits w : Nat) : Option Instr :=
  match decode (tableKind nbits w) (wordOf (wordBytes ((tableKind nbits w).bits / 8) w)) with
  | .ok i => some i
  | .error _ => none

end Sys2Proof
end

