-- ==== Sys2Proof/Machine/Fetch.lean ====
section
/-! DEFINITION. The program store and the headers of bundles (R25, R26, R28): fetching bytes, the size of a bundle, the
link address and the delay bundles of a control transfer (R30, R89). -/

namespace Sys2Proof.Machine

/-- The place in the program store of a die's program address: each die has its own program memory. -/
def codeKey (d pc : Nat) : Nat := d * 2 ^ 64 + pc

/-- `n` bytes of a die's program memory from an address up. -/
def State.fetch (s : State) (d pc n : Nat) : List Byte := memBytes s.code (codeKey d pc) n

/-- A word of a die's program memory. -/
def State.fetchNat (s : State) (d pc n : Nat) : Nat := leNat (s.fetch d pc n)

/-- A bundle's header (R25). -/
structure Hdr where
  mask : Nat
  e : Nat
  sp : Bool
  ct : Bool
  rsv : Nat
  deriving DecidableEq, Repr

/-- The fields of a header word. -/
def hdrOf (w : Nat) : Hdr :=
  ⟨w / 2 ^ 24 % 256, w / 2 ^ 20 % 16, w / 2 ^ 19 % 2 == 1, w / 2 ^ 18 % 2 == 1, w % 2 ^ 18⟩

/-- The header at an address. -/
def State.hdr (s : State) (d pc : Nat) : Hdr := hdrOf (s.fetchNat d pc 4)

/-- The slots in mask order, with their mask bits and widths in bytes (R25, R26). -/
def slotTable : List (Slot × Nat × Nat) :=
  [(.x, 7, 4), (.va, 6, 6), (.vb, 5, 6), (.m, 4, 8), (.l, 3, 8), (.s, 2, 8), (.c, 1, 12), (.y, 0, 8)]

/-- The bytes of a bundle with a presence mask (R26). -/
def bundleSize (mask : Nat) : Nat :=
  slotTable.foldl (fun n e => if mask.testBit e.2.1 then n + e.2.2 else n) 4

/-- The kind of word of a slot: VA and VB decode alike (R27). -/
def Slot.word : Slot → WordKind
  | .hdr => .hdr | .x => .x | .va => .v | .vb => .v | .m => .m | .l => .l | .s => .s | .c => .c | .y => .y

/-- The slot words from an address on, those of the entries of a table that a mask names, each decoded. -/
def State.wordsFrom (s : State) (d mask : Nat) : Nat → List (Slot × Nat × Nat) → List (Slot × Dec)
  | _, [] => []
  | a, e :: l =>
    if mask.testBit e.2.1 then (e.1, decode e.1.word (s.fetchNat d a e.2.2)) :: s.wordsFrom d mask (a + e.2.2) l
    else s.wordsFrom d mask a l

/-- The decoded slots of the bundle at `pc`, in mask order. -/
def State.slotsAt (s : State) (d : Nat) (pc : Word) : List (Slot × Dec) :=
  s.wordsFrom d (s.hdr d pc.toNat).mask (pc.toNat + 4) slotTable

/-- The address after the bundle at `pc`. -/
def State.after (s : State) (d : Nat) (pc : Word) : Word := pc + BitVec.ofNat 64 (bundleSize (s.hdr d pc.toNat).mask)

/-- The bundles, idle ones among them, that one header stands for (R28). -/
def Hdr.count (h : Hdr) : Nat := h.e + 1

/-- From a header on, the address of the next header after `left` more bundles have issued with their idle bundles. -/
def State.skip (s : State) (d : Nat) (pc : Word) (left : Nat) : Nat → Word
  | 0 => pc
  | f + 1 => if left = 0 then pc else s.skip d (s.after d pc) (left - (s.hdr d pc.toNat).count) f

/-- The link address L of the transfer at `pc`: the next header on the sequential path after its two delay bundles
(R89). -/
def State.link (s : State) (d : Nat) (pc : Word) : Word := s.skip d (s.after d pc) (2 - (s.hdr d pc.toNat).e) 2

/-- Whether one of the next `left` bundles from a header on has CT set (R30). -/
def State.ctAhead (s : State) (d : Nat) (pc : Word) (left : Nat) : Nat → Bool
  | 0 => false
  | f + 1 =>
    if left = 0 then false
    else (s.hdr d pc.toNat).ct || s.ctAhead d (s.after d pc) (left - (s.hdr d pc.toNat).count) f

/-- Whether a delay bundle of the transfer at `pc` has CT set (R30). -/
def State.delayFault (s : State) (d : Nat) (pc : Word) : Bool := s.ctAhead d (s.after d pc) (2 - (s.hdr d pc.toNat).e) 2

end Sys2Proof.Machine
end

