-- ==== Sys2Proof/Machine/Control.lean ====
section
/-! DEFINITION. The control transfers, the loop counters, the special-register moves, TFENCE and the idle header (R28,
R89 to R95). -/

namespace Sys2Proof.Machine

/-! ## Transfers (R89) -/

/-- A transfer pending for the acting context, with its two delay bundles to come. -/
def State.transfer (s : State) (k : XferKind) : State := s.modMe fun c => { c with xfer := some ⟨k, 2⟩ }

/-- The target of a relative transfer: PC plus twice the offset (R31). -/
def relTarget (pc : Word) (off : Int) : Word := pc + imm64 (2 * off)

/-- The target of JMP. -/
def jmpTarget (pc : Word) (off : Nat) : Word := BitVec.ofNat 64 (pc.toNat / 2 ^ 21 * 2 ^ 21 + 2 * off)

/-- A transfer to `t` when the guard reads true, and to the sequential path when not. -/
def goto (g : Guard) (t : Ctx → Word) (s : State) : State :=
  s.transfer (if s.me.on g then .jump (t s.me) else .fall)

/-- A register target with bit 0 set takes ALIGN, unless the guard reads false (R31, R32). -/
def targetTrap (a : Nat) (g : Guard) (s : State) : Option Trap :=
  if s.me.on g && (s.me.s a).getLsbD 0 then some (Slot.x.trap .align 0 (s.me.s a)) else none

/-- The link address written when the guard reads true. -/
def linkTo (d : Nat) (g : Guard) (s : State) : State :=
  if s.me.on g then s.pushS d (s.link (dieOf s.cur) s.me.pc) 1 .x else s

def opBr (g : Guard) (off : Int) : Op := { Op.base .x with effect := goto g fun c => relTarget c.pc off }
def opJmp (g : Guard) (off : Nat) : Op := { Op.base .x with effect := goto g fun c => jmpTarget c.pc off }
def opJr (a : Nat) (g : Guard) : Op :=
  { Op.base .x with addr := targetTrap a g, effect := goto g fun c => c.s a }
def opCall (g : Guard) (off : Int) : Op :=
  { Op.base .x with
    dests := fun _ => [.sreg 63]
    effect := fun s => goto g (fun c => relTarget c.pc off) (linkTo 63 g s) }
def opCallr (d a : Nat) (g : Guard) : Op :=
  { Op.base .x with
    dests := fun _ => [.sreg d]
    addr := targetTrap a g
    effect := fun s => goto g (fun c => c.s a) (linkTo d g s) }
def opRet (a : Nat) (g : Guard) : Op :=
  { Op.base .x with addr := targetTrap a g, effect := goto g fun c => c.s a }

/-! ## Loops (R90, R91) -/

/-- The address of a LOOP's end bundle. -/
def loopEnd (pc : Word) (fin : Nat) : Word := pc + BitVec.ofNat 64 (2 * fin)

/-- A loop counter set up by LOOP. -/
def loopSet (a ls le : Word) : LoopSt := ⟨a, ls, le, a != 0⟩

/-- The context with loop counter `lc` replaced. -/
def Ctx.setLoop (c : Ctx) (lc : Nat) (l : LoopSt) : Ctx := if lc = 0 then { c with lc0 := l } else { c with lc1 := l }

/-- LOOP's effect: the counter is set up, and a count of 0 goes on after the end bundle. -/
def loopEffect (lc n fin : Nat) (s : State) : State :=
  let a := s.me.s n
  let le := loopEnd s.me.pc fin
  (s.modMe fun c => c.setLoop lc (loopSet a (s.link (dieOf s.cur) s.me.pc) le)).transfer (if a = 0 then .jump (s.after (dieOf s.cur) le) else .fall)

/-- An end offset below the first body bundle takes ILLEGAL_BUNDLE. -/
def opLoop (lc n fin : Nat) : Op :=
  { Op.base .x with
    range := fun s => if decide (2 * fin < (s.link (dieOf s.cur) s.me.pc - s.me.pc).toNat) then
      some (Slot.x.trap .illegalBundle 0 0) else none
    effect := loopEffect lc n fin
    after := true }

/-- The innermost active loop cleared (R91). -/
def Ctx.breakLoop (c : Ctx) : Ctx :=
  if c.lc1.la then { c with lc1 := { c.lc1 with lc := 0, la := false } }
  else if c.lc0.la then { c with lc0 := { c.lc0 with lc := 0, la := false } }
  else c

def opLbrk (g : Guard) (off : Int) : Op :=
  { Op.base .x with
    effect := fun s => goto g (fun c => relTarget c.pc off) (if s.me.on g then s.modMe Ctx.breakLoop else s)
    after := true }

/-- One loop's check when a bundle at its end address has issued with its idle bundles (R90): the new loop state and
whether the back edge is taken. -/
def LoopSt.atEnd (l : LoopSt) (pc : Word) : LoopSt × Bool :=
  if l.la && l.le == pc then
    if 1 < l.lc.toNat then ({ l with lc := l.lc - 1 }, true) else ({ l with lc := 0, la := false }, false)
  else (l, false)

/-- LOOP_BACK_EDGE (R90): lc1 is evaluated first, and lc0 only when lc1 takes no back edge. `next` is where execution
goes on otherwise. -/
def Ctx.loopBack (c : Ctx) (pc next : Word) : Ctx :=
  let r1 := c.lc1.atEnd pc
  if r1.2 then { c with lc1 := r1.1, pc := r1.1.ls }
  else
    let r0 := c.lc0.atEnd pc
    { c with lc1 := r1.1, lc0 := r0.1, pc := if r0.2 then r0.1.ls else next }

/-! ## Special registers, traps and fences (R92 to R95) -/

/-- ILLEGAL_OPCODE for a number that names no register, or none that the instruction may use (`known`), and PRIVILEGE for a
supervisor register without supervisor rights (R83). -/
def specTrap (known : Nat → Bool) (n : Nat) (s : State) : Option Trap :=
  if !known n then some (Slot.x.trap .illegalOpcode 0 0)
  else if specSup n && !s.me.sup then some (Slot.x.trap .privilege 0 0)
  else none

def opMfs (d n : Nat) : Op :=
  { Op.base .x with
    dests := fun _ => [.sreg d]
    range := specTrap specKnown n
    effect := fun s => s.pushS d (s.specRead s.cur n) 2 .x }

def opMts (a n : Nat) : Op :=
  { Op.base .x with
    range := specTrap specWritable n
    effect := fun s => s.push s.cur ⟨.special n, (s.me.s a).setWidth 2048, fullMask, 0, 1, .x, false⟩ }

/-- The write of SHADN (R66): the period, and the count returned to 0. -/
def stepShadnWrite (core v : Nat) (s : State) : State := s.modCore core fun c => c.writeShadn (v % 65536)

def opTrapi (code : Nat) : Op :=
  { Op.base .x with effect := fun s => s.transfer (.trapi code (s.link (dieOf s.cur) s.me.pc)) }

/-- Whether a result comes from a V slot. -/
def Result.isV (r : Result) : Bool := r.src == .va || r.src == .vb || r.src == .hdr

/-- Whether a context has a matrix operation that is active or pending (R131). -/
def State.matBusy (s : State) (k : Nat) : Bool :=
  let c := s.core (coreOf k)
  (match c.act with | some m => m.ctx == k | none => false) ||
    (match c.pend with | some m => m.ctx == k | none => false)

/-- TFENCE's block and trap (R94); an undelivered latch counts as in flight (R326). -/
def opTfence (g : Guard) : Op :=
  { Op.base .x with
    ready := fun s => !s.me.inflight.any Result.isV && !s.me.latches.any Result.isV && !s.matBusy s.cur
    addr := fun s => if s.me.on g && s.me.pendingArith != 0 then
      some (Slot.x.trap .arith s.me.pendingArith.toNat 0) else none }

def opEret : Op := Op.supOnly { Op.base .x with effect := fun s => s.transfer .eret }

/-- An empty-mask header: E + 1 idle bundles, of which this is the first; E = 0 takes ILLEGAL_BUNDLE (R28). SP marks the
boundary before it as a safe point and has no effect of its own. -/
def opNop (e : Nat) (_sp : Bool) : Op :=
  { Op.base .hdr with
    range := fun _ => if e = 0 then some (Slot.hdr.trap .illegalBundle 0 0) else none
    effect := fun s => s.modMe fun c => { c with idle := e } }

/-- The meaning of `br`: it issues, blocks or traps as a bundle of its own (`opBr`). -/
def execBr (g : Guard) (off : Int) (s : State) : Host.Outcome State Fault Refusal :=
  .next (issue [opBr g off] s)

/-- The meaning of `jmp`: it issues, blocks or traps as a bundle of its own (`opJmp`). -/
def execJmp (g : Guard) (off : Nat) (s : State) : Host.Outcome State Fault Refusal :=
  .next (issue [opJmp g off] s)

/-- The meaning of `jr`: it issues, blocks or traps as a bundle of its own (`opJr`). -/
def execJr (a : Nat) (g : Guard) (s : State) : Host.Outcome State Fault Refusal :=
  .next (issue [opJr a g] s)

/-- The meaning of `call`: it issues, blocks or traps as a bundle of its own (`opCall`). -/
def execCall (g : Guard) (off : Int) (s : State) : Host.Outcome State Fault Refusal :=
  .next (issue [opCall g off] s)

/-- The meaning of `callr`: it issues, blocks or traps as a bundle of its own (`opCallr`). -/
def execCallr (d : Nat) (a : Nat) (g : Guard) (s : State) : Host.Outcome State Fault Refusal :=
  .next (issue [opCallr d a g] s)

/-- The meaning of `ret`: it issues, blocks or traps as a bundle of its own (`opRet`). -/
def execRet (a : Nat) (g : Guard) (s : State) : Host.Outcome State Fault Refusal :=
  .next (issue [opRet a g] s)

/-- The meaning of `loop`: it issues, blocks or traps as a bundle of its own (`opLoop`). -/
def execLoop (lc : Nat) (n : Nat) (fin : Nat) (s : State) : Host.Outcome State Fault Refusal :=
  .next (issue [opLoop lc n fin] s)

/-- The meaning of `lbrk`: it issues, blocks or traps as a bundle of its own (`opLbrk`). -/
def execLbrk (g : Guard) (off : Int) (s : State) : Host.Outcome State Fault Refusal :=
  .next (issue [opLbrk g off] s)

/-- The meaning of `mfs`: it issues, blocks or traps as a bundle of its own (`opMfs`). -/
def execMfs (d : Nat) (n : Nat) (s : State) : Host.Outcome State Fault Refusal :=
  .next (issue [opMfs d n] s)

/-- The meaning of `mts`: it issues, blocks or traps as a bundle of its own (`opMts`). -/
def execMts (a : Nat) (n : Nat) (s : State) : Host.Outcome State Fault Refusal :=
  .next (issue [opMts a n] s)

/-- The meaning of `trapi`: it issues, blocks or traps as a bundle of its own (`opTrapi`). -/
def execTrapi (code : Nat) (s : State) : Host.Outcome State Fault Refusal :=
  .next (issue [opTrapi code] s)

/-- The meaning of `tfence`: it issues, blocks or traps as a bundle of its own (`opTfence`). -/
def execTfence (g : Guard) (s : State) : Host.Outcome State Fault Refusal :=
  .next (issue [opTfence g] s)

/-- The meaning of `eret`: it issues, blocks or traps as a bundle of its own (`opEret`). -/
def execEret (s : State) : Host.Outcome State Fault Refusal :=
  .next (issue [opEret] s)

/-- The meaning of `shadnWrite`: the step `stepShadnWrite` on the operands that the state holds. -/
def execShadnWrite (s : State) : Host.Outcome State Fault Refusal :=
  .next (stepShadnWrite (s.arg 0) (s.arg 1) s)


/-- The meaning of `nop`: it issues or traps as a bundle of its own (`opNop`). -/
def execNop (e : Nat) (sp : Bool) (s : State) : Host.Outcome State Fault Refusal := .next (issue [opNop e sp] s)

end Sys2Proof.Machine
end

