-- ==== Sys2Proof/Machine/Tasks.lean ====
section
/-! DEFINITION. The lattice scheduler: spawning, dependencies, dispatch, suspension and exit, arrival match entries and
jobs (R15 to R18, R23, R184 to R200). -/

namespace Sys2Proof.Machine

/-! ## Images and acceptance (R184, R185, R189) -/

/-- `n` little-endian bytes of a list from byte `a`. -/
def lnat (l : List Byte) (a n : Nat) : Nat := leNat ((l.drop a).take n)

/-- Whether AFF names a cluster that the die presents and the virtual device owns. -/
def State.affOk (s : State) (die vd aff : Nat) : Bool :=
  (List.range 16).any fun cl => aff.testBit cl && s.ownsClus die vd cl

/-- The checks of R189 on a spawn image, in order; `loc` is whether AFF is judged. -/
def State.spawnCode (s : State) (die vd : Nat) (loc : Bool) (l : List Byte) : Option Nat :=
  if 16 < lnat l 153 1 then some 1
  else if 256 < lnat l 154 2 then some 2
  else if lnat l 156 4 ≠ 0 ∨ lnat l 0 1 % 2 ≠ 0 ∨ lnat l 8 8 ≠ 0 ∨ 4 ≤ lnat l 152 1 ∨ lnat l 160 32 ≠ 0 then some 3
  else if loc = true ∧ s.affOk die vd (lnat l 146 2) = false then some 4
  else if s.cancelled die (lnat l 148 4) then some 5
  else none

/-- The record that an image describes. -/
def imageRec (l : List Byte) (vd gen : Nat) : Rec :=
  { Rec.reset with
    gen := gen, vd := vd
    pc := BitVec.ofNat 64 (lnat l 0 8)
    vals := (List.range 16).map fun i => BitVec.ofNat 64 (lnat l (16 + 8 * i) 8)
    dep := lnat l 144 2, aff := lnat l 146 2, job := lnat l 148 4, prio := lnat l 152 1 % 4
    rows := lnat l 153 1, sems := lnat l 154 2 }

/-- The free records of a virtual device's bounds. -/
def State.freeRecs (s : State) (die vd : Nat) : List Nat :=
  let b := s.bound die vd boundRec
  (List.range 4096).filter fun i => decide (b.1 ≤ i) && decide (i < b.2) && (s.trec die i).st == 0

/-- DEP with what a launch adds (R359). A sum that DEP's 16 bits do not hold is a free value. -/
def depSum (dep extra draw : Nat) : Nat :=
  if dep + extra < 65536 then dep + extra else Config.choice draw % 65536

/-- A task accepted: a free record, whichever the scheduler takes, with its generation advanced; the job's partial
rises. `none` when no record is free. -/
def State.acceptTask (s : State) (die vd : Nat) (l : List Byte) (extra : Nat) : Option (Nat × State) :=
  match s.freeRecs die vd with
  | [] => none
  | i :: t =>
    let idx := (i :: t).getD (Config.choice s.free % (t.length + 1)) i
    let r := imageRec l vd (((s.trec die idx).gen + 1) % 4096)
    let r' := { r with dep := depSum r.dep extra (s.free + 1), st := 1 }
    let s1 := ({ s with free := s.free + 2 }.setRec die idx r').partAdd die vd r.job 1
    some (idx, if r'.dep = 0 then s1.makeReady die idx else s1)

/-! ## TSPAWN (R188, R189) -/

/-- The trap of a spawn image's address, and of the target die of the remote form. -/
def spawnTrap (remote : Bool) (a b : Nat) (s : State) : Option Trap :=
  match s.lsTrap .y (s.me.s a) 192 64 with
  | some t => some t
  | none => if remote && decide (16 ≤ (s.me.s b).toNat) then some (Slot.y.trap .addrClass 0 (s.me.s b)) else none

/-- The image's bytes as they stand. -/
def spawnImage (a : Nat) (rd : Rd) (s : State) : List Byte := s.read (lsKey (rd.c.s a)) 192

/-- Whether the tables have what a spawn that passes its checks needs (R184, R197). -/
def spawnRoom (remote : Bool) (l : List Byte) (k : Nat) (s : State) : Bool :=
  match s.spawnCode (dieOf k) (s.vdOf k) (!remote) l with
  | some _ => true
  | none => s.jobRoom (dieOf k) (lnat l 148 4) && (remote || !(s.freeRecs (dieOf k) (s.vdOf k)).isEmpty)

/-- The loads that read `n` bytes at the address in a register (R188, R248). -/
def imgLoads (a n : Nat) (c : Ctx) : List (Nat × Nat) :=
  (List.range ((n + 63) / 64)).map fun i => (lsKey (c.s a) + 64 * i, min 64 (n - 64 * i))

/-- The effect of a Y-slot instruction that reads `n` bytes: `run` on them when every load is made in the issue cycle, and else
the rest of them on the freeze line (R78, R152). -/
def State.readThen (s : State) (i : Instr) (a n : Nat) (y : Sync) (run : List Byte → State → State) : State :=
  let r := s.readGo s.rd s.cur (s.core (coreOf s.cur)).lateBanks (imgLoads a n s.me) []
  if r.1.1.isEmpty then run (s.read (lsKey (s.me.s a)) n) r.2
  else (r.2.pushLate .y i [] s.me.srseed (s.passedOver s.cur s.mark r.1.1).toNat r.1.1 r.1.2).signalAccept y

/-- The signal of a spawn that completes at its acceptance, whichever its point. One at acceptance was applied in the issue
cycle when the spawn's read is late (R41). -/
def State.signalOf (s : State) (k late : Nat) (y : Sync) : State :=
  if y.sinc = 0 ∨ (late ≠ 0 ∧ y.spt = false) then s else s.signal k y.ssem y.sinc

/-- A spawn's result, delivered after 12 cycles. -/
def State.spawnResult (s : State) (k c : Nat) (v : Word) (late : Nat) : State :=
  s.push k ⟨.sreg c, v.setWidth 2048, fullMask, 0, 12 - late, .y, false⟩

/-- A spawn that fails with a code. −5 counts in DISC (R189, R198). Its signal at completion comes with the failure (log entry 152). -/
def State.spawnFail (s : State) (k c job code late : Nat) (y : Sync) : State :=
  let s1 := if code = 5 then s.discAdd (dieOf k) (s.vdOf k) job else s
  (s1.spawnResult k c (BitVec.ofInt 64 (-(code : Int))) late).signalOf k late y

/-- A spawn performed on the image that it has read. -/
def spawnRun (remote : Bool) (c b : Nat) (y : Sync) (rd : Rd) (k : Nat) (l : List Byte) (s0 : State) : State :=
  let die := dieOf k
  let vd := s0.vdOf k
  let job := lnat l 148 4
  match s0.spawnCode die vd (!remote) l with
  | some code => s0.spawnFail k c job code rd.late y
  | none =>
    if remote then
      let f := s0.fresh
      let d : Done := ⟨k, (s0.ctx k).task, none, syncEnd y⟩
      let s1 := f.2.partAdd die vd job 1
      let s2 := s1.modDie die fun x => { x with spawns := x.spawns ++ [⟨f.1, vd, job, d⟩] }
      let s3 := s2.send (s2.place die) (s2.place ((rd.c.s b).toNat % 16)) (.spawn l f.1 vd)
      let s4 := if y.spt then s3 else s3.signalOf k rd.late y
      s4.spawnResult k c 0 rd.late
    else
      match s0.acceptTask die vd l 0 with
      | none => s0
      | some (idx, s1) =>
        (s1.spawnResult k c (BitVec.ofNat 64 (taskId die (s1.trec die idx).gen idx)) rd.late).signalOf k rd.late y

/-- A spawn as an operation of the Y slot: it blocks while a table it needs is full. -/
def spawnOp (i : Instr) (remote : Bool) (c a b : Nat) (y : Sync) : Op :=
  { Op.cmd .y y with
    dests := fun _ => [.sreg c]
    ready := fun s => (spawnTrap remote a b s).isSome || spawnRoom remote (spawnImage a s.rd s) s.cur s
    addr := spawnTrap remote a b
    effect := fun s => s.readThen i a 192 y (spawnRun remote c b y s.rd s.cur) }

def opTspawn (c a : Nat) (y : Sync) : Op := spawnOp (.tspawn c a y) false c a 0 y
def opTspawnR (c a b : Nat) (y : Sync) : Op := spawnOp (.tspawnR c a b y) true c a b y

/-! ## Remote spawns (R189, R198) -/

/-- The message at a place of the wire, when it is for this package. -/
def State.msg (s : State) (n : Nat) : Option Msg :=
  match s.wire[n]? with
  | some m => if m.dst / 16 = s.epid then some m else none
  | none => none

/-- The message taken off the wire. -/
def State.taken (s : State) (n : Nat) : State := { s with wire := s.wire.eraseIdx n }

/-- Whether a virtual device is frozen (VDFREEZE, R361). -/
def State.frozenVd (s : State) (die vd : Nat) : Bool := (s.reg die vd 0 0x78).getLsbD 0

/-- Whether the requests that arrive for a virtual device complete with TARGET_DOWN: it is frozen, its port is dead, or a reset
of it is under way (R332, R358, R361). -/
def State.shutVd (s : State) (die vd : Nat) : Bool :=
  s.frozenVd die vd || (s.die die).deadVds.contains vd ||
    (s.die die).resets.any fun x => x.scope == 4 || (x.scope == 3 && x.vd == vd)

/-- Whether a spawn of a virtual device is held at the port of the place that sent it (R361). -/
def State.spawnHeld (s : State) (src vd : Nat) : Bool := src / 16 == s.epid && s.frozenVd (src % 16) vd

/-- Whether an earlier message of the wire that the scheduler of the same die takes in order is still held: a remote
spawn of the virtual device (R184). -/
def State.spawnAhead (s : State) (n die vd : Nat) : Bool :=
  (s.wire.take n).any fun m => m.dst == s.place die && match m.body with | .spawn _ _ v => v == vd && !s.spawnHeld m.src v | _ => false

/-- REMOTE_SPAWN_ARRIVAL: accepted and acknowledged; it is discarded at once in a cancelled job or when its AFF names no
cluster here. It is held while a table it needs is full or its virtual device is frozen, here or where it comes from. -/
def stepRemoteSpawnArrival (n : Nat) (s : State) : State :=
  match s.msg n with
  | some ⟨src, dst, .spawn l id vd⟩ =>
    let die := dst % 16
    let job := lnat l 148 4
    if s.spawnAhead n die vd || s.frozenVd die vd || s.spawnHeld src vd || !s.jobRoom die job then s
    else
      match (s.taken n).acceptTask die vd l 0 with
      | none => s
      | some (idx, s1) =>
        let s2 := if s1.cancelled die job || !s1.affOk die vd (lnat l 146 2) then s1.discard die idx else s1
        s2.send dst src (.spawnAck id job)
  | _ => s

/-- SPAWN_ACK_ARRIVAL: the spawner's partial drops and the command completes. -/
def stepSpawnAckArrival (n : Nat) (s : State) : State :=
  match s.msg n with
  | some ⟨_, dst, .spawnAck id _⟩ =>
    let die := dst % 16
    match (s.die die).spawns.find? fun x => x.id == id with
    | none => s.taken n
    | some x =>
      let s1 := ((s.taken n).partAdd die x.vd x.job (-1)).modDie die fun d =>
        { d with spawns := d.spawns.filter fun z => z.id != id }
      s1.sigDone x.done
  | _ => s

/-! ## Dependencies (R190) -/

/-- TDEP sends its decrement; bits [63:32] of its register are ignored (log entry 153). -/
def opTdep (a imm : Nat) (y : Sync) : Op :=
  (Op.cmd .y y).atOnce y fun s =>
    let t := (s.me.s a).toNat % 2 ^ 32
    s.send (s.place (dieOf s.cur)) (s.place (taskDie t)) (.tdep t imm)

/-- TDEP_ARRIVAL: the decrement is applied as it reaches the scheduler. -/
def stepTdepArrival (n : Nat) (s : State) : State :=
  match s.msg n with
  | some ⟨_, _, .tdep t k⟩ => (s.taken n).decr t k
  | _ => s

/-! ## Suspension and exit (R191 to R194) -/

/-- The completions of the commands that a die still holds for a context's task: copies, remote commands, requests
outstanding, events, migrations, auctions and remote spawns. -/
def State.pendingDones (s : State) (k : Nat) : List Done :=
  let d := s.die (dieOf k)
  let all := (s.copies (dieOf k)).map (fun x => x.done) ++ (s.remotes (dieOf k)).map (fun x => x.done) ++
    d.outq.map (fun x => x.done) ++ d.outst.map (fun x => x.done) ++ d.evQ.map (fun x => x.done) ++ d.migrQ.map (fun x => x.done) ++
    d.apexQ.map (fun x => x.done) ++ (match d.apexRun with | some r => [r.cmd.done] | none => []) ++
    d.spawns.map (fun x => x.done) ++ s.preempts.map fun x => x.2
  all.filter fun x => x.of (s.ctx k).task

/-- Whether a context has nothing that R192 waits for, but for the commands of one handle. -/
def State.quiet (s : State) (k : Nat) (but : Option Nat) : Bool :=
  let c := s.ctx k
  !s.matBusy k && c.latches.isEmpty &&
    ((s.pendingDones k).all fun d => but.isSome && d.hnd == but) &&
    ((List.range 16).all fun h => but == some h || (c.h h).rem == (c.h h).out) &&
    !(s.die (dieOf k)).permitWaits.any fun x => x.task == c.task

/-- The bits set of a word, from bit `i` up, with `n` to go. -/
def bitList (v : Word) : List Nat := (List.range 64).filter fun i => v.getLsbD i

/-- Whether a match entry lies in a virtual device's bounds (MATBND). -/
def State.matOk (s : State) (k i : Nat) : Bool :=
  let b := s.bound (dieOf k) (s.vdOf k) boundMat
  decide (b.1 ≤ i) && decide (i < b.2) && decide (i < 512)

/-- The traps of R191. -/
def suspTrap (kind obj a b : Nat) (s : State) : Option Trap :=
  let live := s.me.s a
  if live.getLsbD 0 || decide (16 < (bitList live).length) then some (Slot.y.trap .regRange 0 0)
  else if (s.me.s b).getLsbD 0 then some (Slot.y.trap .align 0 (s.me.s b))
  else if kind = 2 ∧ s.matOk s.cur (s.me.s obj).toNat = false then some (Slot.y.trap .regRange 0 0)
  else none

/-- A suspension: `obj` is the handle, or the register of the match entry for `.m`. -/
def suspOp (kind obj a b : Nat) (y : Sync) : Op :=
  { (Op.cmd .y y).atOnce y (fun s =>
      s.modMe fun c => { c with st := .leaving (some ⟨kind, if kind = 2 then (c.s obj).toNat else obj, c.s a, c.s b⟩) }) with
    ready := fun s => s.quiet s.cur (if kind = 2 then none else some obj)
    addr := suspTrap kind obj a b }

def opTsuspL (h a b : Nat) (y : Sync) : Op := suspOp 0 h a b y
def opTsuspR (h a b : Nat) (y : Sync) : Op := suspOp 1 h a b y
def opTsuspM (c a b : Nat) (y : Sync) : Op := suspOp 2 c a b y

def opTexit (y : Sync) : Op :=
  { (Op.cmd .y y).atOnce y (fun s => s.modMe fun c => { c with st := .leaving none }) with
    ready := fun s => s.quiet s.cur none }

/-- A match entry. -/
def State.mat (s : State) (die i : Nat) : Match := tget Match.reset (s.die die).matches_ i

/-- The state with a match entry replaced. -/
def State.setMat (s : State) (die i : Nat) (m : Match) : State :=
  s.modDie die fun d => { d with matches_ := tput d.matches_ i m }

/-- The record that a suspension writes (R193): VAL names nothing beyond the registers of LIVE (log entry 138). -/
def suspRec (r : Rec) (c : Ctx) (u : Susp) : Rec :=
  let h := if u.kind < 2 then c.h u.obj else .reset
  { r with
    st := 4, pc := u.pc, live := u.live, dep := 1
    vals := (bitList u.live).map c.s
    wkind := u.kind, himg := h, hnum := if u.kind < 2 then u.obj else 0, wobj := if u.kind = 2 then u.obj else 0
    at_ := .nowhere }

/-- A context free, with its allotments returned (R18). -/
def State.freeCtx (s : State) (k : Nat) : State := s.setCtx k Ctx.reset

/-- A suspension's record written, its condition judged as it stands. A `.m` entry that is no longer armed has fired. A task of a
cancelled job that was running when the cancel came is not discarded as it suspends (log entry 150). -/
def State.suspend (s : State) (k : Nat) (u : Susp) : State :=
  let c := s.ctx k
  let die := dieOf k
  let idx := taskIdx c.task
  let r := suspRec (s.trec die idx) c u
  let s1 := (s.setRec die idx r).freeCtx k
  if u.kind < 2 then (if suspDone u.kind r.himg then s1.decr c.task 1 else s1)
  else
    let m := s1.mat die u.obj
    if m.armed then s1.setMat die u.obj { m with act := .decr c.task } else s1.decr c.task 1

/-- The end of a context that leaves its task, once every result in flight has been written (R192 to R194). -/
def State.leave (s : State) (k : Nat) : State :=
  let c := s.ctx k
  match c.st with
  | .leaving none =>
    let r := s.trec (dieOf k) (taskIdx c.task)
    ((s.endRec (dieOf k) (taskIdx c.task)).partAdd (dieOf k) r.vd r.job (-1)).freeCtx k
  | .leaving (some u) => s.suspend k u
  | _ => s

/-! ## Arrival match entries (R195, R196) -/

/-- The entry that TMATCH names. -/
def matEntry (v : Word) : Nat := bitsOf v 8 0

/-- The traps of TMATCH: reserved bits, the entry, the count, and the semaphore of the .s form. -/
def matTrap (sem : Bool) (a b c : Nat) (s : State) : Option Trap :=
  let v := s.me.s a
  if bitsOf v 63 44 ≠ 0 ∨ bitsOf v 31 24 ≠ 0 ∨ bitsOf v 15 9 ≠ 0 then some (Slot.y.trap .illegalBundle 0 0)
  else if s.matOk s.cur (matEntry v) = false then some (Slot.y.trap .regRange 0 0)
  else if bitsOf (s.me.s b) 31 0 = 0 then some (Slot.y.trap .illegalBundle 0 0)
  else if sem = true ∧ s.me.hasSem ((s.me.s c).toNat % 256) = false then some (Slot.y.trap .regRange 0 0)
  else none

/-- TMATCH: it blocks while the entry is armed. -/
def matOpOf (sem : Bool) (a b c : Nat) (y : Sync) : Op :=
  { (Op.cmd .y y).atOnce y (fun s =>
      let v := s.me.s a
      let act : MatchAct :=
        if sem then .sem (coreOf s.cur) (s.me.sbase + (s.me.s c).toNat % 256) else .decr ((s.me.s c).toNat % 2 ^ 32)
      s.setMat (dieOf s.cur) (matEntry v) ⟨true, bitsOf v 23 16, bitsOf v 43 32, bitsOf (s.me.s b) 31 0, 0, act⟩) with
    ready := fun s => (matTrap sem a b c s).isSome || !(s.mat (dieOf s.cur) (matEntry (s.me.s a))).armed
    addr := matTrap sem a b c }

def opTmatch (a b c : Nat) (y : Sync) : Op := matOpOf false a b c y
def opTmatchS (a b c : Nat) (y : Sync) : Op := matOpOf true a b c y

/-- The action of a match entry that fires. A task of another die, which R195 does not provide for, is decremented as one of the own
die is (log entry 148). -/
def State.matFire (s : State) (act : MatchAct) : State :=
  match act with
  | .decr t => s.decr t 1
  | .sem core n => s.semUpd core (.add n 1)

/-- `n` bytes of a put or accumulate counted for a tag and a window: into the armed entries that match, or into the
window's unmatched-byte counter (WUNM, R196, R246). -/
def State.matCount (s : State) (die win tag n : Nat) : State :=
  let hits := (s.die die).matches_.filter fun e => e.2.armed && e.2.win == win && e.2.tag == tag
  if hits.isEmpty then s.bumpDreg die 4 (0x28 + 8 * win) n
  else hits.foldl (fun t e =>
    let got := e.2.got + n
    if e.2.count ≤ got then (t.setMat die e.1 Match.reset).matFire e.2.act
    else t.setMat die e.1 { e.2 with got := got }) s

/-! ## Jobs (R197 to R200) -/

def opTcancel (a : Nat) (y : Sync) : Op :=
  (Op.cmd .y y).atOnce y fun s =>
    let job := (s.me.s a).toNat % 2 ^ 32
    (List.range 16).foldl (fun t d => t.send (t.place (dieOf s.cur)) (t.place d) (.cancel job (s.vdOf s.cur))) s

/-- CANCEL_ARRIVAL: the bit is set, and every waiting, suspended or ready task of the job here is discarded. -/
def stepCancelArrival (n : Nat) (s : State) : State :=
  match s.msg n with
  | some ⟨_, dst, .cancel job vd⟩ =>
    let die := dst % 16
    if !s.jobRoom die job then s
    else
      let s1 := ((s.taken n).jobEnsure die vd job).modJob die job fun j => { j with cancel := true }
      ((s1.die die).recs.filter fun e => e.2.job == job && (e.2.st == 1 || e.2.st == 2 || e.2.st == 4)).foldl
        (fun t e => t.discard die e.1) s1
  | _ => s

/-- JOB_JOIN_NOTICE: the home die adds a member. -/
def stepJobJoinNotice (n : Nat) (s : State) : State :=
  match s.msg n with
  | some ⟨_, dst, .join job m vd⟩ =>
    let die := dst % 16
    if !s.jobRoom die job then s
    else ((s.taken n).jobEnsure die vd job).modJob die job fun j => { j with mask := Nat.lor j.mask (2 ^ m) }
  | _ => s

/-- The members of a mask. -/
def maskDies (mask : Nat) : List Nat := (List.range 16).filter fun d => mask.testBit d

/-- What a wave finds at a member: PART and CHG. -/
def State.waveAt (s : State) (job d : Nat) : Int × Nat :=
  match s.job d job with
  | some j => (j.part, j.chg)
  | none => (0, 0)

/-- DISC at a member. -/
def State.discAt (s : State) (job d : Nat) : Nat := match s.job d job with | some j => j.disc | none => 0

/-- One wave of a home die (R199): the job is declared complete when it finds what the last one found, with no member
added and every PART 0. -/
def State.wave (s : State) (die job : Nat) : State :=
  match s.job die job with
  | none => s
  | some j =>
    let ds := maskDies j.mask
    let found := ds.map (s.waveAt job)
    let now := j.wave == some (j.mask, found) && found.all fun e => e.1 == 0
    let sum := ds.foldl (fun t d => t + s.discAt job d) 0
    let s1 := s.modJob die job fun x =>
      { x with wave := some (j.mask, found), sumDisc := sum % 2 ^ 32, done := x.done || now }
    if now && !j.done then ds.foldl (fun t d => t.send (t.place die) (t.place d) (.jobDone job)) s1 else s1

/-- The word that TJOBQ reads. -/
def State.jobWord (s : State) (die job : Nat) : Nat :=
  match s.job die job with
  | none => 0
  | some j => (if j.done then 2 ^ 63 else 0) + (if j.cancel then 2 ^ 62 else 0) + j.sumDisc % 2 ^ 32

/-- Whether a message asks a die for a job. -/
def isJobAsk (place job : Nat) (m : Msg) : Bool :=
  m.dst == place && match m.body with | .jobAsk j _ _ => j == job | _ => false

/-- Whether a message is a join notice of a job to a place. -/
def isJoin (place job : Nat) (m : Msg) : Bool := m.dst == place && match m.body with | .join j _ _ => j == job | _ => false

/-- The join notices of a job that are on their way to its home die reach it: no wave leaves out a die that has taken work of the
job (R199; log entry 141). `n` bounds them. -/
def State.joinsIn (s : State) (die job : Nat) : Nat → State
  | 0 => s
  | n + 1 =>
    match s.wire.findIdx? (isJoin (s.place die) job) with
    | some i => (stepJobJoinNotice i s).joinsIn die job n
    | none => s

/-- JOB_WAVE: a wave of the home die, and the answers to those who asked. With `asked` 1 it is the wave of a TJOBQ, which
comes when a question is there. -/
def stepJobWave (die job asked : Nat) (s : State) : State :=
  if asked = 1 ∧ s.wire.any (isJobAsk (s.place die) job) = false then s
  else
  let s1 := (s.joinsIn die job s.wire.length).wave die job
  let p := s1.place die
  let v := s1.jobWord die job
  let answers := (s1.wire.filter (isJobAsk p job)).filterMap fun m =>
    match m.body with
    | .jobAsk _ ctx id => some (⟨p, m.src, .jobAnswer ctx id v⟩ : Msg)
    | _ => none
  { s1 with wire := (s1.wire.filter fun m => !isJobAsk p job m) ++ answers }

/-- JOB_DONE_NOTICE: a member frees its entry. -/
def stepJobDoneNotice (n : Nat) (s : State) : State :=
  match s.msg n with
  | some ⟨_, dst, .jobDone job⟩ =>
    (s.taken n).modDie (dst % 16) fun d => { d with jobs := d.jobs.filter fun j => j.num != job }
  | _ => s

/-- TJOBQ: the question is sent once, and the bundle is blocked until the answer has come. -/
def opTjobq (c a : Nat) (y : Sync) : Op :=
  { (Op.cmd .y y).atOnce y (fun s =>
      let v := match s.me.ask with | some x => x.answer.getD 0 | none => 0
      (s.pushS c (BitVec.ofNat 64 v) 2 .y).modMe fun x => { x with ask := none }) with
    dests := fun _ => [.sreg c]
    ready := fun s => match s.me.ask with | some x => x.answer.isSome | none => false
    probe := fun s =>
      if s.me.ask.isSome then s
      else
        let job := (s.me.s a).toNat % 2 ^ 32
        let f := s.fresh
        (f.2.modMe fun x => { x with ask := some ⟨f.1, none⟩ }).send (s.place (dieOf s.cur)) (s.place (jobHome job))
          (.jobAsk job s.cur f.1) }

/-- TJOBQ_ANSWER: the answer reaches the context that asked. -/
def stepTjobqAnswer (n : Nat) (s : State) : State :=
  match s.msg n with
  | some ⟨_, _, .jobAnswer ctx id v⟩ =>
    (s.taken n).modCtx ctx fun c => match c.ask with
      | some x => if x.subj = id then { c with ask := some { x with answer := some v } } else c
      | none => c
  | _ => s

/-! ## Dispatch (R17, R23, R187) -/

/-- Whether a run is free of the allotments of a core's contexts. -/
def State.runFree (s : State) (core lo n : Nat) (f : Ctx → Nat × Nat) : Bool :=
  n == 0 || !(ctxsOf core).any fun k =>
    let c := s.ctx k
    c.st != .free && overlaps lo n (f c).1 ((f c).2 - (f c).1)

/-- The lowest run of rows that fits, by its first row. -/
def State.rowRun (s : State) (core rows : Nat) : Option Nat :=
  ((List.range 17).map fun i => 64 * i).find? fun b =>
    decide (b + 64 * rows ≤ 1024) && s.runFree core b (64 * rows) fun c => (c.vbase, c.vlim)

/-- The lowest run of semaphores that fits. -/
def State.semRun (s : State) (core n : Nat) : Option Nat :=
  (List.range 257).find? fun b => decide (b + n ≤ 256) && s.runFree core b n fun c => (c.sbase, c.slim)

/-- The rows of a core that no context holds. -/
def State.rowsLeft (s : State) (core : Nat) : Nat :=
  1024 - ((ctxsOf core).foldl (fun t k => if (s.ctx k).st == .free then t else t + ((s.ctx k).vlim - (s.ctx k).vbase)) 0)

/-- Whether a reset under way covers a core of the die, whose cluster a virtual device owns (R358). -/
def ResetReq.covers (x : ResetReq) (core : Nat) (owner : Option Nat) : Bool :=
  if x.scope = 1 then x.target / 4 % 64 == core else if x.scope = 2 then x.target / 16 % 16 == core / 4
  else if x.scope = 3 then owner == some x.vd else true

/-- Whether a core of the die can hold a record's task: its cluster is named, presented and owned, and no reset of it is
under way. -/
def State.eligible (s : State) (die : Nat) (r : Rec) (core : Nat) : Bool :=
  r.aff.testBit (core / 4) && decide (core / 4 < s.nclus die) && s.ownerOf die (core / 4) == some r.vd &&
    !(s.die die).resets.any fun x => x.covers core (s.ownerOf die (core / 4))

/-- Whether a core has a free context and the runs that a record asks for. -/
def State.fits (s : State) (die : Nat) (r : Rec) (core : Nat) : Bool :=
  ((ctxsOf (64 * die + core)).any fun k => (s.ctx k).st == .free) &&
    (s.rowRun (64 * die + core) r.rows).isSome && (s.semRun (64 * die + core) r.sems).isSome

/-- The cores on which a record's task may be placed now: eligible, fitting, and reserved for no other task; a task with
a reservation goes to the core that it reserves. -/
def State.placesFor (s : State) (die idx : Nat) : List Nat :=
  let r := s.trec die idx
  (List.range 64).filter fun core => s.eligible die r core && s.fits die r core &&
    (s.die die).resv.all fun e => if e.1 = idx then e.2 == core else e.2 != core

/-- The oldest ready record of a level. -/
def State.headOf (s : State) (die level : Nat) : Option Nat :=
  let l := (s.die die).recs.filter fun e => e.2.st == 2 && e.2.level == level
  (l.find? fun e => l.all fun x => decide (e.2.since ≤ x.2.since)).map fun e => e.1

/-- Whether a record's task may be dispatched now: it is the oldest of its level, and no higher level's oldest task can
be placed. -/
def State.mayDispatch (s : State) (die idx : Nat) : Bool :=
  let r := s.trec die idx
  s.headOf die r.level == some idx &&
    [1, 2, 3].all fun l => decide (l ≤ r.level) ||
      match s.headOf die l with | some i => (s.placesFor die i).isEmpty | none => true

/-- The registers that a record's values go to. -/
def loadRegs (live : Word) (vals : List Word) : Tbl Word :=
  let ns := if live = 0 then (List.range 16).map (· + 1) else bitList live
  (ns.zip vals).foldl (fun t e => tput t e.1 e.2) []

/-- The context that a dispatch makes (R187). -/
def dispatchCtx (r : Rec) (task vb sb : Nat) : Ctx :=
  { Ctx.reset with
    st := .running, task := task, job := r.job, pc := r.pc
    sregs := loadRegs r.live r.vals
    hnd := if r.himg = .reset then [] else [(r.hnum, r.himg)]
    vbase := vb, vlim := vb + 64 * r.rows, sbase := sb, slim := sb + r.sems }

/-- The semaphores of a run at 0 (R172). -/
def clearSems (t : Tbl Nat) (lo n : Nat) : Tbl Nat := t.filter fun e => !(decide (lo ≤ e.1) && decide (e.1 < lo + n))

/-- TASK_DISPATCH: the scheduler places a ready task on a context that it picks among those R17 allows. -/
def stepTaskDispatch (die idx core ctx : Nat) (s : State) : State :=
  let r := s.trec die idx
  let ck := 64 * die + core
  let k := 4 * ck + ctx % 4
  if s.mayDispatch die idx && (s.placesFor die idx).contains core && (s.ctx k).st == .free then
    match s.rowRun ck r.rows, s.semRun ck r.sems with
    | some vb, some sb =>
      let t := taskId die r.gen idx
      let c := { dispatchCtx r t vb sb with synced := s.clock, before := s.requestsOf die t }
      let s1 := (s.setCtx k c).setRec die idx { r with st := 3, at_ := .onCtx k, himg := .reset }
      let s2 := s1.modCore ck fun x => { x with sems := clearSems x.sems sb r.sems }
      s2.modDie die fun d => { d with resv := tdel d.resv idx }
    | _, _ => s
  else s

/-- TASK_PRIORITY_RISE (R23): a ready task that has waited 65,536 cycles since it became ready or last rose is one level
higher. -/
def stepTaskPriorityRise (die idx : Nat) (s : State) : State :=
  let r := s.trec die idx
  if r.st = 2 ∧ r.level < 3 ∧ 65536 ≤ s.clock - r.waited then s.setRec die idx { r with level := r.level + 1, waited := r.waited + 65536 } else s

/-- The first of the cores with the most unallotted rows. -/
def State.roomiest (s : State) (die : Nat) (l : List Nat) : Option Nat :=
  l.find? fun c => l.all fun x => decide (s.rowsLeft (64 * die + x) ≤ s.rowsLeft (64 * die + c))

/-- The reservations of R23 as a cycle ends: each ends with its task, and one is made when the oldest ready task of the
highest nonempty level has none and finds no eligible core with room that no other task has reserved. -/
def State.reserve (s : State) (die : Nat) : State :=
  let keep := (s.die die).resv.filter fun e => (s.trec die e.1).st == 2
  let new := match [3, 2, 1, 0].findSome? (s.headOf die) with
    | none => keep
    | some i =>
      let l := (List.range 64).filter fun c => s.eligible die (s.trec die i) c && keep.all fun e => e.2 != c
      if thas keep i || l.any (s.fits die (s.trec die i)) then keep
      else match s.roomiest die l with | some c => tput keep i c | none => keep
  if new = (s.die die).resv then s else s.modDie die fun d => { d with resv := new }

/-- The meaning of `tspawn`: it issues, blocks or traps as a bundle of its own (`opTspawn`). -/
def execTspawn (c : Nat) (a : Nat) (y : Sync) (s : State) : Host.Outcome State Fault Refusal :=
  .next (issue [opTspawn c a y] s)

/-- The meaning of `tspawnR`: it issues, blocks or traps as a bundle of its own (`opTspawnR`). -/
def execTspawnR (c : Nat) (a : Nat) (b : Nat) (y : Sync) (s : State) : Host.Outcome State Fault Refusal :=
  .next (issue [opTspawnR c a b y] s)

/-- The meaning of `tdep`: it issues, blocks or traps as a bundle of its own (`opTdep`). -/
def execTdep (a : Nat) (imm : Nat) (y : Sync) (s : State) : Host.Outcome State Fault Refusal :=
  .next (issue [opTdep a imm y] s)

/-- The meaning of `tsuspL`: it issues, blocks or traps as a bundle of its own (`opTsuspL`). -/
def execTsuspL (h : Nat) (a : Nat) (b : Nat) (y : Sync) (s : State) : Host.Outcome State Fault Refusal :=
  .next (issue [opTsuspL h a b y] s)

/-- The meaning of `tsuspR`: it issues, blocks or traps as a bundle of its own (`opTsuspR`). -/
def execTsuspR (h : Nat) (a : Nat) (b : Nat) (y : Sync) (s : State) : Host.Outcome State Fault Refusal :=
  .next (issue [opTsuspR h a b y] s)

/-- The meaning of `tsuspM`: it issues, blocks or traps as a bundle of its own (`opTsuspM`). -/
def execTsuspM (c : Nat) (a : Nat) (b : Nat) (y : Sync) (s : State) : Host.Outcome State Fault Refusal :=
  .next (issue [opTsuspM c a b y] s)

/-- The meaning of `texit`: it issues, blocks or traps as a bundle of its own (`opTexit`). -/
def execTexit (y : Sync) (s : State) : Host.Outcome State Fault Refusal :=
  .next (issue [opTexit y] s)

/-- The meaning of `tmatch`: it issues, blocks or traps as a bundle of its own (`opTmatch`). -/
def execTmatch (a : Nat) (b : Nat) (c : Nat) (y : Sync) (s : State) : Host.Outcome State Fault Refusal :=
  .next (issue [opTmatch a b c y] s)

/-- The meaning of `tmatchS`: it issues, blocks or traps as a bundle of its own (`opTmatchS`). -/
def execTmatchS (a : Nat) (b : Nat) (c : Nat) (y : Sync) (s : State) : Host.Outcome State Fault Refusal :=
  .next (issue [opTmatchS a b c y] s)

/-- The meaning of `tcancel`: it issues, blocks or traps as a bundle of its own (`opTcancel`). -/
def execTcancel (a : Nat) (y : Sync) (s : State) : Host.Outcome State Fault Refusal :=
  .next (issue [opTcancel a y] s)

/-- The meaning of `tjobq`: it issues, blocks or traps as a bundle of its own (`opTjobq`). -/
def execTjobq (c : Nat) (a : Nat) (y : Sync) (s : State) : Host.Outcome State Fault Refusal :=
  .next (issue [opTjobq c a y] s)

/-- The meaning of `remoteSpawnArrival`: the step `stepRemoteSpawnArrival` on the operands that the state holds. -/
def execRemoteSpawnArrival (s : State) : Host.Outcome State Fault Refusal :=
  .next (stepRemoteSpawnArrival (s.arg 0) s)

/-- The meaning of `spawnAckArrival`: the step `stepSpawnAckArrival` on the operands that the state holds. -/
def execSpawnAckArrival (s : State) : Host.Outcome State Fault Refusal :=
  .next (stepSpawnAckArrival (s.arg 0) s)

/-- The meaning of `tdepArrival`: the step `stepTdepArrival` on the operands that the state holds. -/
def execTdepArrival (s : State) : Host.Outcome State Fault Refusal :=
  .next (stepTdepArrival (s.arg 0) s)

/-- The meaning of `cancelArrival`: the step `stepCancelArrival` on the operands that the state holds. -/
def execCancelArrival (s : State) : Host.Outcome State Fault Refusal :=
  .next (stepCancelArrival (s.arg 0) s)

/-- The meaning of `tjobqAnswer`: the step `stepTjobqAnswer` on the operands that the state holds. -/
def execTjobqAnswer (s : State) : Host.Outcome State Fault Refusal :=
  .next (stepTjobqAnswer (s.arg 0) s)

/-- The meaning of `jobJoinNotice`: the step `stepJobJoinNotice` on the operands that the state holds. -/
def execJobJoinNotice (s : State) : Host.Outcome State Fault Refusal :=
  .next (stepJobJoinNotice (s.arg 0) s)

/-- The meaning of `jobWave`: the step `stepJobWave` on the operands that the state holds. -/
def execJobWave (s : State) : Host.Outcome State Fault Refusal :=
  .next (stepJobWave (s.arg 0) (s.arg 1) (s.arg 2) s)

/-- The meaning of `jobDoneNotice`: the step `stepJobDoneNotice` on the operands that the state holds. -/
def execJobDoneNotice (s : State) : Host.Outcome State Fault Refusal :=
  .next (stepJobDoneNotice (s.arg 0) s)

/-- The meaning of `taskDispatch`: the step `stepTaskDispatch` on the operands that the state holds. -/
def execTaskDispatch (s : State) : Host.Outcome State Fault Refusal :=
  .next (stepTaskDispatch (s.arg 0) (s.arg 1) (s.arg 2) (s.arg 3) s)

/-- The meaning of `taskPriorityRise`: the step `stepTaskPriorityRise` on the operands that the state holds. -/
def execTaskPriorityRise (s : State) : Host.Outcome State Fault Refusal :=
  .next (stepTaskPriorityRise (s.arg 0) (s.arg 1) s)


end Sys2Proof.Machine
end

