-- ==== Sys2Proof/Machine/Hull.lean ====
section
/-! DEFINITION. Hull memory: views, coverage counts, pins and the Chord engine (R224 to R241). -/

namespace Sys2Proof.Machine

/-! ## Tables over the aperture (R224, R225) -/

/-- The level-3 entry of a VA, by its HBM offset, or the first entry above it that is invalid, a leaf or breaks R205. -/
def State.hullPte (s : State) (die vd va : Nat) : Except Nat Nat :=
  let t := (s.reg die vd 2 0).toNat
  if !s.inTables die vd t 8192 then .error t
  else
    let o1 := t + 8 * tableIndex 1 va
    let e1 := s.entry die o1
    let t2 := bitsOf e1 51 12 * 4096
    if !leafV e1 || leafL e1 || nodeBad e1 || !s.inTables die vd t2 4096 then .error o1
    else
      let o2 := t2 + 8 * tableIndex 2 va
      let e2 := s.entry die o2
      let t3 := bitsOf e2 51 12 * 4096
      if !leafV e2 || leafL e2 || nodeBad e2 || !s.inTables die vd t3 4096 then .error o2
      else .ok (t3 + 8 * tableIndex 3 va)

/-- The first failing entry over the 32 MiB pieces of a run. -/
def State.hullBad (s : State) (die vd va n : Nat) : Option Nat :=
  (List.range ((va + n - 1) / 2 ^ 25 + 1 - va / 2 ^ 25)).findSome? fun i =>
    match s.hullPte die vd ((va / 2 ^ 25 + i) * 2 ^ 25) with
    | .error off => some off
    | .ok _ => none

/-- A hull leaf over a frame: V, L, TIER 0, H, R, W, E and PIN (R225). -/
def hullLeaf (frame : Nat) : Nat := frame * 65536 + 0xF13

/-! ## Views (R228, R229) -/

/-- A view's handle. -/
def viewHandle (gen idx : Nat) : Nat := gen * 2 ^ 14 + idx

/-- The generation after this one; it skips 0. -/
def nextGen (g : Nat) : Nat := if (g + 1) % 65536 = 0 then 1 else (g + 1) % 65536

/-- A view-table entry. -/
def State.view (s : State) (die i : Nat) : View := tget View.reset (s.die die).views i

/-- The state with a view-table entry replaced. -/
def State.setView (s : State) (die i : Nat) (v : View) : State :=
  s.modDie die fun d => { d with views := tput d.views i v }

/-- A region record. -/
def State.region (s : State) (die i : Nat) : Region := tget Region.reset (s.die die).regions i

/-- The state with a region record replaced. -/
def State.setRegion (s : State) (die i : Nat) (r : Region) : State :=
  s.modDie die fun d => { d with regions := tput d.regions i r }

/-- The entry that a handle in a register names; `none` is a stale handle. -/
def State.viewOf (s : State) (die vd : Nat) (w : Word) : Option Nat :=
  let i := bitsOf w 13 0
  let v := s.view die i
  if bitsOf w 63 30 = 0 ∧ v.live = true ∧ v.gen = bitsOf w 29 14 ∧ v.vd = vd ∧ i < 16128 then some i else none

/-- The granules that an interval meets. -/
def granulesOf (lo hi : Nat) : List Nat :=
  if lo < hi then (List.range ((hi - 1) / 65536 + 1 - lo / 65536)).map fun i => lo / 65536 + i else []

/-- Whether an interval is inside a view's. -/
def View.holds (v : View) (lo hi : Nat) : Bool := decide (v.lo ≤ lo) && decide (lo ≤ hi) && decide (hi ≤ v.hi)

/-- Whether some live view names a region. -/
def State.viewed (s : State) (die r : Nat) : Bool := (s.die die).views.any fun e => e.2.live && e.2.region == r

/-- The coverage count of a granule; every granule starts at 1 for the root view (R234). -/
def Region.count (r : Region) (g : Nat) : Nat := tget 1 r.cover g

/-- Whether a granule has been freed. -/
def Region.gone (r : Region) (g : Nat) : Bool := tget false r.freed g

/-- The granules of a region. -/
def Region.granules (r : Region) : Nat := r.len / 65536

/-- The hull pages a virtual device holds (HPUSED). -/
def State.hpused (s : State) (die vd : Nat) : Nat :=
  (s.die die).regions.foldl (fun t e =>
    if e.2.live && e.2.vd == vd then t + (e.2.granules - (e.2.freed.filter fun x => x.2).length) else t) 0

/-! ## Reclamation (R233 to R235) -/

/-- A region record freed when all its granules are and no live view names it. -/
def State.endRegion (s : State) (die r : Nat) : State :=
  let reg := s.region die r
  if reg.live && (List.range reg.granules).all reg.gone && !s.viewed die r then
    s.modDie die fun d => { d with regions := tdel d.regions r }
  else s

/-- GRANULE_FREE. -/
def State.freeGranule (s : State) (die r g : Nat) : State :=
  let reg := s.region die r
  let va := reg.base + 65536 * g
  let s0 := s.setRegion die r { reg with freed := tput reg.freed g true }
  match s.hullPte die reg.vd va with
  | .error off => s0.tableNode die reg.vd off
  | .ok pte =>
    let f := leafFrame (s.entry die pte)
    let s1 := (s0.writeNat (hbmKey die pte) 8 0).modDie die fun d =>
      { (d.tlbDrop reg.vd va 65536) with hfree := d.hfree ++ [f] }
    s1.endRegion die r

/-- A granule freed when its coverage and its pins are 0. -/
def State.freeIfDone (s : State) (die r g : Nat) : State :=
  let reg := s.region die r
  if reg.live && !reg.gone g && reg.count g == 0 && tget 0 reg.pins g == 0 then s.freeGranule die r g else s

/-- One more or one less view on a granule, as the delta queue sees it. -/
def State.coverBy (s : State) (die r : Nat) (up : Bool) (g : Nat) : State :=
  let reg := s.region die r
  let n := if up then reg.count g + 1 else reg.count g - 1
  (s.setRegion die r { reg with cover := tput reg.cover g n }).freeIfDone die r g

/-- CHORD_DELTA_APPLY: the oldest delta runs over its granules in increasing order. -/
def stepChordDeltaApply (die : Nat) (s : State) : State :=
  match (s.die die).deltas with
  | [] => s
  | d :: l =>
    let s1 := s.modDie die fun x => { x with deltas := l }
    (d.granules.foldl (fun t g => t.coverBy die d.region d.up g) s1).endRegion die d.region

/-- A delta queued by a context. -/
def State.pushDeltaOf (s : State) (k r : Nat) (up : Bool) (gs : List Nat) : State :=
  let die := dieOf k
  let n := (s.die die).deltaSeq
  (s.modDie die fun d => { d with deltas := d.deltas ++ [⟨n, r, up, gs⟩], deltaSeq := n + 1 }).modCtx k fun c =>
    { c with vwSeq := n + 1 }

/-- A delta queued by the acting context. -/
def State.pushDelta (s : State) (r : Nat) (up : Bool) (gs : List Nat) : State := s.pushDeltaOf s.cur r up gs

/-- Whether the delta queue has room (R226). -/
def State.deltaRoom (s : State) (die : Nat) : Bool := decide ((s.die die).deltas.length < 1024)

/-- Pins added to granules, each named by its region. -/
def State.pin (s : State) (die : Nat) (l : List (Nat × Nat)) : State :=
  l.foldl (fun t p =>
    let reg := t.region die p.1
    t.setRegion die p.1 { reg with pins := tput reg.pins p.2 (tget 0 reg.pins p.2 + 1) }) s

/-- Pins removed; a granule whose last pin goes with no view on it is freed. -/
def State.unpin (s : State) (die : Nat) (l : List (Nat × Nat)) : State :=
  l.foldl (fun t p =>
    let reg := t.region die p.1
    (t.setRegion die p.1 { reg with pins := tput reg.pins p.2 (tget 0 reg.pins p.2 - 1) }).freeIfDone die p.1 p.2) s

/-! ## Views in commands (R230, R231) -/

/-- The part of a range of VA that lies in the aperture, as first byte and byte after. -/
def State.inHull (s : State) (die vd va n : Nat) : Option (Nat × Nat) :=
  let ap := s.aperture die vd
  if s.meetsAperture die vd va n then some (max va ap.1, min (va + n) ap.2) else none

/-- The aperture parts of a command's ranges: those of KIND 0 on the own die. -/
def State.hullParts (s : State) (k : Nat) (l : List (Word × Nat)) : List (Nat × Nat) :=
  l.filterMap fun e =>
    if kindOf e.1 = 0 ∧ s.ownDie (dieOf k) e.1 = true then s.inHull (dieOf k) (s.vdOf k) (lowOf e.1) e.2 else none

/-- VIEW_RANGE for a command that names no view. -/
def State.noViewTrap (s : State) (k : Nat) (l : List (Word × Nat)) : Option Cause :=
  if (s.hullParts k l).isEmpty then none else some .viewRange

/-- The checks of R231; a command with no view takes VIEW_RANGE for any aperture byte. -/
def State.viewTrap (s : State) (k : Nat) (h : Option Word) (l : List (Word × Nat)) : Option Cause :=
  match h with
  | none => s.noViewTrap k l
  | some w =>
    match s.viewOf (dieOf k) (s.vdOf k) w with
    | none => some .viewStale
    | some i =>
      let v := s.view (dieOf k) i
      let b := (s.region (dieOf k) v.region).base
      if (s.hullParts k l).all fun p => decide (b + v.lo ≤ p.1) && decide (p.2 ≤ b + v.hi) then none
      else some .viewRange

/-- The pins of a command that has passed: each granule its aperture bytes meet, once. -/
def State.viewPins (s : State) (k : Nat) (h : Option Word) (l : List (Word × Nat)) : List (Nat × Nat) :=
  match h with
  | none => []
  | some w =>
    match s.viewOf (dieOf k) (s.vdOf k) w with
    | none => []
    | some i =>
      let r := (s.view (dieOf k) i).region
      let b := (s.region (dieOf k) r).base
      (nub ((s.hullParts k l).map fun p => granulesOf (p.1 - b) (p.2 - b)).flatten).map fun g => (r, g)

/-! ## VWNEW (R238) -/

/-- The lowest VA of the aperture where a run is free of live regions. -/
def State.hullRun (s : State) (die vd n : Nat) : Option Nat :=
  let ap := s.aperture die vd
  let mine := (s.die die).regions.filter fun e => e.2.live && e.2.vd == vd
  let free := fun b => decide (ap.1 ≤ b) && decide (b + n ≤ ap.2) && !mine.any fun e => overlaps b n e.2.base e.2.len
  let cands := (ap.1 :: mine.map fun e => e.2.base + e.2.len).filter free
  cands.foldl (fun t b => match t with | none => some b | some x => some (min x b)) none

/-- The free view-table entries below 16,128. -/
def State.freeViews (s : State) (die : Nat) : List Nat := (List.range 16128).filter fun i => !(s.view die i).live

/-- The lowest free region record. -/
def State.freeRegion (s : State) (die : Nat) : Option Nat :=
  (List.range 4096).find? fun i => !(s.region die i).live

/-- What the Chord engine finds for a VWNEW: a code, a table fault, or the run and records it would take. -/
inductive HullAns where
  | code (n : Nat) | node (off : Nat) | run (va region : Nat)
  deriving DecidableEq, Repr

/-- The engine's checks, in order. -/
def State.hullAsk (s : State) (die vd : Nat) (len : Word) : HullAns :=
  let n := len.toNat
  let pages := n / 65536
  if n = 0 ∨ n % 65536 ≠ 0 ∨ 0xFFFF0000 < n then .code 1
  else if s.freeViews die = [] then .code 2
  else
    match s.freeRegion die with
    | none => .code 3
    | some r =>
      if s.hpfree die < pages ∨ (s.reg die vd 3 0x10).toNat < s.hpused die vd + pages then .code 4
      else
        match s.hullRun die vd n with
        | none => .code 5
        | some va =>
          match s.hullBad die vd va n with
          | some off => .node off
          | none => .run va r

/-- One hull page: a free frame, whichever the engine takes, zeroed and mapped. -/
def State.hullPage (s : State) (die vd va : Nat) : State :=
  match s.hullPte die vd va, (s.die die).hfree with
  | .ok pte, f :: l =>
    let fr := (f :: l).getD (Config.choice s.free % (l.length + 1)) f
    let s1 := ({ s with free := s.free + 1 }.modDie die fun d => { d with hfree := d.hfree.erase fr }).zeroPad
      (hbmKey die (fr * 65536)) 65536
    s1.writeNat (hbmKey die pte) 8 (hullLeaf fr)
  | _, _ => s

/-- A view made in an entry: its generation advances. -/
def State.takeView (s : State) (die i vd region lo hi : Nat) : State :=
  s.setView die i ⟨nextGen (s.view die i).gen, true, vd, region, lo, hi⟩

/-- A free entry below 16,128, whichever is taken. -/
def State.pickView (s : State) (die : Nat) : Option (Nat × State) :=
  match s.freeViews die with
  | [] => none
  | i :: l => some ((i :: l).getD (Config.choice s.free % (l.length + 1)) i, { s with free := s.free + 1 })

/-- The table entries above the hull leaves of a run. -/
def State.hullEntries (s : State) (die vd va n : Nat) : List Nat :=
  ((List.range ((va + n - 1) / 2 ^ 25 + 1 - va / 2 ^ 25)).map fun i =>
    (s.entriesOf die vd ((va / 2 ^ 25 + i) * 2 ^ 25)).take 2).flatten

/-- A successful VWNEW. The tables are read for the context (R331). -/
def State.hullNew (s0 : State) (die vd va r n c : Nat) : State :=
  let s := s0.checkEntries die s0.cur (s0.hullEntries die vd va n)
  let s1 := (List.range (n / 65536)).foldl (fun t i => t.hullPage die vd (va + 65536 * i)) s
  let s2 := s1.setRegion die r ⟨true, vd, va, n, [], [], []⟩
  match s2.pickView die with
  | none => s2
  | some (i, s3) =>
    let s4 := s3.takeView die i vd r 0 n
    s4.pushS c (BitVec.ofNat 64 (viewHandle (s4.view die i).gen i)) 2 .y

/-- A code written into a register after two cycles. -/
def State.negCode (s : State) (c n : Nat) : State := s.pushS c (BitVec.ofInt 64 (-(n : Int))) 2 .y

/-- The engine answers in the cycle that asks; a table fault kills the virtual device's contexts while the bundle is
blocked. -/
def opVwnew (c b : Nat) (y : Sync) : Op :=
  let ask := fun s : State => s.hullAsk (dieOf s.cur) (s.vdOf s.cur) (s.me.s b)
  { (Op.cmd .y y).atOnce y (fun s =>
      match ask s with
      | .code n => s.negCode c n
      | .node _ => s
      | .run va r => s.hullNew (dieOf s.cur) (s.vdOf s.cur) va r (s.me.s b).toNat c) with
    dests := fun _ => [.sreg c]
    ready := fun s => match ask s with | .node _ => false | _ => true
    probe := fun s => match ask s with | .node off => s.tableNode (dieOf s.cur) (s.vdOf s.cur) off | _ => s }

/-! ## The other view instructions (R239 to R241) -/

/-- lo and hi of an interval register. -/
def ivLo (w : Word) : Nat := bitsOf w 31 0
def ivHi (w : Word) : Nat := bitsOf w 63 32

/-- The view that an instruction's handle names. -/
def State.myView (s : State) (a : Nat) : Option Nat := s.viewOf (dieOf s.cur) (s.vdOf s.cur) (s.me.s a)

/-- VIEW_STALE, and VIEW_WIDEN when an interval is asked for. -/
def viewOpTrap (a : Nat) (iv : Option Nat) (s : State) : Option Trap :=
  match s.myView a with
  | none => some (Slot.y.trap .viewStale 0 0)
  | some i =>
    match iv with
    | none => none
    | some b =>
      if (s.view (dieOf s.cur) i).holds (ivLo (s.me.s b)) (ivHi (s.me.s b)) then none
      else some (Slot.y.trap .viewWiden 0 0)

/-- A view instruction: `need` says whether the view makes it queue a delta, `f` what it does to the view. -/
def viewOp (a : Nat) (iv : Option Nat) (y : Sync) (dests : List Dest) (need : State → Nat → Bool)
    (f : Nat → State → State) : Op :=
  { (Op.cmd .y y).atOnce y (fun s => match s.myView a with | some i => f i s | none => s) with
    dests := fun _ => dests
    ready := fun s => (viewOpTrap a iv s).isSome || s.deltaRoom (dieOf s.cur) ||
      match s.myView a with | some i => !need s i | none => true
    addr := viewOpTrap a iv }

def opVwdup (c a b : Nat) (y : Sync) : Op :=
  viewOp a (some b) y [.sreg c] (fun s _ => s.freeViews (dieOf s.cur) != []) fun i s =>
    let die := dieOf s.cur
    match s.pickView die with
    | none => s.negCode c 2
    | some (j, s1) =>
      let r := (s.view die i).region
      let lo := ivLo (s.me.s b)
      let hi := ivHi (s.me.s b)
      let s2 := (s1.takeView die j (s.vdOf s.cur) r lo hi).pushDelta r true (granulesOf lo hi)
      s2.pushS c (BitVec.ofNat 64 (viewHandle (s2.view die j).gen j)) 2 .y

/-- The granules that a narrowing to an interval lets go. -/
def View.lost (v : View) (lo hi : Nat) : List Nat :=
  (granulesOf v.lo v.hi).filter fun g => !(granulesOf lo hi).contains g

def opVwnar (a b : Nat) (y : Sync) : Op :=
  viewOp a (some b) y []
    (fun s i => (s.view (dieOf s.cur) i).lost (ivLo (s.me.s b)) (ivHi (s.me.s b)) != []) fun i s =>
    let die := dieOf s.cur
    let v := s.view die i
    let lo := ivLo (s.me.s b)
    let hi := ivHi (s.me.s b)
    let s1 := s.setView die i { v with lo := lo, hi := hi }
    if v.lost lo hi = [] then s1 else s1.pushDelta v.region false (v.lost lo hi)

def opVwdrop (a : Nat) (y : Sync) : Op :=
  viewOp a none y [] (fun _ _ => true) fun i s =>
    let die := dieOf s.cur
    let v := s.view die i
    (s.setView die i { v with live := false }).pushDelta v.region false (granulesOf v.lo v.hi)

/-- What VWQ reads of a view. -/
def State.viewWord (s : State) (die i sel : Nat) : Nat :=
  let v := s.view die i
  let r := s.region die v.region
  if sel = 0 then v.hi * 2 ^ 32 + v.lo else if sel = 1 then homeKey die 0 r.base else r.len

def opVwq (c a sel : Nat) (y : Sync) : Op :=
  viewOp a none y [.sreg c] (fun _ _ => false) fun i s =>
    s.pushS c (BitVec.ofNat 64 (s.viewWord (dieOf s.cur) i sel)) 2 .y

/-- VWSYNC: every delta that the context has queued has been applied; the engine frees as it applies. -/
def opVwsync (y : Sync) : Op :=
  { (Op.cmd .y y).atOnce y (fun s => s) with
    ready := fun s => (s.die (dieOf s.cur)).deltas.all fun d => decide (s.me.vwSeq ≤ d.seq) }

/-- The meaning of `vwnew`: it issues, blocks or traps as a bundle of its own (`opVwnew`). -/
def execVwnew (c : Nat) (b : Nat) (y : Sync) (s : State) : Host.Outcome State Fault Refusal :=
  .next (issue [opVwnew c b y] s)

/-- The meaning of `vwdup`: it issues, blocks or traps as a bundle of its own (`opVwdup`). -/
def execVwdup (c : Nat) (a : Nat) (b : Nat) (y : Sync) (s : State) : Host.Outcome State Fault Refusal :=
  .next (issue [opVwdup c a b y] s)

/-- The meaning of `vwnar`: it issues, blocks or traps as a bundle of its own (`opVwnar`). -/
def execVwnar (a : Nat) (b : Nat) (y : Sync) (s : State) : Host.Outcome State Fault Refusal :=
  .next (issue [opVwnar a b y] s)

/-- The meaning of `vwdrop`: it issues, blocks or traps as a bundle of its own (`opVwdrop`). -/
def execVwdrop (a : Nat) (y : Sync) (s : State) : Host.Outcome State Fault Refusal :=
  .next (issue [opVwdrop a y] s)

/-- The meaning of `vwq`: it issues, blocks or traps as a bundle of its own (`opVwq`). -/
def execVwq (c : Nat) (a : Nat) (sel : Nat) (y : Sync) (s : State) : Host.Outcome State Fault Refusal :=
  .next (issue [opVwq c a sel y] s)

/-- The meaning of `vwsync`: it issues, blocks or traps as a bundle of its own (`opVwsync`). -/
def execVwsync (y : Sync) (s : State) : Host.Outcome State Fault Refusal :=
  .next (issue [opVwsync y] s)

/-- The meaning of `chordDeltaApply`: the step `stepChordDeltaApply` on the operands that the state holds. -/
def execChordDeltaApply (s : State) : Host.Outcome State Fault Refusal :=
  .next (stepChordDeltaApply (s.arg 0) s)


end Sys2Proof.Machine
end

