-- ==== Sys2Proof/Machine/Tiers.lean ====
section
/-! DEFINITION. Tiers: frame pools, moves, demotion, MIGR, TLBINV, DIRTY and the region counters (R207, R213 to R223). -/

namespace Sys2Proof.Machine

/-! ## Pools (R214) -/

/-- The level of a size code. -/
def sizeLevel (size : Nat) : Nat := if size = 0 then 3 else if size = 1 then 2 else 1

/-- The 64 KiB units of a size code. -/
def sizeUnits (size : Nat) : Nat := pageSize (sizeLevel size) / 65536

/-- The size code of a level. -/
def levelSize (lvl : Nat) : Nat := 3 - lvl

/-- The free units of a tier's pool (FRFREE). -/
def State.frfree (s : State) (die tier : Nat) : Nat :=
  (s.die die).pool.foldl (fun t f => if f.tier = tier then t + sizeUnits f.size else t) 0

/-- LO and HI of a tier's watermark. -/
def State.waterLo (s : State) (die tier : Nat) : Nat := bitsOf (s.dreg die 2 (0x28 + 8 * tier)) 31 0
def State.waterHi (s : State) (die tier : Nat) : Nat := bitsOf (s.dreg die 2 (0x28 + 8 * tier)) 63 32

/-- Whether a tier's free count is below its nonzero LO. -/
def State.low (s : State) (die tier : Nat) : Bool :=
  decide (s.waterLo die tier ≠ 0) && decide (s.frfree die tier < s.waterLo die tier)

/-- A tier-full record (R212). -/
def tierFull (tier token : Nat) : List Byte := pfRec 0x11 0xFF 0xFF 0xFF 0xFF tier 0 0 token 0xFF 0 0

/-- The tiers that are being demoted after a change of a pool or a watermark: one starts below LO and ends at HI. -/
def State.demotions (s : State) (die : Nat) : List Nat :=
  [0, 1].filter fun t =>
    (s.low die t || (s.die die).demoting.contains t) && decide (s.frfree die t < s.waterHi die t)

/-- What follows a change of a pool or a watermark (R218): demotion starts or ends, and a fall of the cold tier below LO is
recorded once. -/
def State.poolCheck (s : State) (die : Nat) : State :=
  let fell := s.low die 2
  let was := (s.die die).coldFell
  let t := (s.die die).nextTok
  let s1 := s.modDie die fun d => { d with demoting := s.demotions die, coldFell := fell }
  if fell && !was then
    (s1.modDie die fun d => { d with nextTok := (t + 1) % 2 ^ 32 }).nonFatal die (tierFull 2 t)
  else s1

/-- Whether a frame meets the hull range, which is empty unless its BASE is below its LIM. -/
def State.meetsHull (s : State) (die frame units : Nat) : Bool :=
  let r := s.dreg die 3 0
  decide (bitsOf r 31 0 < bitsOf r 63 32) && overlaps frame units (bitsOf r 31 0) (bitsOf r 63 32 - bitsOf r 31 0)

/-- Whether a frame of HBM meets the table region of some virtual device. -/
def State.meetsAnyTables (s : State) (die frame units : Nat) : Bool :=
  [0, 1, 2, 3].any fun vd => s.meetsTables die vd (frame * 65536) (units * 65536)

/-- Whether a pushed frame is taken: R214 gives TIER 3 and SIZE 3 no meaning, and here such a frame is ignored (log entry 155). -/
def State.frameTaken (s : State) (die tier size frame : Nat) : Bool :=
  decide (tier < 3) && decide (size < 3) && decide (frame % sizeUnits size = 0) &&
    s.frameOk die tier frame (pageSize (sizeLevel size)) &&
    (tier != 0 || (!s.meetsAnyTables die frame (sizeUnits size) && !s.meetsHull die frame (sizeUnits size)))

/-- FRPUSH: a frame given to a tier's pool, unless it is refused. -/
def stepFrpush (die v : Nat) (s : State) : State :=
  let w : Word := BitVec.ofNat 64 v
  let tier := bitsOf w 63 62
  let size := bitsOf w 61 60
  let frame := bitsOf w 51 16
  if s.frameTaken die tier size frame then
    (s.modDie die fun d => { d with pool := d.pool ++ [⟨tier, size, frame⟩] }).poolCheck die
  else s

/-- TRG_WRITE: TRGBASE or TRGLIM (`lim`) of a virtual device is written; pooled frames now in the region leave their
pool. -/
def stepTrgWrite (die vd lim v : Nat) (s : State) : State :=
  let s1 := s.setReg die vd 2 (if lim = 0 then 0x08 else 0x10) (BitVec.ofNat 64 v &&& field 35 16)
  (s1.modDie die fun d => { d with
    pool := d.pool.filter fun f => !(f.tier == 0 && s1.meetsTables die vd (f.frame * 65536) (sizeUnits f.size * 65536)) }).poolCheck die

/-! ## Moves (R219, R220) -/

/-- A page as a walk finds it. -/
structure Page where
  vd : Nat
  lvl : Nat
  va : Nat
  pte : Nat
  leaf : Word
  deriving DecidableEq, Repr

/-- Whether a byte of a range of a virtual device's space lies in an open window of the die. -/
def State.meetsWindow (s : State) (die vd va n : Nat) : Bool :=
  (s.die die).wins.any fun e => e.2.live && e.2.vd == vd && kindOf e.2.base == 0 &&
    overlaps va n (lowOf e.2.base) e.2.len

/-- Whether a page is movable. -/
def State.movable (s : State) (die : Nat) (p : Page) : Bool :=
  leafV p.leaf && decide (leafTier p.leaf < 3) && !leafPin p.leaf && !leafMig p.leaf &&
    !(leafTier p.leaf == 0 && s.meetsAnyTables die (leafFrame p.leaf) (pageSize p.lvl / 65536)) &&
    !s.meetsWindow die p.vd p.va (pageSize p.lvl)

/-- The home of a frame of a tier. -/
def frameHome (die tier frame : Nat) : Nat :=
  if tier = 0 then hbmKey die (frame * 65536) else if tier = 1 then warmKey (frame * 65536) else coldKey (frame * 65536)

/-- Bytes of one range of memory written over another of the same size. -/
def memMove (m : List Host.Cell) (src dst n : Nat) : List Host.Cell :=
  (m.filter fun c => decide (src ≤ c.1) && decide (c.1 < src + n)).foldl (fun t c => memPut t (dst + (c.1 - src)) c.2)
    (m.filter fun c => !(decide (dst ≤ c.1) && decide (c.1 < dst + n)))

/-- A leaf with another frame and tier. -/
def leafAt (e : Word) (tier frame : Nat) : Word :=
  (e &&& ~~~(field 51 16 ||| field 3 2)) ||| BitVec.ofNat 64 (frame * 65536 + tier * 4)

/-- The pooled frames of a tier and size. -/
def State.framesOf (s : State) (die tier size : Nat) : List PoolFrame :=
  (s.die die).pool.filter fun f => f.tier == tier && f.size == size

/-- The uncorrectable chunks after a range has been copied: those of its source are so at their new home too (log entry 163). -/
def badMove (l : List Nat) (src dst n : Nat) : List Nat :=
  l.filter (fun c => !overlaps c (chunkSize c) dst n) ++
    (l.filter fun c => decide (src ≤ c) && decide (c < src + n)).map fun c => dst + (c - src)

/-- The machine checks of reading a range (R331). -/
def State.checkMove (s : State) (die who src n : Nat) : State :=
  s.checkAt die who ((s.bad.filter fun c => decide (src ≤ c) && decide (c < src + n)).map fun c => (c, 1))

/-- A page moved to a tier by whichever frame the engine takes; `none` when the pool has no frame of its size. -/
def State.move (s : State) (die : Nat) (p : Page) (tier : Nat) : Option State :=
  let size := levelSize p.lvl
  match s.framesOf die tier size with
  | [] => none
  | f :: l =>
    let fr := (f :: l).getD (Config.choice s.free % (l.length + 1)) f
    let n := pageSize p.lvl
    let old := leafFrame p.leaf
    let t0 := leafTier p.leaf
    let s1 : State := { s with
      free := s.free + 1
      mem := memMove s.mem (frameHome die t0 old) (frameHome die tier fr.frame) n
      bad := badMove s.bad (frameHome die t0 old) (frameHome die tier fr.frame) n }
    let s2 := s1.writeNat (hbmKey die p.pte) 8 (leafAt p.leaf tier fr.frame).toNat
    some ((s2.modDie die fun d =>
      { (d.tlbDrop p.vd p.va n) with pool := d.pool.erase fr ++ [⟨t0, size, old⟩] }).poolCheck die)

/-- The leaves of a virtual device's tables from a table of a level on, in rising VA. -/
def State.leavesFrom (s : State) (die vd base t : Nat) : Nat → List Page
  | 0 => []
  | n + 1 =>
    let lvl := 3 - n
    ((List.range (tableSize lvl / 8)).map fun i =>
      let off := t + 8 * i
      let e := s.entry die off
      let va := base + i * pageSize lvl
      if !leafV e then []
      else if leafL e then (if s.leafOk die vd lvl va e then [⟨vd, lvl, va, off, e⟩] else [])
      else
        let t' := bitsOf e 51 12 * 4096
        if n = 0 || nodeBad e || !s.inTables die vd t' (tableSize (lvl + 1)) then []
        else s.leavesFrom die vd va t' n).flatten

/-- The leaves of a virtual device's tables. -/
def State.leaves (s : State) (die vd : Nat) : List Page :=
  let t := (s.reg die vd 2 0).toNat
  if s.vdEn die vd && !(s.die die).deadVds.contains vd && s.inTables die vd t 8192 then s.leavesFrom die vd 0 t 3 else []

/-- Whether a page is demoted before another: the lower counter, then the lower RCI, virtual device and VA. -/
def State.before (s : State) (die : Nat) (p q : Page) : Bool :=
  let key := fun x : Page => [(s.dreg die 2 (0x58 + 8 * leafRci x.leaf)).toNat, leafRci x.leaf, x.vd, x.va]
  decide (key p ≤ key q)

/-- The page that demotion takes next from a tier: movable, with a frame of its size in the next tier down. -/
def State.victim (s : State) (die tier : Nat) : Option Page :=
  let l := (([0, 1, 2, 3].map (s.leaves die)).flatten).filter fun p =>
    leafTier p.leaf == tier && s.movable die p && !(s.framesOf die (tier + 1) (levelSize p.lvl)).isEmpty
  l.find? fun p => l.all (s.before die p)

/-- One page of automatic demotion (R218), from the tiers that are being demoted. -/
def State.demote (s : State) (die : Nat) : State :=
  match (s.die die).demoting.findSome? fun t => (s.victim die t).map fun p => (p, t) with
  | none => s
  | some (p, t) => ((s.checkMove die 4096 (frameHome die t (leafFrame p.leaf)) (pageSize p.lvl)).move die p (t + 1)).getD s

/-! ## MIGR (R221) -/

/-- The trap of a VA and a length operand that are multiples of units (R221, R223). -/
def State.vaTrap (s : State) (sl : Slot) (a len : Word) (unit : Nat) : Option Trap :=
  match s.checkAddr s.cur .copy a with
  | some .privilege => some (sl.trap .privilege 0 0)
  | some c => some (sl.trap c 0 a)
  | none =>
    if kindOf a ≠ 0 then some (sl.trap .addrClass 0 a)
    else if a.toNat % 65536 ≠ 0 then some (sl.trap .align 0 a)
    else if len.toNat % unit ≠ 0 ∨ 2 ^ 44 < lowOf a + len.toNat then some (sl.trap .addrClass 0 a)
    else none

/-- The traps of MIGR's operands, in order. -/
def migrTrap (a b c : Nat) (s : State) : Option Trap :=
  match s.vaTrap .c (s.me.s a) (s.me.s b) 65536 with
  | some t => some t
  | none => s.lsTrap .c (s.me.s c) 16 16

/-- A command of the C slot that enters a die's queue or a core's, counted on its handle when accepted. -/
def Op.queued (o : Op) (hnd : Option Nat) (y : Sync) (f : State → State) : Op :=
  { o with effect := fun s => (f (s.signalAccept y)).accept hnd }

def opMigr (a b c tier : Nat) (hnd : Option Nat) (y : Sync) : Op :=
  { (Op.cmd .c y).queued hnd y (fun s =>
      s.fresh.2.modDie (dieOf s.cur) fun d => { d with migrQ := d.migrQ ++
        [⟨s.fresh.1, s.vdOf s.cur, lowOf (s.me.s a), (s.me.s b).toNat, tier, lsKey (s.me.s c), 0, 0, 0, 0, s.done hnd y⟩] }) with
    ready := fun s => decide ((s.die (dieOf s.cur)).migrQ.length < 64) && !s.me.hndFull hnd
    addr := migrTrap a b c }

/-- The head of the migration queue replaced. -/
def State.setMigr (s : State) (die : Nat) (m : MigrCmd) : State :=
  s.modDie die fun d => { d with migrQ := match d.migrQ with | [] => [] | _ :: l => m :: l }

/-- The next page of a MIGR: moved, there already, or skipped. Its walk and its copy read for the command (R331). -/
def State.migrPage (s0 : State) (die : Nat) (m : MigrCmd) : State :=
  let va := m.va + m.next
  let s := s0.checkEntries die (s0.reader m.done) (s0.entriesOf die m.vd va)
  let after := fun lvl => pageBase lvl va + pageSize lvl - m.va
  match s.walk die m.vd va .none false with
  | .node off => s.tableNode die m.vd off
  | .fault _ lvl => s.setMigr die { m with next := after lvl, skipped := m.skipped + 1 }
  | .leaf lvl pte e =>
    let p : Page := ⟨m.vd, lvl, pageBase lvl va, pte, e⟩
    if !s.movable die p then s.setMigr die { m with next := after lvl, skipped := m.skipped + 1 }
    else if leafTier e = m.tier then s.setMigr die { m with next := after lvl, there := m.there + 1 }
    else
      match (s.checkMove die (s.reader m.done) (frameHome die (leafTier e) (leafFrame e)) (pageSize lvl)).move die p m.tier with
      | none => s.setMigr die { m with next := after lvl, skipped := m.skipped + 1 }
      | some s1 => s1.setMigr die { m with next := after lvl, moved := m.moved + 1 }

/-- A MIGR whose pages are done: its result is written and it completes. -/
def State.migrEnd (s : State) (die : Nat) (m : MigrCmd) : State :=
  let s1 := s.write m.slotAddr (leBytes m.moved 4 ++ leBytes m.there 4 ++ leBytes m.skipped 4 ++ zeros 4)
  (s1.modDie die fun d => { d with migrQ := d.migrQ.drop 1 }).finish m.done m.len 0

/-- MIGRATION_MOVE: one page of automatic demotion (`auto`), or the next page or the end of the head of the queue. A
command of a virtual device whose walks have stopped ends where it is. -/
def stepMigrationMove (die auto : Nat) (s : State) : State :=
  if auto = 1 then s.demote die
  else
    match (s.die die).migrQ with
    | [] => s
    | m :: _ =>
      if (s.die die).halted && m.moved + m.there + m.skipped == 0 then s
      else if m.len ≤ m.next ∨ (s.die die).deadVds.contains m.vd = true then s.migrEnd die m
      else s.migrPage die m

/-! ## TLBINV and DIRTY (R222, R223) -/

/-- TLBINV: the entries are removed at issue; no walk or translated access is under way between steps. -/
def opTlbinv (a b : Nat) (y : Sync) : Op :=
  { Op.supOnly ((Op.cmd .y y).atOnce y fun s =>
      s.modDie (dieOf s.cur) fun d => d.tlbDrop (s.vdOf s.cur) (lowOf (s.me.s a)) (s.me.s b).toNat) with
    addr := fun s => s.vaTrap .y (s.me.s a) (s.me.s b) 65536 }

def opTlbinvAll (y : Sync) : Op :=
  Op.supOnly ((Op.cmd .y y).atOnce y fun s =>
    s.modDie (dieOf s.cur) fun d => { d with tlb := d.tlb.filter fun x => x.vd != s.vdOf s.cur })

/-- The traps of DIRTY's operands: the bitmap lies in one pad. -/
def dirtyTrap (a b c : Nat) (s : State) : Option Trap :=
  match s.vaTrap .y (s.me.s a) (s.me.s b) 524288 with
  | some t => some t
  | none => s.lsTrap .y (s.me.s c) ((s.me.s b).toNat / 524288) 8

/-- The leaf that a granule lies in, when it is valid. -/
def State.pageAt (s : State) (die vd va : Nat) : Except Nat (Option Page) :=
  match s.walk die vd va .none false with
  | .leaf lvl pte e => .ok (some ⟨vd, lvl, pageBase lvl va, pte, e⟩)
  | .fault _ _ => .ok none
  | .node off => .error off

/-- D cleared in a leaf and in every TLB entry of it. -/
def State.clearD (s : State) (die : Nat) (p : Page) : State :=
  let e := s.entry die p.pte
  let s1 := s.writeNat (hbmKey die p.pte) 8 (e &&& ~~~field 5 5).toNat
  s1.modDie die fun d => { d with tlb := d.tlb.map fun x =>
    if x.vd = p.vd ∧ x.va = p.va ∧ x.lvl = p.lvl then { x with leaf := x.leaf &&& ~~~field 5 5 } else x }

/-- The dirty bits of `n` granules from a VA, or the table entry at which a walk failed. -/
def State.dirtyBits (s : State) (die vd va : Nat) : Nat → Except Nat (List (Bool × Option Page))
  | 0 => .ok []
  | n + 1 =>
    match s.pageAt die vd va with
    | .error off => .error off
    | .ok p =>
      match s.dirtyBits die vd (va + 65536) n with
      | .error off => .error off
      | .ok l => .ok ((match p with | some x => leafD x.leaf | none => false, p) :: l)

/-- Bits packed into bytes, the first in bit 0. -/
def packBits : List Bool → Nat
  | [] => 0
  | b :: l => (if b then 1 else 0) + 2 * packBits l

/-- DIRTY's effect: the bitmap is written, and unless KEEP every page found has D cleared. Its walks read for the context
(R331). -/
def dirtyRun (a b c : Nat) (keep : Bool) (s0 : State) : State :=
  let die := dieOf s0.cur
  let vd := s0.vdOf s0.cur
  let n := (s0.me.s b).toNat / 65536
  let s := s0.checkEntries die s0.cur ((List.range n).map fun i => s0.entriesOf die vd (lowOf (s0.me.s a) + 65536 * i)).flatten
  match s.dirtyBits die vd (lowOf (s.me.s a)) n with
  | .error off => s.tableNode die vd off
  | .ok l =>
    let s1 := s.writeNat (lsKey (s.me.s c)) (n / 8) (packBits (l.map fun e => e.1))
    if keep then s1 else (l.filterMap fun e => e.2).foldl (fun t p => t.clearD die p) s1

def dirtyOp (a b c : Nat) (keep : Bool) (y : Sync) : Op :=
  { Op.supOnly ((Op.cmd .y y).atOnce y (dirtyRun a b c keep)) with addr := dirtyTrap a b c }

def opDirty (a b c : Nat) (y : Sync) : Op := dirtyOp a b c false y
def opDirtyKeep (a b c : Nat) (y : Sync) : Op := dirtyOp a b c true y

/-! ## Region counters (R217) -/

/-- RCNT_DECAY: every counter of the die is halved. -/
def stepRcntDecay (die : Nat) (s : State) : State :=
  (List.range 4096).foldl (fun t i =>
    let v := t.dreg die 2 (0x58 + 8 * i)
    if v = 0 then t else t.setDreg die 2 (0x58 + 8 * i) (v >>> 1)) s

/-- The meaning of `migr`: it issues, blocks or traps as a bundle of its own (`opMigr`). -/
def execMigr (a : Nat) (b : Nat) (c : Nat) (tier : Nat) (hnd : Option Nat) (y : Sync) (s : State) : Host.Outcome State Fault Refusal :=
  .next (issue [opMigr a b c tier hnd y] s)

/-- The meaning of `tlbinv`: it issues, blocks or traps as a bundle of its own (`opTlbinv`). -/
def execTlbinv (a : Nat) (b : Nat) (y : Sync) (s : State) : Host.Outcome State Fault Refusal :=
  .next (issue [opTlbinv a b y] s)

/-- The meaning of `tlbinvAll`: it issues, blocks or traps as a bundle of its own (`opTlbinvAll`). -/
def execTlbinvAll (y : Sync) (s : State) : Host.Outcome State Fault Refusal :=
  .next (issue [opTlbinvAll y] s)

/-- The meaning of `dirty`: it issues, blocks or traps as a bundle of its own (`opDirty`). -/
def execDirty (a : Nat) (b : Nat) (c : Nat) (y : Sync) (s : State) : Host.Outcome State Fault Refusal :=
  .next (issue [opDirty a b c y] s)

/-- The meaning of `dirtyKeep`: it issues, blocks or traps as a bundle of its own (`opDirtyKeep`). -/
def execDirtyKeep (a : Nat) (b : Nat) (c : Nat) (y : Sync) (s : State) : Host.Outcome State Fault Refusal :=
  .next (issue [opDirtyKeep a b c y] s)

/-- The meaning of `frpush`: the step `stepFrpush` on the operands that the state holds. -/
def execFrpush (s : State) : Host.Outcome State Fault Refusal :=
  .next (stepFrpush (s.arg 0) (s.arg 1) s)

/-- The meaning of `trgWrite`: the step `stepTrgWrite` on the operands that the state holds. -/
def execTrgWrite (s : State) : Host.Outcome State Fault Refusal :=
  .next (stepTrgWrite (s.arg 0) (s.arg 1) (s.arg 2) (s.arg 3) s)

/-- The meaning of `migrationMove`: the step `stepMigrationMove` on the operands that the state holds. -/
def execMigrationMove (s : State) : Host.Outcome State Fault Refusal :=
  .next (stepMigrationMove (s.arg 0) (s.arg 1) s)

/-- The meaning of `rcntDecay`: the step `stepRcntDecay` on the operands that the state holds. -/
def execRcntDecay (s : State) : Host.Outcome State Fault Refusal :=
  .next (stepRcntDecay (s.arg 0) s)


end Sys2Proof.Machine
end

