-- ==== Sys2Proof/Machine/Space.lean ====
section
/-! DEFINITION. Reading the register space of control space (R353, R354): registers that report the state of a table are
computed when they are read. -/

namespace Sys2Proof.Machine

/-- The Apex queue entries that a virtual device holds (AQUSED, R351). -/
def State.aqused (s : State) (die vd : Nat) : Nat :=
  let d := s.die die
  d.apexQ.countP (fun x => x.vd == vd) + match d.apexRun with | some r => if r.cmd.vd = vd then 1 else 0 | none => 0

/-- CHAUDSTAT (R285). -/
def Audit.word (a : Audit) : Nat :=
  a.f % 512 * 2 ^ 29 + a.d % 512 * 2 ^ 20 + a.k % 512 * 2 ^ 11 + a.p % 512 * 4 + a.st % 4

/-- The four words of a channel's descriptor (R276); a free entry's are zero. -/
def Chan.desc (c : Chan) : List Nat :=
  if c.role = 0 then [0, 0, 0, 0]
  else
    [c.role + c.vd * 2 ^ 8 + c.ty * 2 ^ 16 + c.peer * 2 ^ 32 + c.peerch * 2 ^ 48, c.eps + c.depth * 2 ^ 16, c.ring.toNat, c.key]

/-- The eight bytes at an offset of CHANTAB. -/
def State.chantabAt (s : State) (die off : Nat) : Nat :=
  (tget Chan.reset (s.die die).chans ((off - 0xC000) / 32)).desc.getD ((off - 0xC000) / 8 % 4) 0

/-- The device's public key, 60 bytes and a zero word: the level count 2, big-endian, then the LMS public key (R363). -/
def publicKey : Nat := 0x02000000 + Config.publicKey % 2 ^ 448 * 2 ^ 32

/-- The registers of the die-wide copy that report the state of a table; `none` for every other. -/
def State.dieReport (s : State) (die block off : Nat) : Option Nat :=
  let d := s.die die
  match block, off with
  | 0, 0x100 => some (s.stage % 256 + s.fail % 256 * 256)
  | 0, 0x130 => some s.attleft
  | 1, 0x00 => some (d.recs.countP fun e => e.2.st != 0)
  | 1, 0x10 => some d.jobs.length
  | 2, 0x10 => some (s.frfree die 0)
  | 2, 0x18 => some (s.frfree die 1)
  | 2, 0x20 => some (s.frfree die 2)
  | 3, 0x08 => some (d.views.countP fun e => e.2.live)
  | 3, 0x10 => some d.deltas.length
  | 4, 0x00 => some (d.wins.countP fun e => e.2.live)
  | 5, 0x10 => some d.flows.length
  | 5, 0x18 => some (d.chans.countP fun e => e.2.role != 0)
  | 5, 0x30 => some d.audit.word
  | 0, n => if 0x140 ≤ n ∧ n < 0x180 then some (publicKey / 2 ^ (8 * (n - 0x140))) else none
  | 5, n => if 0xC000 ≤ n ∧ n < 0xE000 then some (s.chantabAt die n) else none
  | _, _ => none

/-- The registers of a virtual device's copy that report the state of a table. -/
def State.vdReport (s : State) (die vd block off : Nat) : Option Nat :=
  match block, off with
  | 3, 0x18 => some (s.hpused die vd)
  | 6, 0x08 => some (s.aqused die vd)
  | _, _ => none

/-- A read of the register space: an offset that names no register, and a write-only register, read zero. -/
def State.regRead (s : State) (die copy block off : Nat) : Word :=
  match regInfo copy block off with
  | none => 0
  | some r =>
    if r.acc = .wo ∨ (copy < 4 ∧ block = 0xFF) then 0
    else
      match (if copy < 4 then s.vdReport die copy block off else s.dieReport die block off) with
      | some v => BitVec.ofNat 64 v
      | none => s.reg die copy block off

/-- The copy, block and offset of a register-space address. -/
def copyField (a : Word) : Nat := a.toNat / 2 ^ 24 % 16
def blockField (a : Word) : Nat := a.toNat / 2 ^ 16 % 256
def offField (a : Word) : Nat := a.toNat % 65536

/-- Where CHANTAB0 lies in the register space. -/
def chantabLow : Nat := dieWide * 2 ^ 24 + 5 * 2 ^ 16 + 0xC000

/-- Whether an address lies in the register space, and in CHANTAB. -/
def isReg (a : Word) : Bool := kindOf a == 0xF && lowOf a / 2 ^ 40 == 0
def isChantab (a : Word) : Bool :=
  isReg a && copyField a == dieWide && blockField a == 5 && decide (0xC000 ≤ offField a) && decide (offField a < 0xE000)

/-- The eight bytes of a register. -/
def State.regBytes (s : State) (die : Nat) (a : Word) : List Byte :=
  leBytes (s.regRead die (copyField a) (blockField a) (offField a)).toNat 8

/-- Whether a register's fields are RO: a supervisor's write to it is ignored. PREEMPTLIM is no register of control
space. -/
def isRo (copy block off : Nat) : Bool :=
  (copy < 4 && block == 0xFF) || match regInfo copy block off with | some r => r.acc == .ro | none => false

/-- A write of a register by a supervisor of a virtual device, as the next event: CHANTAB takes 32 bytes at a time, and a
die-wide register is written only while DIEADM is set (R353). -/
def State.regPut (s : State) (die vd : Nat) (a : Word) (l : List Byte) : State :=
  if (copyField a = dieWide ∧ s.vdAdm die vd = false) ∨ isRo (copyField a) (blockField a) (offField a) = true then s
  else if isChantab a then
    s.next ⟨.chantabWrite, [die, (offField a - 0xC000) / 32, lnat l 0 8, lnat l 8 8, lnat l 16 8, lnat l 24 8]⟩
  else s.next ⟨.registerWrite, [die, copyField a, blockField a, offField a, lnat l 0 8]⟩

end Sys2Proof.Machine
end

