-- ==== Sys2Proof/Machine/Copy.lean ====
section
/-! DEFINITION. The copy queues and the copy engine (R156 to R169): acceptance with the checks of R158 and R230, the range
scoreboard, the engine's steps, page faults and the deferred-store log (R210, R211). -/

namespace Sys2Proof.Machine

/-! ## Operands (R158) -/

/-- An address operand: its class, the first byte and length of a range, its alignment, and the operand reported. -/
structure Opnd where
  cl : AddrClass
  a : Word
  n : Nat
  align : Nat
  rep : Word

/-- Whether a range of the register space, or its address alone, meets another virtual device's copy (R353). -/
def otherCopy (vd : Nat) (a : Word) (n : Nat) : Bool :=
  isReg a && (List.range 4).any fun j =>
    j != vd && decide (lowOf a < (j + 1) * 2 ^ 24) && decide (j * 2 ^ 24 < lowOf a + max n 1)

/-- Whether a range leaves the virtual device's bounds of the die pad, or its own copies of registers (R158, R353). -/
def State.outOfBounds (s : State) (k : Nat) (o : Opnd) : Bool :=
  let die := dieOf k
  (kindOf o.a == 0x8 && s.ownDie die o.a && decide (0 < o.n) && !s.inDpBound die (s.vdOf k) (offOf o.a) o.n) ||
    otherCopy (s.vdOf k) o.a o.n

/-- The first check of R158 on all operands of a command: R11 and R12, then the bounds. -/
def State.classTrap (s : State) (k : Nat) (l : List Opnd) : Option (Cause × Word) :=
  match s.addrsTrap k (l.map fun o => (o.cl, o.a, o.rep)) with
  | some e => some e
  | none => (l.find? (s.outOfBounds k)).map fun o => (.addrClass, o.rep)

/-- The bytes that a range of an address's kind can reach to. -/
def rangeEnd (a : Word) : Nat :=
  if kindOf a = 0xF then (if isReg a then 2 ^ 28 else 2 ^ 40 + 2 ^ 36) else spaceSize (kindOf a)

/-- The second check on a range: it lies in one pad or space. A host's address is checked like any other (log entry 128). -/
def Opnd.spaceTrap (o : Opnd) : Option (Cause × Word) :=
  let off := if kindOf o.a = 0xF then lowOf o.a else offOf o.a
  if rangeEnd o.a < off + o.n then some (.addrClass, o.rep) else none

/-- The second check on a range whose length is an operand's count: that is at most 2^32 − 1 as well. -/
def Opnd.rangeTrap (o : Opnd) : Option (Cause × Word) := if 2 ^ 32 ≤ o.n then some (.addrClass, o.rep) else o.spaceTrap

/-- Whether a range of the register space keeps the units of its registers: 8 bytes, and 32 where it meets CHANTAB (R353). -/
def regUnits (a : Word) (n : Nat) : Bool :=
  let lo := max (lowOf a) chantabLow
  let hi := min (lowOf a + n) (chantabLow + 0x2000)
  a.toNat % 8 == 0 && n % 8 == 0 && (decide (hi ≤ lo) || (lo % 32 == 0 && hi % 32 == 0))

/-- The third check: the alignment, and the units of the register space. -/
def Opnd.alignTrap (o : Opnd) : Option (Cause × Word) :=
  if o.a.toNat % o.align ≠ 0 ∨ (isReg o.a = true ∧ regUnits o.a o.n = false) then some (.align, o.rep) else none

/-- The checks of R158 on all operands, each check on all of them before the next. -/
def State.opndTrap (s : State) (k : Nat) (l : List Opnd) : Option (Cause × Word) :=
  match s.classTrap k l with
  | some e => some e
  | none =>
    match l.findSome? Opnd.rangeTrap with
    | some e => some e
    | none => l.findSome? Opnd.alignTrap

/-! ## Shapes -/

/-- The copies by what they do. -/
inductive CopyShape where
  | move | rows | cast (mask : Nat) | gather | scatter | fill | atom (op : AmoOp) (t : Ty) | join (mask : Nat) | other
  deriving DecidableEq, Repr

/-- The shape of an operation of a copy queue. -/
def shapeOf : Instr → CopyShape
  | .tmov _ _ _ _ _ => .move
  | .tmov2 _ _ _ _ _ => .rows
  | .tmcast _ _ _ _ mask _ => .cast mask
  | .tgath _ _ _ _ _ => .gather
  | .tscat _ _ _ _ _ => .scatter
  | .tfill _ _ _ _ _ => .fill
  | .camo op t _ _ _ _ _ => .atom op t
  | .qjoin mask _ => .join mask
  | _ => .other

/-- A command's operand values. -/
structure CopyVals where
  a : Word
  b : Word
  c : Word
  e : Word
  deriving DecidableEq, Repr

/-- The rows and the row length of a command. -/
def rowsOf (sh : CopyShape) (c : Word) : Nat :=
  match sh with
  | .move | .cast _ | .fill => if c = 0 then 0 else 1
  | .rows => if bitsOf c 31 0 = 0 then 0 else bitsOf c 63 32
  | .gather | .scatter => bitsOf c 63 32
  | .atom _ _ => 1
  | _ => 0
def rowLen (sh : CopyShape) (c : Word) : Nat :=
  match sh with
  | .move | .cast _ | .fill => c.toNat
  | .rows | .gather | .scatter => bitsOf c 31 0
  | .atom _ t => t.bytes
  | _ => 0

/-- A signed 32-bit stride, k times. -/
def strideBy (w : Word) (hi : Bool) (k : Nat) : Word :=
  BitVec.ofInt 64 (((if hi then w.extractLsb' 32 32 else w.extractLsb' 0 32).toInt) * k)

/-- The operands of a command that R158 checks, in its rule's order. -/
def copyOpnds (sh : CopyShape) (v : CopyVals) : List Opnd :=
  let n := rowsOf sh v.c
  let len := rowLen sh v.c
  match sh with
  | .move => [⟨.tmov, v.a, len, 1, v.a⟩, ⟨.tmov, v.b, len, 1, v.b⟩]
  | .rows => [⟨.copy, v.a, 0, 1, v.a⟩, ⟨.copy, v.b, 0, 1, v.b⟩] ++
      ((List.range n).map fun k =>
        [⟨.copy, v.a + strideBy v.e false k, len, 1, v.a⟩, ⟨.copy, v.b + strideBy v.e true k, len, 1, v.b⟩]).flatten
  | .cast _ => [⟨.copy, v.a, len, 1, v.a⟩, ⟨.copy, v.b, len, 1, v.b⟩]
  | .gather => [⟨.copy, v.a, n * len, 16, v.a⟩, ⟨.copy, v.b, 0, 16, v.b⟩, ⟨.copy, v.e, 4 * n, 4, v.e⟩]
  | .scatter => [⟨.copy, v.a, 0, 16, v.a⟩, ⟨.copy, v.b, n * len, 16, v.b⟩, ⟨.copy, v.e, 4 * n, 4, v.e⟩]
  | .fill => [⟨.copy, v.a, len, 1, v.a⟩]
  | .atom _ t => [⟨.ls, v.a, t.bytes, t.bytes, v.a⟩, ⟨.copy, v.b, t.bytes, t.bytes, v.b⟩]
  | _ => []

/-- The class checks that a command adds: TMCAST's destination and CAMO's location. -/
def shapeTrap (k : Nat) (sh : CopyShape) (v : CopyVals) : Option (Cause × Word) :=
  match sh with
  | .cast _ => if kindOf v.a ≠ 0xA ∨ aclusOf v.a ≠ clusOf k then some (.addrClass, v.a) else none
  | .atom _ _ => if kindOf v.b ≠ 0x8 ∧ kindOf v.b ≠ 0x0 then some (.addrClass, v.b) else none
  | _ => none

/-- The row length of TGATH and TSCAT is a nonzero multiple of 16. TRAPADDR is operand a's address (log entry 147). -/
def lenTrap (sh : CopyShape) (v : CopyVals) : Option (Cause × Word) :=
  if sh = .gather ∨ sh = .scatter then
    (if bitsOf v.c 31 0 = 0 ∨ bitsOf v.c 31 0 % 16 ≠ 0 then some (.align, v.a) else none)
  else none

/-- The checks of R158 on a command. -/
def State.copyTrap (s : State) (k : Nat) (sh : CopyShape) (v : CopyVals) : Option (Cause × Word) :=
  let l := copyOpnds sh v
  match s.classTrap k l with
  | some e => some e
  | none =>
    match shapeTrap k sh v with
    | some e => some e
    | none =>
      match l.findSome? (if sh = .gather ∨ sh = .scatter then Opnd.spaceTrap else Opnd.rangeTrap) with
      | some e => some e
      | none =>
        match lenTrap sh v with
        | some e => some e
        | none => l.findSome? Opnd.alignTrap

/-- The virtual ranges of a command, as R230 looks at them; the side that a TGATH or TSCAT reaches by index counts with the
byte at its address. -/
def copyRanges (sh : CopyShape) (v : CopyVals) : List (Word × Nat) :=
  ((copyOpnds sh v).map fun o => (o.a, o.n)) ++
    match sh with | .gather => [(v.b, 1)] | .scatter => [(v.a, 1)] | _ => []

/-- Whether a command can name a view (R230), and the handle it names. -/
def viewArg (sh : CopyShape) (e : Nat) (v : CopyVals) : Option Word :=
  match sh with
  | .move | .cast _ | .fill => if e = 0 then none else some v.e
  | _ => none

/-! ## The range scoreboard (R162) -/

/-- Whether an address lies in the own core's unit pad or the own cluster's cluster pad. -/
def ownPad (k : Nat) (a : Word) : Bool :=
  (kindOf a == 0xA && aclusOf a == clusOf k && acoreOf a == coreNo k) || (kindOf a == 0x9 && aclusOf a == clusOf k)

/-- A range widened to 64-byte boundaries; one of no bytes covers nothing. -/
def scoreOf (id lo n : Nat) : Score := if n = 0 then ⟨id, 2 ^ 70 + 1, 2 ^ 70⟩ else ⟨id, lo / 64 * 64, (lo + n - 1) / 64 * 64 + 63⟩

/-- The entry that a command takes, when it takes one. -/
def copyScore (k : Nat) (sh : CopyShape) (v : CopyVals) (id : Nat) : Option Score :=
  let n := rowsOf sh v.c
  let len := rowLen sh v.c
  match sh with
  | .move | .fill | .atom _ _ => if ownPad k v.a then some (scoreOf id (padKey v.a) len) else none
  | .gather => if ownPad k v.a then some (scoreOf id (padKey v.a) (n * len)) else none
  | .scatter => if ownPad k v.a then some (scoreOf id (padKey v.a) (spaceSize (kindOf v.a) - offOf v.a)) else none
  | .cast mask =>
    if mask.testBit (coreNo k) then
      some (scoreOf id (unitKey (dieOf k) (clusOf k) (coreNo k) (offOf v.a)) len)
    else none
  | .rows =>
    let l := ((List.range n).map fun i => v.a + strideBy v.e false i).filter (ownPad k)
    match l.map padKey with
    | [] => if ownPad k v.a then some (scoreOf id 0 0) else none
    | x :: t =>
      let lo := t.foldl min x
      some (scoreOf id lo (t.foldl max x + len - lo))
  | _ => none

/-! ## Acceptance (R156, R158, R230 to R233) -/

/-- A command's operand values from the registers it names. -/
def copyVals (a b c e : Nat) (x : Ctx) : CopyVals := ⟨x.s a, x.s b, x.s c, x.s e⟩

/-- A core's queue. -/
def Core.queue (c : Core) (q : Nat) : List CopyCmd := tget [] c.q q

/-- A core with a queue replaced. -/
def Core.setQueue (c : Core) (q : Nat) (l : List CopyCmd) : Core := { c with q := tput c.q q l }

/-- A command entered at the tail of its queue. -/
def State.enqueue (s : State) (core q : Nat) (x : CopyCmd) : State :=
  s.modCore core fun c => c.setQueue q (c.queue q ++ [x])

/-- Whether a queue of the acting context's core has room. -/
def State.queueRoom (s : State) (q : Nat) : Bool := decide (((s.core (coreOf s.cur)).queue q).length < 16)

/-- A command as it is accepted. -/
def newCmd (id : Nat) (i : Instr) (vd : Nat) (v : CopyVals) (bar : Word) (pins : List (Nat × Nat)) (d : Done) : CopyCmd :=
  { id := id, op := i, vd := vd, a := v.a, b := v.b, c := v.c, e := v.e, bar := bar, row := 0, rd := 0, wr := 0, buf := [],
    idx := none, headAt := none, hold := none, pins := pins, done := d }

/-- The trap of a local copy at its issue: R158, its barrier, then its view. -/
def copyAddr (sh : CopyShape) (a b c e : Nat) (bar : Nat) (s : State) : Option Trap :=
  let v := copyVals a b c e s.me
  match s.copyTrap s.cur sh v with
  | some x => some (trapOf .c x)
  | none =>
    match (if bar = 0 then none else s.barTrap .c (s.me.s bar)) with
    | some t => some t
    | none =>
      match s.viewTrap s.cur (viewArg sh e v) (copyRanges sh v) with
      | some x => some (Slot.c.trap x 0 0)
      | none => none

/-- A local copy command as an operation of the C slot. -/
def copyOp (i : Instr) (a b c e : Nat) (x : CopyArgs) : Op :=
  let sh := shapeOf i
  { Op.cmd .c x.y with
    ready := fun s =>
      s.queueRoom x.q && ((copyScore s.cur sh (copyVals a b c e s.me) 0).isNone ||
        decide ((s.core (coreOf s.cur)).score.length < 16))
    addr := copyAddr sh a b c e x.bar
    effect := fun s =>
      let v := copyVals a b c e s.me
      let f := s.fresh
      let pins := s.viewPins s.cur (viewArg sh e v) (copyRanges sh v)
      let cmd := newCmd f.1 i (s.vdOf s.cur) v (if x.bar = 0 then 0 else s.me.s x.bar) pins (s.done none x.y)
      let s1 := (f.2.pin (dieOf s.cur) pins).enqueue (coreOf s.cur) x.q cmd
      let s2 := match copyScore s.cur sh v f.1 with
        | some sc => s1.modCore (coreOf s.cur) fun c => { c with score := c.score ++ [sc] }
        | none => s1
      s2.signalAccept x.y }

def opTmov (a b c e : Nat) (x : CopyArgs) : Op := copyOp (.tmov a b c e x) a b c e x
def opTmov2 (a b c e : Nat) (x : CopyArgs) : Op := copyOp (.tmov2 a b c e x) a b c e x
def opTmcast (a b c e mask : Nat) (x : CopyArgs) : Op := copyOp (.tmcast a b c e mask x) a b c e x
def opTgath (a b c e : Nat) (x : CopyArgs) : Op := copyOp (.tgath a b c e x) a b c e x
def opTscat (a b c e : Nat) (x : CopyArgs) : Op := copyOp (.tscat a b c e x) a b c e x
def opTfill (a b c e : Nat) (x : CopyArgs) : Op := copyOp (.tfill a b c e x) a b c e x
def opCamo (op : AmoOp) (t : Ty) (a b c e : Nat) (x : CopyArgs) : Op := copyOp (.camo op t a b c e x) a b c e x

/-- The queues of a mask. -/
def maskQueues (mask : Nat) : List Nat := [0, 1, 2, 3].filter fun q => mask.testBit q

/-- QJOIN: one entry in each named queue. -/
def opQjoin (mask : Nat) (y : Sync) : Op :=
  { Op.cmd .c y with
    ready := fun s => (maskQueues mask).all s.queueRoom
    effect := fun s =>
      let f := s.fresh
      let cmd := newCmd f.1 (.qjoin mask y) (s.vdOf s.cur) ⟨0, 0, 0, 0⟩ 0 [] (s.done none y)
      ((maskQueues mask).foldl (fun t q => t.enqueue (coreOf s.cur) q cmd) f.2).signalAccept y }

/-! ## The engine: where the next bytes are -/

/-- The first context key of a core: what R11's checks need of a command's place. -/
def coreCtx (core : Nat) : Nat := 4 * core

/-- Whether every byte of a row lies within the limits of R158 for the side that an address names (R166). -/
def State.rowIn (s : State) (die vd : Nat) (base : Word) (x : Int) (len : Nat) : Bool :=
  let off : Int := offOf base + x * len
  decide (0 ≤ x) && decide (off + len ≤ spaceSize (kindOf base)) &&
    (kindOf base != 0x8 || s.inDpBound die vd off.toNat len)

/-- Whether a row reached by index meets an aperture of its virtual device, of which TGATH and TSCAT reach no byte (R230). -/
def State.rowHull (s : State) (die vd : Nat) (a : Word) (len : Nat) : Bool :=
  kindOf a == 0 && s.meetsAperture die vd (lowOf a) len

/-- The source of a command's row: an address, zeros, bytes that the spec leaves open, or none. -/
inductive SrcAt where
  | addr (a : Word) | zeros | unstated | none
  deriving DecidableEq, Repr

/-- The source of the row a command has come to. -/
def State.srcRow (s : State) (die : Nat) (x : CopyCmd) : SrcAt :=
  let sh := shapeOf x.op
  let len := rowLen sh x.c
  let back := fun n : Nat => BitVec.ofNat 64 (x.row * n)
  match sh with
  | .move | .cast _ => .addr x.b
  | .rows => .addr (x.b + strideBy x.e true x.row)
  | .gather =>
    match x.idx with
    | some i =>
      let a := x.b + BitVec.ofInt 64 (i * len)
      if s.rowIn die x.vd x.b i len = false then .zeros else if s.rowHull die x.vd a len then .unstated else .addr a
    | .none => .none
  | .scatter => .addr (x.b + back len)
  | _ => .none

/-- The destination of the row a command has come to; `none` when a TSCAT skips it. -/
def State.dstRow (s : State) (die : Nat) (x : CopyCmd) : Option Word :=
  let sh := shapeOf x.op
  let len := rowLen sh x.c
  match sh with
  | .rows => some (x.a + strideBy x.e false x.row)
  | .gather => some (x.a + BitVec.ofNat 64 (x.row * len))
  | .scatter =>
    match x.idx with
    | some i =>
      let a := x.a + BitVec.ofInt 64 (i * len)
      if s.rowIn die x.vd x.a i len && !s.rowHull die x.vd a len then some a else none
    | .none => none
  | _ => some x.a

/-- The chunk of single-copy atomicity at an address (R160, R215): 64 bytes in pads, 32 in HBM and the warm and cold
tiers, 8 at the host; registers are moved one at a time. -/
def State.chunkAt (s : State) (die vd : Nat) (a : Word) : Nat :=
  match kindOf a with
  | 0x0 =>
    match s.walk die vd (lowOf a) .none false with
    | .leaf _ _ e => if leafTier e = 3 then 8 else 32
    | _ => 32
  | 0xF => if isChantab a then 32 else if isReg a then 8 else 32
  | _ => 64

/-- How many of `n` bytes from an address lie in its chunk. -/
def State.pieceAt (s : State) (die vd : Nat) (a : Word) (n : Nat) : Nat :=
  let c := s.chunkAt die vd a
  min n (c - a.toNat % c)

/-- Whether a row's source and destination overlap (R163). -/
def rowOverlaps (x : CopyCmd) (src dst : Word) (len : Nat) : Bool :=
  match shapeOf x.op with
  | .cast _ => kindOf src == 0xA && aclusOf src == aclusOf dst && overlaps (offOf src) len (offOf dst) len
  | _ => kindOf src == kindOf dst && overlaps (lowOf src) len (lowOf dst) len

/-- The pad banks of an access by global address. -/
def addrBanks (a : Word) (n : Nat) : List Nat := banksFor (padKey a) n

/-- Whether an engine or port access must wait for a bank in this cycle (R146). -/
def State.bankBusy (s : State) (bs : List Nat) : Bool := (s.banks.any fun b => bs.contains b.1) || s.bankPromised bs

/-! ## Faults of a command (R210, R211) -/

/-- A command replaced in its queue, by its number. -/
def State.setCmd (s : State) (core q : Nat) (x : CopyCmd) : State :=
  s.modCore core fun c => c.setQueue q ((c.queue q).map fun y => if y.id = x.id then x else y)

/-- A read that faults holds the queue (R210). -/
def State.holdCmd (s : State) (core q : Nat) (x : CopyCmd) (c : PfCause) (acc : Nat) (a : Word) : State :=
  let die := core / 64
  let f := s.pageFault die (some (.queue core q)) fun t => ctxFault x.done.ctx c acc a.toNat q x.vd x.done.task t
  f.2.setCmd core q { x with hold := some f.1 }

/-- A command leaves its queues, its scoreboard entry and its pins, and completes. -/
def State.endCmd (s : State) (core : Nat) (x : CopyCmd) (bytes err : Nat) : State :=
  let s1 := s.modCore core fun c => { c with
    q := c.q.map fun e => (e.1, e.2.filter fun y => y.id != x.id)
    score := c.score.filter fun z => z.id != x.id }
  (s1.unpin (core / 64) x.pins).finish x.done bytes err

/-- A completion without its signal. -/
def Done.silent (d : Done) : Done := { d with sig := none }

/-- A command that comes to a walk of a virtual device whose walks have stopped (R332; log entry 157): it is held, so that the
kill of its context withdraws it; that of a task on no context that is being killed ends at once as one withdrawn does. -/
def State.deadCmd (s : State) (core q : Nat) (x : CopyCmd) : State :=
  if (s.die (core / 64)).kills.any fun k => k.task == x.done.task then s.setCmd core q { x with hold := some noToken }
  else s.endCmd core { x with done := x.done.silent } 0 8

/-- The 64 KiB page of a VA, by which log entries share a token. -/
def pageOf (va : Nat) : Nat := va / 65536

/-- The token of a logged page, taken with its record when none is outstanding. -/
def State.pageToken (s : State) (core k vd task : Nat) (c : PfCause) (a : Word) : Nat × State :=
  let die := core / 64
  let what : FaultOf := .page core vd (pageOf (lowOf a))
  match (s.die die).faults.find? fun e => e.2 == what with
  | some e => (e.1, s)
  | none => s.pageFault die (some what) fun t => ctxFault k c 1 a.toNat 0xFF vd task t

/-- A faulting write beat in the deferred-store log (R211): it joins the entry that holds the same beat of its row up to it.
`none` when the log is full. -/
def State.logBeat (s : State) (core q id row k vd task : Nat) (c : PfCause) (a : Word) (l : List Byte) : Option State :=
  let log := (s.core core).log
  let joins := fun b : LogBeat => b.id == id && b.row == row && b.vd == vd && b.va + b.data.length == a.toNat && b.va / 64 == a.toNat / 64
  if log.any joins then
    some (s.modCore core fun x => { x with log := log.map fun b => if joins b = true then { b with data := b.data ++ l } else b })
  else if log.length < 64 then
    let f := s.pageToken core k vd task c a
    some (f.2.modCore core fun x => { x with log := log ++ [⟨id, q, row, vd, a.toNat, l, f.1⟩] })
  else none

/-! ## Engine steps -/

/-- What a step of an engine ends in: a state, or an access to the slice of a cluster that the die does not present. -/
inductive Eng where
  | ok (s : State)
  | absent (off : Nat)

/-- An engine step as a meaning's outcome. -/
def Eng.outcome (die : Nat) : Eng → Host.Outcome State Fault Refusal
  | .ok s => .next s
  | .absent off => .fault (.absentSlice die off)

/-- A read of a piece of memory or of a register by an engine for a command; an uncorrectable chunk is reported (R331). -/
def State.engRead (s : State) (die vd : Nat) (a : Word) (n : Nat) (acc : Access) (d : Done) (cnt : Bool) : ReadRes × State :=
  if isReg a then (.bytes ((List.range (n / 8)).map fun i => s.regBytes die (a + BitVec.ofNat 64 (8 * i))).flatten 0, s)
  else
    let r := s.aread1 die vd a n acc (some (s.reader d)) cnt
    match r.1 with
    | .bytes _ key => (r.1, r.2.checkAt die (s.reader d) [(key, n)])
    | _ => r

/-- A write of a piece of memory or of a register by an engine for a command. -/
def State.engWrite (s : State) (die vd : Nat) (a : Word) (l : List Byte) (d : Done) (cnt : Bool) : WriteRes × State :=
  if isReg a then (.done, s.regPut die vd a l) else s.awrite1 die vd a l .write (some (s.reader d)) cnt

/-- Whether a command may go on: it is not held, and its die is not halted before it has begun (R328). -/
def CopyCmd.live (x : CopyCmd) (halted : Bool) : Bool := x.hold.isNone && !(halted && !x.begun)

/-- The index entry of the row a TGATH or TSCAT has come to is read. -/
def State.readIdx (s : State) (core q : Nat) (x : CopyCmd) : Eng :=
  let die := core / 64
  let a := x.e + BitVec.ofNat 64 (4 * x.row)
  if s.bankBusy (addrBanks a 4) then .ok s
  else
    let r := (s.takeBanks 0 (addrBanks a 4)).engRead die x.vd a 4 .read x.done true
    match r.1 with
    | .bytes l _ => .ok (r.2.setCmd core q { x with idx := some (BitVec.ofNat 32 (leNat l)).toInt })
    | .fault c _ => .ok (r.2.holdCmd core q x c 0 a)
    | .node off => .ok (r.2.tableNode die x.vd off)
    | .dead => .ok (r.2.deadCmd core q x)
    | .absent off => .absent off
    | _ => .ok r.2

/-- Whether a shape reads an index table. -/
def CopyShape.indexed (sh : CopyShape) : Bool := sh == .gather || sh == .scatter

/-- Whether the bytes read suffice for the next write of a row: a whole chunk or the row's end, and the whole row when
source and destination overlap. -/
def State.canWrite (s : State) (die : Nat) (x : CopyCmd) : Bool :=
  let sh := shapeOf x.op
  let len := rowLen sh x.c
  match s.dstRow die x with
  | none => false
  | some d =>
    let a := d + BitVec.ofNat 64 x.wr
    let n := s.pieceAt die x.vd a (len - x.wr)
    let whole := match s.srcRow die x with | .addr b => rowOverlaps x b d len | _ => false
    decide (x.wr < len) && (sh == .fill || (decide (n ≤ x.buf.length) && (!whole || x.rd == len)))

/-- The next chunk of a row's source is read (R160). -/
def State.readChunk (s : State) (core q : Nat) (x : CopyCmd) : Eng :=
  let die := core / 64
  let len := rowLen (shapeOf x.op) x.c
  match s.srcRow die x with
  | .none => .ok s
  | .zeros => .ok (s.setCmd core q { x with buf := x.buf ++ zeros (len - x.rd), rd := len })
  | .unstated =>
    let l := (List.range (len - x.rd)).map (Config.freeByte s.free)
    .ok ({ s with free := s.free + 1 }.setCmd core q { x with buf := x.buf ++ l, rd := len })
  | .addr b =>
    let a := b + BitVec.ofNat 64 x.rd
    let n := s.pieceAt die x.vd a (len - x.rd)
    if s.bankBusy (addrBanks a n) then .ok s
    else
      let r := s.engRead die x.vd a n .read x.done (x.rd == 0 || a.toNat % 64 == 0)
      match r.1 with
      | .bytes l _ => .ok ((r.2.takeBanks 0 (addrBanks a n)).setCmd core q { x with buf := x.buf ++ l, rd := x.rd + n })
      | .fault c _ => .ok (if s.canWrite die x then s else r.2.holdCmd core q x c 0 a)
      | .node off => .ok (r.2.tableNode die x.vd off)
      | .dead => .ok (r.2.deadCmd core q x)
      | .absent off => .absent off
      | _ => .ok r.2

/-- CAMO's read-modify-write at the memory controller (R168). It counts nothing for the command's barrier, which the write of the
result slot counts for (log entry 135). -/
def State.camoStep (s : State) (core q : Nat) (x : CopyCmd) (op : AmoOp) (t : Ty) : Eng :=
  let die := core / 64
  let r := s.engRead die x.vd x.b t.bytes .atomic x.done true
  match r.1 with
  | .bytes l key =>
    let v := amoNew op t (leNat l) (x.c.toNat % 2 ^ t.bits) (x.e.toNat % 2 ^ t.bits)
    .ok ((r.2.write key (leBytes v.1 t.bytes)).setCmd core q { x with buf := l, rd := t.bytes })
  | .fault c _ => .ok (r.2.holdCmd core q x c 2 x.b)
  | .node off => .ok (r.2.tableNode die x.vd off)
  | .dead => .ok (r.2.deadCmd core q x)
  | .absent off => .absent off
  | _ => .ok r.2

/-- One read of a command: its index entry, its atomic, or the next chunk of its source. -/
def State.readStep (s : State) (core q : Nat) (x : CopyCmd) : Eng :=
  let sh := shapeOf x.op
  if rowsOf sh x.c ≤ x.row then .ok s
  else if sh.indexed && x.idx.isNone then s.readIdx core q x
  else if rowLen sh x.c ≤ x.rd ∨ sh = .fill ∨ (s.dstRow (core / 64) x).isNone = true then .ok s
  else
    match sh with
    | .atom op t => s.camoStep core q x op t
    | _ => s.readChunk core q x

/-- The row of a TSCAT that no index reaches is passed over with no write (R166). -/
def State.skipsRow (s : State) (die : Nat) (x : CopyCmd) : Bool :=
  let sh := shapeOf x.op
  decide (x.row < rowsOf sh x.c) && (!sh.indexed || x.idx.isSome) && (s.dstRow die x).isNone

/-- The destinations of a write: one address, or the unit pad of each core of a mask (R165). -/
def writeAddrs (core : Nat) (x : CopyCmd) (a : Word) : List Word :=
  match shapeOf x.op with
  | .cast mask => ([0, 1, 2, 3].filter fun c => mask.testBit c).map fun c =>
      BitVec.ofNat 64 (unitKey (core / 64) (core / 4 % 16) c (offOf a))
  | _ => [a]

/-- The head of a queue. -/
def State.headCmd (s : State) (core q : Nat) : Option CopyCmd := ((s.core core).queue q).head?

/-! ### The engine's beats (R161) -/

/-- The pad that a pad form of CTXSV or CTXLD names: its first byte's home, its size and its KIND. -/
def padOf (unit : Bool) (die v : Nat) : Nat × Nat × Nat :=
  if unit then (unitKey die (v / 16 % 16) (v / 4 % 4) 0, 2 ^ 20, 0x41) else (clusKey die (v / 16 % 16) 0, 2 ^ 22, 0x42)

/-- Where an image command writes its next beat: in its image, or in the pad that it restores, whose regions its buffer holds,
each behind its number, and at its end in its status slot. `rd` is 0 before it begins, 3 while a pad's save reads the pad, 1 while
the command writes its data and 2 as it writes its status; `row` is how many bytes it writes in all. -/
def imageDst (die : Nat) (x : CopyCmd) : Word :=
  let region := leNat ((x.buf.drop (4100 * (x.wr / 4096))).take 4)
  if x.rd = 2 then x.e else
  match x.op with
  | .ctxldUpad _ _ _ _ _ => BitVec.ofNat 64 ((padOf true die x.a.toNat).1 + 4096 * region + x.wr % 4096)
  | .ctxldCpad _ _ _ _ _ => BitVec.ofNat 64 ((padOf false die x.a.toNat).1 + 4096 * region + x.wr % 4096)
  | _ => x.b + BitVec.ofNat 64 x.wr

/-- The pad whose dirty regions a save reads: its first byte's home and its size. -/
def savedPad (die : Nat) (x : CopyCmd) : Option (Nat × Nat) :=
  match x.op with
  | .ctxsvUpad _ _ _ _ _ => some ((padOf true die x.a.toNat).1, (padOf true die x.a.toNat).2.1)
  | .ctxsvCpad _ _ _ _ _ => some ((padOf false die x.a.toNat).1, (padOf false die x.a.toNat).2.1)
  | _ => none

/-- The region and the home of the 64 bytes that a pad's save reads next, none once it has read the last dirty region. `row` is the
region that it has come to and `wr` how much of it has been read; `rd` is 3 meanwhile. -/
def State.saveNext (s : State) (die : Nat) (x : CopyCmd) : Option (Nat × Nat) :=
  match savedPad die x with
  | none => none
  | some (key, size) =>
    let here := fun i => decide (x.row ≤ i) && tget false s.dirty (key / 4096 + i)
    (if x.wr ≠ 0 then some x.row else (List.range (size / 4096)).find? here).map fun i => (i, key + 4096 * i + x.wr)

/-- The addresses and the length of the beat that the head of a queue has ready, none when it has none. -/
def State.nextBeat (s : State) (core : Nat) (x : CopyCmd) : Option (List Word × Nat) :=
  let die := core / 64
  let sh := shapeOf x.op
  let len := rowLen sh x.c
  if !x.live (s.die die).halted then none
  else if sh == .other && x.rd == 3 then (s.saveNext die x).map fun e => ([BitVec.ofNat 64 e.2], 64)
  else if sh == .other then (if x.rd ≠ 0 ∧ x.wr < x.row then some ([imageDst die x], min 64 (x.row - x.wr)) else none)
  else if rowsOf sh x.c ≤ x.row ∨ (sh.indexed = true ∧ x.idx.isNone = true) ∨ s.canWrite die x = false then none
  else
    match s.dstRow die x with
    | none => none
    | some d =>
      let a := d + BitVec.ofNat 64 x.wr
      some (writeAddrs core x a, s.pieceAt die x.vd a (len - x.wr))

/-- Whether a queue has a beat ready whose banks are free: such queues rotate (log entry 121). -/
def State.beatReady (s : State) (core q : Nat) : Bool :=
  match s.headCmd core q with
  | none => false
  | some x =>
    match s.nextBeat core x with
    | none => false
    | some (l, n) => !s.bankBusy (l.map fun w => addrBanks w n).flatten

/-- Whether the engine's beat of this cycle may be a queue's: it has made none, and no queue with a beat ready comes before this
one in rotation from the queue served last. -/
def State.mayBeat (s : State) (core q : Nat) : Bool :=
  let c := s.core core
  s.beatReady core q && c.beatAt != some s.clock &&
    (List.range ((q + 3 - c.beatQ) % 4)).all fun i => !s.beatReady core ((c.beatQ + 1 + i) % 4)

/-- The engine's beat of this cycle made by a queue. -/
def State.beaten (s : State) (core q : Nat) : State := s.modCore core fun c => { c with beatAt := some s.clock, beatQ := q }

/-- The bytes of the next write of a command. -/
def writeBytes (x : CopyCmd) (a : Word) (n : Nat) : List Byte :=
  match shapeOf x.op with
  | .fill => (List.range n).map fun i => x.b.extractLsb' (8 * ((a.toNat + i) % 8)) 8
  | _ => x.buf.take n

/-- The bytes of a write of command `id` subtracted from its barrier (R161), behind the updates that come before it. -/
def State.barTake (s : State) (core : Nat) (d : Done) (id : Nat) (bar : Word) (n : Nat) : State :=
  if bar = 0 then s
  else
    let a := homeKey (core / 64) (kindOf bar) (lowOf bar)
    ((s.checkAt (core / 64) (s.reader d) [(a, 32)]).barFlush (core / 64) a d.ctx id).barBytes a n

/-- A command after `n` more bytes of its row; at the row's end it comes to the next. -/
def CopyCmd.advance (x : CopyCmd) (n : Nat) : CopyCmd :=
  if rowLen (shapeOf x.op) x.c ≤ x.wr + n then { x with row := x.row + 1, rd := 0, wr := 0, buf := [], idx := none }
  else { x with wr := x.wr + n, buf := x.buf.drop n }

/-- The next write of a command, when its bytes are there. A TMCAST's beat is one beat of the engine, to however many unit pads
it is written (log entry 115). -/
def State.writeStep (s : State) (core q : Nat) (x : CopyCmd) : Eng :=
  let die := core / 64
  let sh := shapeOf x.op
  let len := rowLen sh x.c
  if rowsOf sh x.c ≤ x.row ∨ (sh.indexed = true ∧ x.idx.isNone = true) then .ok s
  else
    match s.dstRow die x with
    | none => .ok ((s.setCmd core q (x.advance len)).barTake core x.done x.id x.bar len)
    | some d =>
      if !s.canWrite die x then .ok s
      else
        let a := d + BitVec.ofNat 64 x.wr
        let n := s.pieceAt die x.vd a (len - x.wr)
        let l := writeBytes x a n
        let dst := writeAddrs core x a
        let bs := (dst.map fun w => addrBanks w n).flatten
        if s.bankBusy bs then .ok s
        else
          let s0 := s.takeBanks 0 bs
          let r := dst.foldl (fun t w => match t.1 with
            | .done => t.2.engWrite die x.vd w l x.done (x.wr == 0 || w.toNat % 64 == 0)
            | _ => t) (WriteRes.done, s0)
          match r.1 with
          | .done => .ok ((r.2.setCmd core q (x.advance n)).barTake core x.done x.id x.bar (n * dst.length))
          | .fault c _ =>
            match r.2.logBeat core q x.id x.row x.done.ctx x.vd x.done.task c a l with
            | some s1 => .ok (s1.setCmd core q (x.advance n))
            | none => .ok s
          | .node off => .ok (r.2.tableNode die x.vd off)
          | .dead => .ok (r.2.deadCmd core q x)
          | .absent off => .absent off
          | _ => .ok r.2

/-- `n` reads of the head of a queue. -/
def State.readSteps (s : State) (core q : Nat) : Nat → Eng
  | 0 => .ok s
  | n + 1 =>
    match s.headCmd core q with
    | none => .ok s
    | some x =>
      if !x.live (s.die (core / 64)).halted then .ok s
      else
        match s.readStep core q x with
        | .ok s1 => s1.readSteps core q n
        | e => e

/-- The engine's work on a queue in a cycle: some reads, then at most the core's one write of the cycle (R161). -/
def State.copyWork (s : State) (core q n : Nat) : Eng :=
  match s.readSteps core q n with
  | .absent off => .absent off
  | .ok s1 =>
    match s1.headCmd core q with
    | none => .ok s1
    | some x =>
      if x.live (s1.die (core / 64)).halted && s1.skipsRow (core / 64) x then s1.writeStep core q x
      else if s1.mayBeat core q then
        match s1.writeStep core q x with
        | .absent off => .absent off
        | .ok s2 => .ok (s2.beaten core q)
      else .ok s1

/-! ## Completion (R161, R169) -/

/-- Whether a local copy has performed its last write. -/
def State.copyDone (s : State) (core : Nat) (x : CopyCmd) : Bool :=
  let sh := shapeOf x.op
  match sh with
  | .other => false
  | .join mask => (maskQueues mask).all fun q => (s.headCmd core q).any fun y => y.id == x.id
  | _ => decide (rowsOf sh x.c ≤ x.row) && x.hold.isNone && !(s.core core).log.any fun b => b.id == x.id

/-- The joins that stand at the head of all their queues complete (R169). -/
def State.joins (s : State) (core : Nat) : Nat → State
  | 0 => s
  | n + 1 =>
    let done := fun x : CopyCmd => (match shapeOf x.op with | .join _ => true | _ => false) &&
      s.copyDone core x && x.live (s.die (core / 64)).halted
    match [0, 1, 2, 3].findSome? fun q => (s.headCmd core q).filter done with
    | some x => (s.endCmd core x 0 0).joins core n
    | none => s

/-- The end of a cycle for a queue: a head that has performed its last write completes. -/
def State.copyEnd (s : State) (core q : Nat) : State :=
  match s.headCmd core q with
  | none => s
  | some x =>
    if s.copyDone core x && x.live (s.die (core / 64)).halted then
      s.endCmd core x (rowsOf (shapeOf x.op) x.c * rowLen (shapeOf x.op) x.c) 0
    else s

/-! ## The page walkers (R205, R208) -/

/-- The leaf that a walk found held in the TLB, before any access through it. -/
def State.tlbFill (s : State) (die vd lvl va pte : Nat) (e : Word) : State :=
  let rest := (s.die die).tlb.filter fun y => !(y.vd == vd && y.va == pageBase lvl va && y.lvl == lvl)
  { (s.modDie die fun d => { d with tlb := ⟨vd, lvl, pageBase lvl va, pte, e⟩ :: tlbRest rest s.free }) with free := s.free + 1 }

/-- The virtual address that the head of a queue accesses next, with the permission it needs. -/
def State.nextVa (s : State) (core : Nat) (x : CopyCmd) : Option (Word × Access) :=
  let die := core / 64
  let sh := shapeOf x.op
  let pick := fun (a : Word) (acc : Access) => if kindOf a = 0 then some (a, acc) else none
  if rowsOf sh x.c ≤ x.row then none
  else if sh.indexed && x.idx.isNone then pick (x.e + BitVec.ofNat 64 (4 * x.row)) .read
  else
    match sh with
    | .atom _ _ => if x.rd = 0 then pick x.b .atomic else pick x.a .write
    | _ =>
      if s.canWrite die x then
        match s.dstRow die x with | some d => pick (d + BitVec.ofNat 64 x.wr) .write | none => none
      else
        match s.srcRow die x with | .addr b => pick (b + BitVec.ofNat 64 x.rd) .read | _ => none

/-- PAGE_WALK: a walker walks for the head of a queue. A read that faults holds the queue; a write beat that faults is
logged when it is performed. -/
def stepPageWalk (core q : Nat) (s : State) : State :=
  let die := core / 64
  match s.headCmd core q with
  | none => s
  | some x =>
    if !x.live (s.die die).halted || (s.die die).deadVds.contains x.vd then s
    else
      match s.nextVa core x with
      | none => s
      | some (a, acc) =>
        let t := s.checkEntries die (s.reader x.done) (s.entriesOf die x.vd (lowOf a))
        match s.walk die x.vd (lowOf a) acc false with
        | .leaf lvl pte e => if leafMig e then t else t.tlbFill die x.vd lvl (lowOf a) pte e
        | .node off => t.tableNode die x.vd off
        | .fault c _ => if acc = .write then t else t.holdCmd core q x c (if acc = .atomic then 2 else 0) a

/-- The meaning of `tmov`: it issues, blocks or traps as a bundle of its own (`opTmov`). -/
def execTmov (a : Nat) (b : Nat) (c : Nat) (e : Nat) (x : CopyArgs) (s : State) : Host.Outcome State Fault Refusal :=
  .next (issue [opTmov a b c e x] s)

/-- The meaning of `tmov2`: it issues, blocks or traps as a bundle of its own (`opTmov2`). -/
def execTmov2 (a : Nat) (b : Nat) (c : Nat) (e : Nat) (x : CopyArgs) (s : State) : Host.Outcome State Fault Refusal :=
  .next (issue [opTmov2 a b c e x] s)

/-- The meaning of `tmcast`: it issues, blocks or traps as a bundle of its own (`opTmcast`). -/
def execTmcast (a : Nat) (b : Nat) (c : Nat) (e : Nat) (mask : Nat) (x : CopyArgs) (s : State) : Host.Outcome State Fault Refusal :=
  .next (issue [opTmcast a b c e mask x] s)

/-- The meaning of `tgath`: it issues, blocks or traps as a bundle of its own (`opTgath`). -/
def execTgath (a : Nat) (b : Nat) (c : Nat) (e : Nat) (x : CopyArgs) (s : State) : Host.Outcome State Fault Refusal :=
  .next (issue [opTgath a b c e x] s)

/-- The meaning of `tscat`: it issues, blocks or traps as a bundle of its own (`opTscat`). -/
def execTscat (a : Nat) (b : Nat) (c : Nat) (e : Nat) (x : CopyArgs) (s : State) : Host.Outcome State Fault Refusal :=
  .next (issue [opTscat a b c e x] s)

/-- The meaning of `tfill`: it issues, blocks or traps as a bundle of its own (`opTfill`). -/
def execTfill (a : Nat) (b : Nat) (c : Nat) (e : Nat) (x : CopyArgs) (s : State) : Host.Outcome State Fault Refusal :=
  .next (issue [opTfill a b c e x] s)

/-- The meaning of `camo`: it issues, blocks or traps as a bundle of its own (`opCamo`). -/
def execCamo (op : AmoOp) (t : Ty) (a : Nat) (b : Nat) (c : Nat) (e : Nat) (x : CopyArgs) (s : State) : Host.Outcome State Fault Refusal :=
  .next (issue [opCamo op t a b c e x] s)

/-- The meaning of `qjoin`: it issues, blocks or traps as a bundle of its own (`opQjoin`). -/
def execQjoin (mask : Nat) (y : Sync) (s : State) : Host.Outcome State Fault Refusal :=
  .next (issue [opQjoin mask y] s)

/-- The meaning of `pageWalk`: the step `stepPageWalk` on the operands that the state holds. -/
def execPageWalk (s : State) : Host.Outcome State Fault Refusal :=
  .next (stepPageWalk (s.arg 0) (s.arg 1) s)


end Sys2Proof.Machine
end

