-- ==== Sys2Proof/Machine/Windows.lean ====
section
/-! DEFINITION. Exposure windows: the window table, its W instructions, and the port's steps for fences, post/start epochs
and locks (R242 to R249, R258 to R263, R265). -/

namespace Sys2Proof.Machine

/-! ## The table and the groups (R242 to R245) -/

/-- A window-table entry. -/
def State.win (s : State) (die n : Nat) : Win := tget Win.reset (s.die die).wins n

/-- The state with a window-table entry replaced. -/
def State.setWin (s : State) (die n : Nat) (w : Win) : State := s.modDie die fun d => { d with wins := tput d.wins n w }

/-- The state with a window-table entry changed. -/
def State.modWin (s : State) (die n : Nat) (f : Win → Win) : State := s.setWin die n (f (s.win die n))

/-- Place 0xFFFF, which names the switches and no die. -/
def noPlace : Nat := 0xFFFF

/-- The places of a group, member by member. -/
def State.groupPlaces (s : State) (die g : Nat) : List Nat :=
  (List.range (min 64 (s.dreg die 4 (0x828 + 8 * g)).toNat)).map fun i =>
    (s.dreg die 4 (0xA28 + 8 * (64 * g + i))).toNat % 65536

/-- The members of a window's group that are places. -/
def State.members (s : State) (die : Nat) (w : Win) : List Nat :=
  (nub (s.groupPlaces die w.group)).filter fun p => p != noPlace

/-- The places that a member mask names. -/
def State.maskPlaces (s : State) (die : Nat) (w : Win) (mask : Nat) : List Nat :=
  let l := s.groupPlaces die w.group
  (nub ((List.range l.length).filterMap fun i => if mask.testBit i then l[i]? else none)).filter fun p => p != noPlace

/-- Whether a mask has a bit beyond the group's count. -/
def State.maskBad (s : State) (die : Nat) (w : Win) (mask : Nat) : Bool :=
  decide (2 ^ (s.groupPlaces die w.group).length ≤ mask)

/-- Whether a die's port holds a place to be down (R265). -/
def State.isDown (s : State) (die p : Nat) : Bool := (s.die die).down.contains p

/-- A message from a die's port to a place, lost when the place is down. -/
def State.port (s : State) (die p : Nat) (b : Body) : State := if s.isDown die p then s else s.send (s.place die) p b

/-- Whether an index lies in the bounds of the acting context's virtual device (WINBND). -/
def State.winOk (s : State) (n : Nat) : Bool :=
  let b := s.bound (dieOf s.cur) (s.vdOf s.cur) boundWin
  decide (b.1 ≤ n) && decide (n < b.2)

/-- A W instruction with its bounds check (R247). -/
def wcmd (n : Nat) (y : Sync) : Op := (Op.cmd .y y).rangeIf fun s => !s.winOk n

/-! ## WCREATE (R248) -/

/-- What a descriptor says. -/
structure WinDesc where
  base : Word
  len : Nat
  view : Nat
  group : Nat
  mode : Nat
  rights : Nat
  zero : Nat

/-- The descriptor of 32 bytes. -/
def descOf (l : List Byte) : WinDesc :=
  { base := BitVec.ofNat 64 (lnat l 0 8), len := lnat l 8 8, view := lnat l 16 4, group := lnat l 20 1, mode := lnat l 21 1
    rights := lnat l 22 1, zero := lnat l 23 9 }

/-- The codes of R248, in order. -/
def State.descCode (s : State) (k n : Nat) (x : WinDesc) : Option Nat :=
  let die := dieOf k
  if (s.win die n).live then some 1
  else if x.zero ≠ 0 ∨ 8 ≤ x.rights ∨ 64 ≤ x.group ∨ 4 ≤ x.mode ∨ x.len = 0 ∨ 2 ^ 32 < x.len then some 2
  else if (s.checkRange k .copy x.base x.len).isSome then some 3
  else if !(s.groupPlaces die x.group).contains (s.place die) then some 4
  else none

/-- Whether a window's range meets a hull aperture. -/
def State.descHull (s : State) (k : Nat) (x : WinDesc) : Bool :=
  kindOf x.base == 0 && s.meetsAperture (dieOf k) (s.vdOf k) (lowOf x.base) x.len

/-- The view checks of R248 and R236. -/
def State.descView (s : State) (k : Nat) (x : WinDesc) : Option Cause :=
  match (if x.view = 0 then none else s.viewOf (dieOf k) (s.vdOf k) (BitVec.ofNat 64 x.view)) with
  | none => if x.view ≠ 0 then some .viewStale else if s.descHull k x then some .viewRange else none
  | some i =>
    let v := s.view (dieOf k) i
    let b := (s.region (dieOf k) v.region).base
    if s.descHull k x && !(decide (b + v.lo ≤ lowOf x.base) && decide (lowOf x.base + x.len ≤ b + v.hi)) then some .viewRange
    else none

/-- The descriptor that a WCREATE reads. -/
def State.descAt (s : State) (a : Nat) (rd : Rd) : WinDesc := descOf (s.read (lsKey (rd.c.s a)) 32)

/-- The traps of WCREATE: its address, then the view of a descriptor that passes the codes. -/
def wcreateTrap (n a : Nat) (s : State) : Option Trap :=
  match s.lsTrap .y (s.me.s a) 32 32 with
  | some t => some t
  | none =>
    let x := s.descAt a s.rd
    match s.descCode s.cur n x with
    | some _ => none
    | none => (s.descView s.cur x).map fun c => Slot.y.trap c 0 0

/-- The window view over exactly a window's range: entry 16,128 + n, with its delta (R236). -/
def State.windowView (s : State) (k n : Nat) (x : WinDesc) : State :=
  match s.viewOf (dieOf k) (s.vdOf k) (BitVec.ofNat 64 x.view) with
  | none => s
  | some i =>
    let r := (s.view (dieOf k) i).region
    let lo := lowOf x.base - (s.region (dieOf k) r).base
    (s.takeView (dieOf k) (16128 + n) (s.vdOf k) r lo (lo + x.len)).pushDeltaOf k r true (granulesOf lo (lo + x.len))

/-- A window's key with GV set (R244). -/
def winKey (gen n : Nat) : Nat := gen * 65536 + 256 + n

/-- The entry taken, with its mode state at its initial values and its unmatched-byte counter cleared. -/
def State.takeWin (s : State) (k n : Nat) (x : WinDesc) : State :=
  let die := dieOf k
  let s1 := s.setWin die n { Win.reset with
    live := true, gen := nextGen (s.win die n).gen, vd := s.vdOf k, base := x.base, len := x.len
    view := s.descHull k x, group := x.group, mode := x.mode, rights := x.rights }
  let s2 := if s.descHull k x then s1.windowView k n x else s1
  s2.setDreg die 4 (0x28 + 8 * n) 0

/-- WCREATE performed on the descriptor that it has read. A late read whose view no longer passes creates nothing and gives a free
value, since its bundle can no longer trap. -/
def wcreateRun (n c : Nat) (y : Sync) (rd : Rd) (k : Nat) (l : List Byte) (s : State) : State :=
  let x := descOf l
  let s0 := s.signalOf k rd.late y
  let give := fun (t : State) (v : Word) => t.push k ⟨.sreg c, v.setWidth 2048, fullMask, 0, 2 - rd.late, .y, false⟩
  match s0.descCode k n x with
  | some code => give s0 (BitVec.ofInt 64 (-(code : Int)))
  | none =>
    if (s0.descView k x).isSome then give s0.draw.2 (BitVec.ofNat 64 (Config.choice s0.draw.1))
    else
      let s1 := s0.takeWin k n x
      give s1 (BitVec.ofNat 64 (winKey (s1.win (dieOf k) n).gen n))

def opWcreate (w c a : Nat) (y : Sync) : Op :=
  { wcmd w y with
    dests := fun _ => [.sreg c]
    ready := fun s => (wcreateTrap w a s).isSome || s.deltaRoom (dieOf s.cur) || !s.descHull s.cur (s.descAt a s.rd)
    addr := wcreateTrap w a
    effect := fun s => s.readThen (.wcreate w c a y) a 32 y (wcreateRun w c y s.rd s.cur) }

/-! ## Statuses (R247, R263) -/

/-- The status that a W instruction of a mode ends with at once. -/
def State.winStatus (s : State) (n mode : Nat) : Option Nat :=
  let w := s.win (dieOf s.cur) n
  if !w.live then some 1 else if w.mode ≠ mode then some 4 else none

/-- A W instruction complete at its issue: its status at the end of the cycle. -/
def State.wEnd (s : State) (c st : Nat) (y : Sync) : State :=
  ((s.signalBoth y).modMe fun x => { x with wdown := none }).pushS c (BitVec.ofNat 64 st) 1 .y

/-- A held W instruction complete: its status is written and its signal applied. -/
def State.wDone (s : State) (k st : Nat) : State :=
  match (s.ctx k).held with
  | none => s
  | some h => (s.modCtx k fun c => { c.setS h.c (BitVec.ofNat 64 st) with
      held := none, synced := if h.op = .unlock then c.synced else s.clock }).sigDone h.done

/-- The contexts of a die. -/
def dieCtxs (die : Nat) : List Nat := (List.range 256).map fun i => 256 * die + i

/-- The contexts of a die held by an operation on a window. -/
def State.heldBy (s : State) (die n : Nat) (op : HeldOp) : List Nat :=
  (dieCtxs die).filter fun k => match (s.ctx k).held with | some h => h.op == op && h.win == n | none => false

/-- Every context held on a window by an operation completes. -/
def State.wDoneAll (s : State) (die n : Nat) (op : HeldOp) (st : Nat) : State :=
  (s.heldBy die n op).foldl (fun t k => t.wDone k st) s

/-- The acting context held by an instruction that completes later. -/
def State.hold (s : State) (op : HeldOp) (n c place : Nat) (y : Sync) : State :=
  (s.signalAccept y).modMe fun x => { x with held := some ⟨op, n, c, place, false, s.done none y⟩, wdown := none }

/-- WCUR set (R250, R260). -/
def State.setWcur (s : State) (n : Nat) : State := s.modMe fun x => { x with wcur := some n }

/-- The mark that a blocked bundle begins to wait on places (R265). -/
def State.markWait (s : State) : State := s.modMe fun x => { x with wdown := some (x.wdown.getD []) }

/-- Whether the acting context's blocked bundle has stopped waiting for a place. -/
def State.skips (s : State) (p : Nat) : Bool := s.isDown (dieOf s.cur) p || (s.me.wdown.getD []).contains p

/-! ## WFREE (R249) -/

/-- Whether a request is being performed through an entry. -/
def State.winBusy (s : State) (die n : Nat) : Bool :=
  s.wire.any fun m => m.dst == s.place die && match m.body with | .req r => r.prog.isSome && r.win == n | _ => false

/-- An entry freed: its view goes with its delta, its lockers are answered, those held on it complete, and the requests that
WLOCKs have sent through it are forgotten (log entry 158). -/
def State.freeWin (s : State) (k n : Nat) : State :=
  let die := dieOf k
  let w := s.win die n
  let v := s.view die (16128 + n)
  let s1 := if w.view then (s.setView die (16128 + n) { v with live := false }).pushDeltaOf k v.region false (granulesOf v.lo v.hi)
    else s
  let s2 := (s1.die die).lockQ.foldl (fun t x =>
    if x.win = n then t.port die x.place (.lockGrant n x.ctx x.task 1) else t) s1
  let s3 := s2.modDie die fun d => { d with
    wins := tput d.wins n { Win.reset with gen := w.gen }, lockQ := d.lockQ.filter (fun x => x.win != n)
    lockAsks := d.lockAsks.filter fun x => x.win != n }
  (s3.wDoneAll die n .fence 1).wDoneAll die n .compl 1

def opWfree (w : Nat) (y : Sync) : Op :=
  { (wcmd w y).atOnce y (fun s => if (s.win (dieOf s.cur) w).live then s.freeWin s.cur w else s) with
    ready := fun s =>
      let x := s.win (dieOf s.cur) w
      !x.live || (!s.winBusy (dieOf s.cur) w && (!x.view || s.deltaRoom (dieOf s.cur)))
    probe := fun s => if (s.win (dieOf s.cur) w).live then s.modWin (dieOf s.cur) w fun x => { x with closing := true } else s }

/-! ## Fences (R258, R259) -/

/-- Whether a member's part of a fence is there: its announcement, and as many requests as it announced. -/
def Win.fenced (w : Win) (p : Nat) : Bool :=
  match tfind w.ann p with
  | none => false
  | some a => tget 0 w.recv p == a

/-- Whether a command names a window: a remote command that is no reduction and no channel put (R250). -/
def RemCmd.names (x : RemCmd) (n : Nat) : Bool :=
  x.win == n && match x.op with
    | .xget _ _ _ _ _ | .xput _ _ _ _ _ _ | .xputRel _ _ _ _ _ _ | .xacc _ _ _ _ _ _ _ _ | .xamo _ _ _ _ _ _ _ => true
    | _ => false

/-- Whether a command accepted before a window's fence or WCOMPL has still to leave. -/
def State.earlyOut (s : State) (die : Nat) (w : Win) : Bool := (s.remotes die).any fun x => w.early.contains x.id

/-- What a fence or a WCOMPL under way tells its members once every command accepted before it has left (R258 to R260): SENT
goes to each, as ANNOUNCE or COMPLETE. R256 stamps a command when it leaves, and R317 and R373 have the fence close the epoch
of the commands before it (log entry 108). -/
def State.tell (s : State) (die n : Nat) : State :=
  let w := s.win die n
  let closing := match w.fst with | .closing _ => w.mode == 1 | _ => false
  if !w.live || w.told || !(closing || !w.ends.isEmpty) || s.earlyOut die w then s
  else if closing then
    ((s.members die w).foldl (fun t p => t.port die p (.announce n w.n (tget 0 w.sent p))) s).setWin die n
      { w with sent := [], told := true }
  else (w.ends.foldl (fun t p => t.port die p (.complete n (tget 0 w.sent p))) s).setWin die n { w with told := true }

/-- Whether requests stamped for a window's epoch are still on their way. -/
def State.stampedOut (s : State) (die : Nat) (w : Win) : Bool := (s.die die).outst.any fun o => w.stamped.contains o.id

/-- Whether a fence that is CLOSING may complete. -/
def State.fenceMet (s : State) (die : Nat) (w : Win) : Bool :=
  w.told && ((s.members die w).all fun p => w.downs.contains p || w.fenced p) && !s.stampedOut die w

/-- A fence window opened at its next epoch. -/
def Win.nextEpoch (w : Win) : Win :=
  { w with n := w.n + 1, fst := .isOpen, sent := [], recv := w.recvNext, ann := w.annNext, recvNext := [], annNext := []
           stamped := [], downs := [], early := [], told := false }

/-- A fence window closed for good; what is held for a later epoch is discarded. -/
def Win.final (w : Win) : Win := { w with fst := .final, recvNext := [], annNext := [], stamped := [], downs := [], early := [], told := false }

/-- Whether a fence window is CLOSING. -/
def Win.isClosing (w : Win) : Bool := match w.fst with | .closing _ => true | _ => false

/-- A fence begun: it announces its epoch at once when no command accepted before it waits to leave. -/
def State.fenceStart (s : State) (n : Nat) (close : Bool) : State :=
  let die := dieOf s.cur
  let w := s.win die n
  (s.setWin die n { w with
    fst := .closing close
    early := ((s.remotes die).filter fun x => x.names n).map fun x => x.id
    told := false
    downs := (s.members die w).filter fun p => s.isDown die p && !w.fenced p }).tell die n

/-- A WCOMPL begun: it ends the epochs that are open now. -/
def State.complStart (s : State) (n : Nat) : State :=
  let die := dieOf s.cur
  let w := s.win die n
  let ps := w.ax.map fun e => e.1
  (s.setWin die n { w with
    ends := ps
    early := ((s.remotes die).filter fun x => x.names n && ps.contains x.place).map fun x => x.id
    told := false
    downs := ps.filter (s.isDown die) }).tell die n

def fenceOp (w c : Nat) (close : Bool) (y : Sync) : Op :=
  { wcmd w y with
    dests := fun _ => [.sreg c]
    ready := fun s => (s.winStatus w 1).isSome || !(s.win (dieOf s.cur) w).isClosing
    effect := fun s0 =>
      let s := s0.setWcur w
      let x := s.win (dieOf s.cur) w
      match s0.winStatus w 1 with
      | some st => s0.wEnd c st y
      | none =>
        if x.fst = .final then s0.wEnd c 0 y
        else if x.n = 0 then (s.setWin (dieOf s.cur) w (if close then x.final else x.nextEpoch)).wEnd c 0 y
        else (s.fenceStart w close).hold .fence w c 0 y }

def opWfence (w c : Nat) (y : Sync) : Op := fenceOp w c false y
def opWfenceClose (w c : Nat) (y : Sync) : Op := fenceOp w c true y

/-- FENCE_ANNOUNCE: an announcement held by its epoch. -/
def stepFenceAnnounce (n : Nat) (s : State) : State :=
  match s.msg n with
  | some ⟨src, dst, .announce win epoch count⟩ =>
    let die := dst % 16
    let w := s.win die win
    if w.live && w.mode == 1 then
      (s.taken n).setWin die win
        (if epoch = w.n then { w with ann := tput w.ann src count }
         else if epoch = w.n + 1 then { w with annNext := tput w.annNext src count } else w)
    else s.taken n
  | _ => s

/-- WFENCE_COMPLETE: the fence of a window whose conditions hold. -/
def stepWfenceComplete (die n : Nat) (s : State) : State :=
  let w := s.win die n
  match w.fst with
  | .closing close =>
    if w.live && w.mode == 1 && s.fenceMet die w then
      (s.setWin die n (if close then w.final else w.nextEpoch)).wDoneAll die n .fence (if w.downs.isEmpty then 0 else 5)
    else s
  | _ => s

/-! ## Post, start, complete, wait (R260) -/

/-- The mask operand. -/
def memberMask (c : Nat) (s : State) : Nat := (s.me.s c).toNat

/-- The status of an instruction with a member mask. -/
def State.maskStatus (s : State) (n c : Nat) : Option Nat :=
  match s.winStatus n 2 with
  | some st => some st
  | none => if s.maskBad (dieOf s.cur) (s.win (dieOf s.cur) n) (memberMask c s) then some 4 else none

def opWpost (w c : Nat) (y : Sync) : Op :=
  { wcmd w y with
    dests := fun _ => [.sreg c]
    ready := fun s => (s.maskStatus w c).isSome || !(s.win (dieOf s.cur) w).exposing
    effect := fun s0 =>
      let s := s0.setWcur w
      let die := dieOf s.cur
      let x := s.win die w
      match s0.maskStatus w c with
      | some st => s0.wEnd c st y
      | none =>
        let x' := { x with xn := x.xn + 1, exposing := true, exposed := memberMask c s, recv := [], compl := [] }
        ((s.maskPlaces die x (memberMask c s)).foldl (fun t p => t.port die p (.post w x'.xn)) (s.setWin die w x')).wEnd c 0 y }

/-- Whether an access epoch to a place can open: a POST is there and the last epoch has ended. -/
def Win.posted (w : Win) (p : Nat) : Bool := thas w.posts p && !thas w.ax p

def opWstart (w c : Nat) (y : Sync) : Op :=
  { wcmd w y with
    dests := fun _ => [.sreg c]
    ready := fun s => (s.maskStatus w c).isSome ||
      let x := s.win (dieOf s.cur) w
      (s.maskPlaces (dieOf s.cur) x (memberMask c s)).all fun p => x.posted p || s.skips p
    probe := State.markWait
    effect := fun s0 =>
      let s := s0.setWcur w
      let die := dieOf s.cur
      let x := s.win die w
      match s0.maskStatus w c with
      | some st => s0.wEnd c st y
      | none =>
        let ps := s.maskPlaces die x (memberMask c s)
        let x' := (ps.filter x.posted).foldl (fun z p =>
          { z with ax := tput z.ax p (tget 0 z.posts p), sent := tput z.sent p 0, posts := tdel z.posts p }) x
        (s.setWin die w x').wEnd c (if ps.all x.posted then 0 else 5) y }

def opWcompl (w c : Nat) (y : Sync) : Op :=
  { wcmd w y with
    dests := fun _ => [.sreg c]
    ready := fun s => (s.winStatus w 2).isSome || (s.win (dieOf s.cur) w).ends.isEmpty
    effect := fun s0 =>
      let s := s0.setWcur w
      match s0.winStatus w 2 with
      | some st => s0.wEnd c st y
      | none => if (s.win (dieOf s.cur) w).ax = [] then s.wEnd c 0 y else (s.complStart w).hold .compl w c 0 y }

/-- Whether a member of an exposure has completed. -/
def Win.completed (w : Win) (p : Nat) : Bool :=
  match tfind w.compl p with
  | none => false
  | some a => tget 0 w.recv p == a

def opWwait (w c : Nat) (y : Sync) : Op :=
  { wcmd w y with
    dests := fun _ => [.sreg c]
    ready := fun s => (s.winStatus w 2).isSome ||
      let x := s.win (dieOf s.cur) w
      !x.exposing || (s.maskPlaces (dieOf s.cur) x x.exposed).all fun p => x.completed p || s.skips p
    probe := State.markWait
    effect := fun s0 =>
      let s := s0.setWcur w
      let die := dieOf s.cur
      let x := s.win die w
      match s0.winStatus w 2 with
      | some st => s0.wEnd c st y
      | none =>
        let ok := !x.exposing || (s.maskPlaces die x x.exposed).all x.completed
        (s.setWin die w { x with exposing := false }).wEnd c (if ok then 0 else 5) y }

/-- POST_ARRIVAL: the origin's port holds one POST for a member and window. -/
def stepPostArrival (n : Nat) (s : State) : State :=
  match s.msg n with
  | some ⟨src, dst, .post win xn⟩ =>
    let w := s.win (dst % 16) win
    if w.live && w.mode == 2 then (s.taken n).setWin (dst % 16) win { w with posts := tput w.posts src xn } else s.taken n
  | _ => s

/-- COMPLETE_ARRIVAL: a member's count for the exposure. -/
def stepCompleteArrival (n : Nat) (s : State) : State :=
  match s.msg n with
  | some ⟨src, dst, .complete win count⟩ =>
    let w := s.win (dst % 16) win
    if w.live && w.mode == 2 && w.exposing then
      (s.taken n).setWin (dst % 16) win { w with compl := tput w.compl src count }
    else s.taken n
  | _ => s

/-! ## Locks (R261, R262) -/

/-- The place that a lock instruction's operand names. -/
def State.lockPlace (s : State) (n c : Nat) : Option Nat :=
  match (s.groupPlaces (dieOf s.cur) (s.win (dieOf s.cur) n).group)[(s.me.s c).toNat]? with
  | some p => if p = noPlace then none else some p
  | none => none

/-- The status of a lock instruction that ends at once, or its place. -/
def State.lockAsk (s : State) (n c : Nat) : Except Nat Nat :=
  match s.winStatus n 3 with
  | some st => .error st
  | none => match s.lockPlace n c with | some p => .ok p | none => .error 4

/-- Whether a lock request is a task's on a window. -/
def LockAsk.of (x : LockAsk) (task n : Nat) : Bool := x.task == task && x.win == n

/-- The request that the acting context's task has sent for a lock on a window. -/
def State.lockAsked (s : State) (n : Nat) : Option LockAsk := (s.die (dieOf s.cur)).lockAsks.find? fun x => x.of s.me.task n

/-- The answer that the acting context's lock request has got. -/
def State.lockAnswer (s : State) (n : Nat) : Option Nat :=
  match s.lockAsked n with
  | some x => x.answer
  | none => none

/-- The lock request of the acting context's task on a window forgotten: its WLOCK has ended. An answer that comes later meets no
request, and a lock that it grants stays held at the target (log entry 158). -/
def State.dropAsk (s : State) (n : Nat) : State :=
  s.modDie (dieOf s.cur) fun d => { d with lockAsks := d.lockAsks.filter fun x => !x.of s.me.task n }

def lockOp (w c : Nat) (ex : Bool) (y : Sync) : Op :=
  { wcmd w y with
    dests := fun _ => [.sreg c]
    ready := fun s => match s.lockAsk w c with | .error _ => true | .ok p => (s.lockAnswer w).isSome || s.skips p
    probe := fun s0 =>
      match s0.lockAsk w c with
      | .error _ => s0
      | .ok p =>
        let s := s0.markWait
        if (s.lockAsked w).isSome then s
        else (s.modDie (dieOf s.cur) fun d => { d with lockAsks := d.lockAsks ++ [⟨s.me.task, w, p, none⟩] }).port (dieOf s.cur) p
          (.lockReq w s.cur s.me.task ex)
    effect := fun s =>
      match s.lockAsk w c with
      | .error st => (s.dropAsk w).wEnd c st y
      | .ok _ =>
        let st := (s.lockAnswer w).getD 5
        (if st = 1 ∨ st = 4 then s.dropAsk w else (s.dropAsk w).setWcur w).wEnd c st y }

def opWlockSh (w c : Nat) (y : Sync) : Op := lockOp w c false y
def opWlockEx (w c : Nat) (y : Sync) : Op := lockOp w c true y

def opWunlock (w c : Nat) (y : Sync) : Op :=
  { wcmd w y with
    dests := fun _ => [.sreg c]
    effect := fun s =>
      match s.lockAsk w c with
      | .error st => s.wEnd c st y
      | .ok p => if s.isDown (dieOf s.cur) p then s.wEnd c 5 y else s.hold .unlock w c p y }

/-- Whether a lock of a kind is compatible with a window's holders, with a holder slot free. -/
def Win.grants (w : Win) (ex : Bool) : Bool := (w.holders.isEmpty || (!ex && !w.excl)) && decide (w.holders.length < 64)

/-- A lock granted, and its requester told. -/
def State.grantLock (s : State) (die : Nat) (x : LockWait) : State :=
  (s.modWin die x.win fun w => { w with holders := w.holders ++ [(x.place, x.task)], excl := x.ex }).port die x.place
    (.lockGrant x.win x.ctx x.task 0)

/-- Waiters of a window granted from the front, at most `n` of them. -/
def State.grantWaiters (s : State) (die win : Nat) : Nat → State
  | 0 => s
  | n + 1 =>
    match (s.die die).lockQ.find? fun x => x.win == win with
    | none => s
    | some x =>
      if (s.win die win).grants x.ex then
        ((s.modDie die fun d => { d with lockQ := d.lockQ.erase x }).grantLock die x).grantWaiters die win n
      else s

/-- LOCK_REQUEST_ARRIVAL: granted, queued, or turned away; TARGET_DOWN while its virtual device takes no request. -/
def stepLockRequestArrival (n : Nat) (s : State) : State :=
  match s.msg n with
  | some ⟨src, dst, .lockReq win ctx task ex⟩ =>
    let die := dst % 16
    let w := s.win die win
    let s1 := s.taken n
    let q := (s.die die).lockQ
    let x : LockWait := ⟨win, src, ctx, task, ex⟩
    let tell := fun st => s1.port die src (.lockGrant win ctx task st)
    if w.live && s.shutVd die w.vd then tell 5
    else if !w.live || w.closing then tell 1
    else if w.mode ≠ 3 ∨ (s.members die w).contains src = false then tell 4
    else if w.grants ex && !q.any fun z => z.win == win then s1.grantLock die x
    else if q.length < 64 then s1.modDie die fun d => { d with lockQ := d.lockQ ++ [x] }
    else s1.port die src (.lockBusy win ctx task ex s.clock)
  | _ => s

/-- LOCK_RELEASE_ARRIVAL: the holder leaves, its window's waiters are granted, and the release is acknowledged. -/
def stepLockReleaseArrival (n : Nat) (s : State) : State :=
  match s.msg n with
  | some ⟨src, dst, .lockRel win ctx task⟩ =>
    let die := dst % 16
    let w := s.win die win
    if w.holders.contains (src, task) then
      let s1 := ((s.taken n).setWin die win { w with holders := w.holders.erase (src, task) }).grantWaiters die win 64
      s1.port die src (.relAck win ctx task 0)
    else (s.taken n).port die src (.relAck win ctx task 4)
  | _ => s

/-- LOCK_GRANT_ARRIVAL: the answer reaches the port of the task that asked. -/
def stepLockGrantArrival (n : Nat) (s : State) : State :=
  match s.msg n with
  | some ⟨src, dst, .lockGrant win _ task st⟩ =>
    (s.taken n).modDie (dst % 16) fun d => { d with lockAsks := d.lockAsks.map fun x =>
      if (x.of task win) = true ∧ x.place = src ∧ x.answer.isNone = true then ({ x with answer := some st } : LockAsk) else x }
  | _ => s

/-- LOCK_RETRY: a request answered BUSY is sent again after 1024 cycles, while its task still waits. -/
def stepLockRetry (n : Nat) (s : State) : State :=
  match s.msg n with
  | some ⟨src, dst, .lockBusy win ctx task ex at_⟩ =>
    if s.clock < at_ + 1024 then s
    else
      let waits := (s.die (dst % 16)).lockAsks.any fun x => x.of task win && x.place == src && x.answer.isNone
      if waits then (s.taken n).port (dst % 16) src (.lockReq win ctx task ex) else s.taken n
  | _ => s

/-- RELEASE_ACKNOWLEDGEMENT: the WUNLOCK completes. -/
def stepReleaseAcknowledgement (n : Nat) (s : State) : State :=
  match s.msg n with
  | some ⟨_, _, .relAck win ctx task st⟩ =>
    match (s.ctx ctx).held with
    | some h => if h.op = .unlock ∧ h.win = win ∧ (s.ctx ctx).task = task then (s.taken n).wDone ctx st else s.taken n
    | none => s.taken n
  | _ => s

/-! ## What is held on a window, as a cycle ends -/

/-- The requests of a window's epochs to the targets that a WCOMPL ends. -/
def State.endingOut (s : State) (die : Nat) (w : Win) : List Outst :=
  (s.die die).outst.filter fun o => w.stamped.contains o.id && w.ends.contains o.place

/-- The access epochs whose WCOMPL may end: every request of theirs has completed remotely. An epoch opened meanwhile to
another target goes on. -/
def State.settleCompl (s : State) (die : Nat) : State :=
  (s.die die).wins.foldl (fun t e =>
    let w := e.2
    if w.live && w.told && !w.ends.isEmpty && (t.endingOut die w).isEmpty then
      (t.setWin die e.1 { w with
        ends := [], early := [], told := false, downs := []
        ax := w.ax.filter fun x => !w.ends.contains x.1
        stamped := w.stamped.filter fun i => (t.die die).outst.any fun o => o.id == i }).wDoneAll die e.1 .compl
        (if w.downs.isEmpty then 0 else 5)
    else t) s

/-- The fences and WCOMPLs of a die that wait to tell their counts. -/
def State.tellAll (s : State) (die : Nat) : State := (s.die die).wins.foldl (fun t e => t.tell die e.1) s

/-- Whether a context's task has requests on a window to a place that have not completed remotely. -/
def State.onWindow (s : State) (k n p : Nat) : Bool :=
  let task := (s.ctx k).task
  ((s.die (dieOf k)).outst.any fun o => o.done.of task && o.win == n && o.place == p) ||
    ((s.remotes (dieOf k)).any fun x => x.done.of task && x.win == n && x.place == p)

/-- The releases of a context's WUNLOCK that may be sent. -/
def State.settleUnlock (s : State) (k : Nat) : State :=
  match (s.ctx k).held with
  | some h =>
    if h.op = .unlock ∧ h.sent = false ∧ s.onWindow k h.win h.place = false then
      (s.modCtx k fun c => { c with held := some { h with sent := true } }).port (dieOf k) h.place
        (.lockRel h.win k (s.ctx k).task)
    else s
  | none => s

/-- The fences of a die that may complete. -/
def State.fencesMet (s : State) (die : Nat) : List Nat :=
  ((s.die die).wins.filter fun e => e.2.live && e.2.mode == 1 && e.2.isClosing && s.fenceMet die e.2).map fun e => e.1

/-- The meaning of `wcreate`: it issues, blocks or traps as a bundle of its own (`opWcreate`). -/
def execWcreate (w : Nat) (c : Nat) (a : Nat) (y : Sync) (s : State) : Host.Outcome State Fault Refusal :=
  .next (issue [opWcreate w c a y] s)

/-- The meaning of `wfree`: it issues, blocks or traps as a bundle of its own (`opWfree`). -/
def execWfree (w : Nat) (y : Sync) (s : State) : Host.Outcome State Fault Refusal :=
  .next (issue [opWfree w y] s)

/-- The meaning of `wfence`: it issues, blocks or traps as a bundle of its own (`opWfence`). -/
def execWfence (w : Nat) (c : Nat) (y : Sync) (s : State) : Host.Outcome State Fault Refusal :=
  .next (issue [opWfence w c y] s)

/-- The meaning of `wfenceClose`: it issues, blocks or traps as a bundle of its own (`opWfenceClose`). -/
def execWfenceClose (w : Nat) (c : Nat) (y : Sync) (s : State) : Host.Outcome State Fault Refusal :=
  .next (issue [opWfenceClose w c y] s)

/-- The meaning of `wpost`: it issues, blocks or traps as a bundle of its own (`opWpost`). -/
def execWpost (w : Nat) (c : Nat) (y : Sync) (s : State) : Host.Outcome State Fault Refusal :=
  .next (issue [opWpost w c y] s)

/-- The meaning of `wstart`: it issues, blocks or traps as a bundle of its own (`opWstart`). -/
def execWstart (w : Nat) (c : Nat) (y : Sync) (s : State) : Host.Outcome State Fault Refusal :=
  .next (issue [opWstart w c y] s)

/-- The meaning of `wcompl`: it issues, blocks or traps as a bundle of its own (`opWcompl`). -/
def execWcompl (w : Nat) (c : Nat) (y : Sync) (s : State) : Host.Outcome State Fault Refusal :=
  .next (issue [opWcompl w c y] s)

/-- The meaning of `wwait`: it issues, blocks or traps as a bundle of its own (`opWwait`). -/
def execWwait (w : Nat) (c : Nat) (y : Sync) (s : State) : Host.Outcome State Fault Refusal :=
  .next (issue [opWwait w c y] s)

/-- The meaning of `wlockSh`: it issues, blocks or traps as a bundle of its own (`opWlockSh`). -/
def execWlockSh (w : Nat) (c : Nat) (y : Sync) (s : State) : Host.Outcome State Fault Refusal :=
  .next (issue [opWlockSh w c y] s)

/-- The meaning of `wlockEx`: it issues, blocks or traps as a bundle of its own (`opWlockEx`). -/
def execWlockEx (w : Nat) (c : Nat) (y : Sync) (s : State) : Host.Outcome State Fault Refusal :=
  .next (issue [opWlockEx w c y] s)

/-- The meaning of `wunlock`: it issues, blocks or traps as a bundle of its own (`opWunlock`). -/
def execWunlock (w : Nat) (c : Nat) (y : Sync) (s : State) : Host.Outcome State Fault Refusal :=
  .next (issue [opWunlock w c y] s)

/-- The meaning of `fenceAnnounce`: the step `stepFenceAnnounce` on the operands that the state holds. -/
def execFenceAnnounce (s : State) : Host.Outcome State Fault Refusal :=
  .next (stepFenceAnnounce (s.arg 0) s)

/-- The meaning of `wfenceComplete`: the step `stepWfenceComplete` on the operands that the state holds. -/
def execWfenceComplete (s : State) : Host.Outcome State Fault Refusal :=
  .next (stepWfenceComplete (s.arg 0) (s.arg 1) s)

/-- The meaning of `postArrival`: the step `stepPostArrival` on the operands that the state holds. -/
def execPostArrival (s : State) : Host.Outcome State Fault Refusal :=
  .next (stepPostArrival (s.arg 0) s)

/-- The meaning of `completeArrival`: the step `stepCompleteArrival` on the operands that the state holds. -/
def execCompleteArrival (s : State) : Host.Outcome State Fault Refusal :=
  .next (stepCompleteArrival (s.arg 0) s)

/-- The meaning of `lockRequestArrival`: the step `stepLockRequestArrival` on the operands that the state holds. -/
def execLockRequestArrival (s : State) : Host.Outcome State Fault Refusal :=
  .next (stepLockRequestArrival (s.arg 0) s)

/-- The meaning of `lockReleaseArrival`: the step `stepLockReleaseArrival` on the operands that the state holds. -/
def execLockReleaseArrival (s : State) : Host.Outcome State Fault Refusal :=
  .next (stepLockReleaseArrival (s.arg 0) s)

/-- The meaning of `lockGrantArrival`: the step `stepLockGrantArrival` on the operands that the state holds. -/
def execLockGrantArrival (s : State) : Host.Outcome State Fault Refusal :=
  .next (stepLockGrantArrival (s.arg 0) s)

/-- The meaning of `lockRetry`: the step `stepLockRetry` on the operands that the state holds. -/
def execLockRetry (s : State) : Host.Outcome State Fault Refusal :=
  .next (stepLockRetry (s.arg 0) s)

/-- The meaning of `releaseAcknowledgement`: the step `stepReleaseAcknowledgement` on the operands that the state holds. -/
def execReleaseAcknowledgement (s : State) : Host.Outcome State Fault Refusal :=
  .next (stepReleaseAcknowledgement (s.arg 0) s)


end Sys2Proof.Machine
end

