-- ==== Sys2Proof/Machine/Reduce.lean ====
section
/-! DEFINITION. The reduce aperture as the Hokuben switches keep it: keys, contributions in their carry format, and the result
puts of the root (R287 to R292). -/

namespace Sys2Proof.Machine

/-! ## Carry formats (R290) -/

/-- The type in which partial results travel. -/
def carryTy (t : Ty) : Ty :=
  match t with
  | .i32 => .i64
  | .e4m3 | .e5m2 | .bf16 | .f16 => .f32
  | x => x

/-- An element widened to its carry format; each wire value has one. -/
def carryIn (t : Ty) (v : Nat) : Nat :=
  if t.isInt then wrapInt (carryTy t) (intOf t v)
  else if carryTy t = t then v else (floatRes (carryTy t) (floatOf t v, 0)).1

/-- One combination of two partials (R290): exact for integers, rounded once for floats, VMIN and VMAX with m = 0. -/
def combine (op : RedOp) (t : Ty) (x y : Nat) : Nat :=
  match op with
  | .add | .addSat => (addLane (carryTy t) false false x y).1
  | .min => (extLane (carryTy t) false false x y).1
  | .max => (extLane (carryTy t) false true x y).1

/-- The root's result in the wire type. -/
def carryOut (op : RedOp) (t : Ty) (v : Nat) : Nat :=
  if t.isInt then (if op = .addSat then (saturate t (intOf (carryTy t) v)).1 else wrapInt t (intOf (carryTy t) v))
  else if carryTy t = t then v else (floatRes t (floatOf (carryTy t) v, 0)).1

/-- The partials combined in pairs, whichever the switches bring together: `n` combinations with draws from `d` on. -/
def joinParts (op : RedOp) (t : Ty) (d : Nat) : Nat → List (List Nat) → List Nat
  | 0, l => l.headD []
  | n + 1, l =>
    let i := Config.choice d % l.length
    let x := l.getD i []
    let l1 := l.eraseIdx i
    if l1 = [] then x
    else
      let j := Config.choice (d + 1) % l1.length
      joinParts op t (d + 2) n (List.zipWith (combine op t) x (l1.getD j []) :: l1.eraseIdx j)

/-- Elements of `w` bytes. -/
def elements (w : Nat) (l : List Byte) (n : Nat) : List Nat := (List.range n).map fun i => lnat l (i * w) w

/-! ## Keys (R289) -/

/-- Operation codes, so that a key is plain numbers. -/
def redNum : RedOp → Nat
  | .add => 0 | .min => 1 | .max => 2 | .addSat => 3

def redOfNum (n : Nat) : RedOp := if n = 0 then .add else if n = 1 then .min else if n = 2 then .max else .addSat

/-- The wire types of XRED. -/
def redTys : List Ty := [.i32, .e4m3, .e5m2, .bf16, .f16, .f32, .f64]

/-- The place of a wire type in the list. -/
def redTyNum (t : Ty) : Nat := redTys.findIdx fun x => x == t

/-- The wire type at a place in the list. -/
def redTyOf (n : Nat) : Ty := redTys.getD n .i32

/-- Whether a key is the one of a group, an offset and a tag. -/
def RedKey.is (x : RedKey) (grp off tag : Nat) : Bool := x.grp == grp && x.off == off && x.tag == tag

/-- The members of a reduce group. -/
def State.redGroup (s : State) (grp : Nat) : List Nat := tget [] s.rgroups grp

/-- Whether every member has contributed. -/
def State.redWhole (s : State) (x : RedKey) : Bool := (s.redGroup x.grp).all x.members.contains

/-- A result put on its way to a member: its window and address are found at the member's port. -/
def resultReq (x : RedKey) (data : List Byte) : Req :=
  { id := 0, kind := .result, src := noPlace, ctx := 0, task := 0, flow := 0, inc := 0, seq := 0, ordered := false
    gv := false, gen := 0, win := x.grp, skind := 0, stamp := 0, tag := x.tag, tc := 0, addr := BitVec.ofNat 64 x.off
    count := x.count, data := data, cmp := 0, prog := none, vd := 0, pins := [] }

/-- The root's result, as bytes of the wire type. -/
def State.redResult (s : State) (x : RedKey) : List Byte :=
  let t := redTyOf x.ty
  let op := redOfNum x.op
  ((joinParts op t s.free x.parts.length x.parts).map fun v => leBytes (carryOut op t v) t.bytes).flatten

/-- The use of a key, now off the table, to which every member has contributed: its result goes to each, or nothing does when
contributions disagreed. -/
def State.redFinish (s : State) (x : RedKey) : State :=
  let s1 := { s with free := s.free + 2 * x.parts.length }
  if x.bad then s1
  else (s.redGroup x.grp).foldl (fun t p => t.send noPlace p (.req (resultReq x (s.redResult x)))) s1

/-- What a member is told when a key is abandoned or disagrees (R291). -/
def State.redTell (s : State) (x : RedKey) (l : List Nat) : State :=
  l.foldl (fun t p => t.send noPlace p (.redFail x.grp x.off x.tag)) s

/-- A use of a key as a contribution leaves it, at its place in the table or off it when it is whole. -/
def State.redPut (s : State) (i : Nat) (x : RedKey) : State :=
  if s.redWhole x then { s with reduce := s.reduce.eraseIdx i }.redFinish x
  else { s with reduce := s.reduce.take i ++ x :: s.reduce.drop (i + 1) }

/-- A contribution that reaches the tree (R289, R291). It joins the oldest use of its key to which its member has not
contributed, and opens a new one when there is none. -/
def State.contribute (s : State) (p grp off tag : Nat) (op : RedOp) (t : Ty) (count : Nat) (data : List Byte) : State :=
  let part := (elements t.bytes data (count / t.bytes)).map (carryIn t)
  let i := s.reduce.findIdx fun x => x.is grp off tag && !x.members.contains p
  match s.reduce[i]? with
  | none => s.redPut i ⟨grp, off, tag, redNum op, redTyNum t, count, false, [p], [part]⟩
  | some x =>
    let same := x.op == redNum op && x.ty == redTyNum t && x.count == count
    let x' : RedKey := { x with
      bad := x.bad || !same, members := x.members ++ [p], parts := if same then x.parts ++ [part] else x.parts }
    let s1 := if x'.bad then s.redTell x' (if x.bad then [p] else x'.members) else s
    s1.redPut i x'

/-- The tree abandons the use of a key to which a member contributed last, and what it had still to tell that member of it. -/
def State.redAbandon (s : State) (p grp off tag : Nat) : State :=
  let l := s.reduce.reverse
  let i := l.findIdx fun x => x.is grp off tag && x.members.contains p
  { s with
    reduce := (l.eraseIdx i).reverse
    wire := s.wire.filter fun m => !(m.dst == p && m.body == .redFail grp off tag) }

end Sys2Proof.Machine
end

