-- ==== Sys2Proof/Machine/Remote.lean ====
section
/-! DEFINITION. The origin's side of remote commands: their checks, the remote queue, the port's arbitration, stamps and
flows (R250 to R256, R266 to R274, R287 to R289, R302). -/

namespace Sys2Proof.Machine

/-! ## Shapes -/

/-- What a request of a command does at its target; `slot` is a channel put. -/
inductive RemShape where
  | get | put | acc (op : AccOp) (t : Ty) | amo (op : AmoOp) (t : Ty) | red (op : RedOp) (t : Ty) | slot
  deriving DecidableEq, Repr

def remShape : Instr → RemShape
  | .xget _ _ _ _ _ => .get
  | .xput _ _ _ _ _ _ => .put
  | .xputRel _ _ _ _ _ _ => .put
  | .xacc op t _ _ _ _ _ _ => .acc op t
  | .xamo op t _ _ _ _ _ => .amo op t
  | .xred op t _ _ _ _ _ => .red op t
  | _ => .slot

/-- The bytes that a command moves. -/
def remCount (sh : RemShape) (c : Word) : Nat := match sh with | .amo _ t => t.bytes | _ => c.toNat

/-- The bytes that the port reads at b before the command leaves. -/
def srcLen (sh : RemShape) (c : Word) : Nat :=
  match sh with
  | .get => 0
  | .amo op t => if op = .cas then t.bytes else 0
  | _ => c.toNat

/-- Whether local completion comes when the source has been read (R255, R278, R289). -/
def RemShape.readsSource (sh : RemShape) : Bool := match sh with | .get | .amo _ _ => false | _ => true

/-! ## The checks of R251 and R288 -/

/-- The operands of a command that R158 checks. -/
def remOpnds (sh : RemShape) (a b c : Word) : List Opnd :=
  let n := remCount sh c
  match sh with
  | .get => [⟨.copy, a, n, 1, a⟩, ⟨.remote, b, n, 1, b⟩]
  | .acc _ t | .amo _ t => [⟨.remote, a, n, t.bytes, a⟩, ⟨.copy, b, n, t.bytes, b⟩]
  | .red _ _ => [⟨.red, a, 0, 64, a⟩, ⟨.copy, b, n, 64, b⟩]
  | _ => [⟨.remote, a, n, 1, a⟩, ⟨.copy, b, n, 1, b⟩]

/-- The bits of a key register that are zero (R244). -/
def keyBad (e : Word) : Bool := bitsOf e 63 32 != 0 || bitsOf e 15 9 != 0

/-- The reduce group and offset of an aperture address (R9). -/
def redGrp (a : Word) : Nat := lowOf a / 2 ^ 32
def redOff (a : Word) : Nat := lowOf a % 2 ^ 32

/-- RGRP of a group at a die's port. -/
def State.rgrp (s : State) (die grp : Nat) : Word := s.dreg die 5 (0x40 + 8 * grp)

/-- The class checks that a command adds: the key, and for XRED the membership of the group. TRAPADDR is a bad key's value (log
entry 147). -/
def State.remClass (s : State) (sh : RemShape) (a : Word) (e : Nat) : Option (Cause × Word) :=
  match sh with
  | .red _ _ => if (s.rgrp (dieOf s.cur) (redGrp a)).getLsbD 0 then none else some (.addrClass, a)
  | _ => if e ≠ 0 ∧ keyBad (s.me.s e) = true then some (.addrClass, s.me.s e) else none

/-- The multiples that a count keeps. TRAPADDR is operand a's address (log entry 147). -/
def countTrap (sh : RemShape) (a c : Word) : Option (Cause × Word) :=
  match sh with
  | .acc _ t => if c.toNat % t.bytes ≠ 0 then some (.align, a) else none
  | .red _ _ => if c.toNat = 0 ∨ c.toNat % 64 ≠ 0 ∨ 65536 < c.toNat then some (.align, a) else none
  | _ => none

/-- The local range of a command. -/
def localRange (sh : RemShape) (a b c : Word) : Word × Nat := (match sh with | .get => a | _ => b, remCount sh c)

/-- The checks at issue, in order. -/
def remTrap (sh : RemShape) (a b c e : Nat) (s : State) : Option Trap :=
  let va := s.me.s a
  let vb := s.me.s b
  let vc := s.me.s c
  let l := remOpnds sh va vb vc
  let first : List (Option (Cause × Word)) :=
    [s.classTrap s.cur l, (match sh with | .red _ _ => s.remClass sh va e | _ => none),
     l.findSome? Opnd.rangeTrap, (match sh with | .red _ _ => none | _ => s.remClass sh va e), countTrap sh va vc,
     l.findSome? Opnd.alignTrap]
  match first.findSome? id with
  | some x => some (trapOf .c x)
  | none => (s.noViewTrap s.cur [localRange sh va vb vc]).map fun x => Slot.c.trap x 0 0

/-! ## Acceptance (R251, R253, R254) -/

/-- A command of the acting context as it is accepted. With no key register the window is WCUR (R250). -/
def State.remCmd (s : State) (id : Nat) (i : Instr) (a b c e tag : Nat) (rel : Bool) (x : XArgs) : RemCmd :=
  let sh := remShape i
  let va := s.me.s a
  let vb := s.me.s b
  let k := s.me.s e
  { id := id, op := i, vd := s.vdOf s.cur, place := match sh with | .red _ _ => noPlace | .get => s.placeOf vb | _ => s.placeOf va
    a := va, b := vb, c := s.me.s c, gv := e != 0 && k.getLsbD 8, gen := if e = 0 then 0 else bitsOf k 31 16
    win := if e = 0 then s.me.wcur.getD 0 else bitsOf k 7 0, flow := x.flow, tc := x.tc, tag := tag, rel := rel, ord := s.me.ord.getLsbD x.flow, buf := []
    owed := [], chan := 0, seq := 0, hold := none, done := s.done x.hnd x.y }

/-- The comparand of a cas as read at acceptance; a slot whose page faults is read by the port. Its banks serve it at once when
they are free, and else the read still has to take them (R146; log entry 144). -/
def State.casRead (s : State) (x : RemCmd) : RemCmd × State :=
  match remShape x.op with
  | .amo .cas t =>
    let r := s.areadN (dieOf s.cur) x.vd x.b t.bytes .read (some s.cur)
    let bs := addrBanks x.b t.bytes
    match r.1 with
    | .bytes l _ => if s.bankBusy bs then ({ x with buf := l, owed := bs }, r.2) else ({ x with buf := l }, r.2.takeBanks 0 bs)
    | _ => (x, r.2)
  | _ => (x, s)

/-- OUT, LOC and REM of a command complete at acceptance rise at the end of the cycle. -/
def State.acceptWhole (s : State) (hnd : Option Nat) : State :=
  match hnd with
  | none => s
  | some h => s.push s.cur ⟨.whole h, 0, fullMask, 0, 1, .c, false⟩

/-- A remote command as an operation of the C slot. -/
def remOp (i : Instr) (a b c e tag : Nat) (rel : Bool) (x : XArgs) : Op :=
  let sh := remShape i
  { Op.cmd .c x.y with
    ready := fun s => decide ((s.core (coreOf s.cur)).remote.length < 32) && !s.me.hndFull x.hnd
    addr := remTrap sh a b c e
    effect := fun s =>
      if remCount sh (s.me.s c) = 0 then (s.signalBoth x.y).acceptWhole x.hnd
      else
        let f := s.fresh
        let r := f.2.casRead (s.remCmd f.1 i a b c e tag rel x)
        ((r.2.modCore (coreOf s.cur) fun k => { k with remote := k.remote ++ [r.1] }).signalAccept x.y).accept x.hnd }

def opXget (a b c e : Nat) (x : XArgs) : Op := remOp (.xget a b c e x) a b c e 0 false x
def opXput (a b c e tag : Nat) (x : XArgs) : Op := remOp (.xput a b c e tag x) a b c e tag false x
def opXputRel (a b c e tag : Nat) (x : XArgs) : Op := remOp (.xputRel a b c e tag x) a b c e tag true x
def opXacc (op : AccOp) (t : Ty) (a b c e tag : Nat) (x : XArgs) : Op := remOp (.xacc op t a b c e tag x) a b c e tag false x
def opXamo (op : AmoOp) (t : Ty) (a b c e : Nat) (x : XArgs) : Op := remOp (.xamo op t a b c e x) a b c e 0 false x
def opXred (op : RedOp) (t : Ty) (a b c tag : Nat) (x : XArgs) : Op := remOp (.xred op t a b c tag x) a b c 0 tag false x

/-! ## What holds a command (R252, R267, R274, R289) -/

/-- Whether a request belongs to a remote command of a task: channel puts are none (R302). -/
def Outst.remoteOf (o : Outst) (task : Nat) : Bool := o.done.of task && remShape o.op != .slot

/-- Whether an XRED of the die on a key has not completed. -/
def Die.redPending (d : Die) (grp off tag : Nat) : Bool :=
  d.outst.any fun o => (match remShape o.op with | .red _ _ => true | _ => false) && o.win == grp &&
    o.landing == BitVec.ofNat 64 off && o.flow == tag

/-- Whether a command is held at the port: XPUT.rel by earlier commands, a fence window by its fence, an XRED by the
first on its key. -/
def State.remHeld (s : State) (die : Nat) (x : RemCmd) : Bool :=
  let d := s.die die
  let w := s.win die x.win
  (x.rel && d.outst.any fun o => o.remoteOf x.done.task) ||
    (match remShape x.op with
     | .red _ _ => d.redPending (redGrp x.a) (redOff x.a) x.tag
     | .slot => false
     | _ => w.live && w.mode == 1 && w.isClosing && !w.early.contains x.id)

/-- Whether a virtual device's port requests are refused with TARGET_DOWN (R332). -/
def State.deadVd (s : State) (die vd : Nat) : Bool := (s.die die).deadVds.contains vd

/-- Whether a command may go on: its virtual device's port lives, and a halted die starts nothing. -/
def State.remLive (s : State) (die : Nat) (x : RemCmd) : Bool :=
  !s.deadVd die x.vd && !((s.die die).halted && x.buf.isEmpty) && x.hold.isNone

/-- The head of a core's remote queue. -/
def State.remHead (s : State) (core : Nat) : Option RemCmd := (s.core core).remote.head?

/-- The head of a core's remote queue replaced. -/
def State.setRem (s : State) (core : Nat) (x : RemCmd) : State :=
  s.modCore core fun c => { c with remote := match c.remote with | [] => [] | _ :: l => x :: l }

/-- The next chunk of the head's source read by the port, and first the banks that its comparand still has to take. -/
def State.readRem (s : State) (core : Nat) : State :=
  let die := core / 64
  match s.remHead core with
  | none => s
  | some x =>
    if !x.owed.isEmpty then (if s.bankBusy x.owed then s else (s.takeBanks 0 x.owed).setRem core { x with owed := [] })
    else
    let sh := remShape x.op
    let need := srcLen sh x.c
    let a := x.b + BitVec.ofNat 64 x.buf.length
    let n := s.pieceAt die x.vd a (need - x.buf.length)
    if need ≤ x.buf.length ∨ s.remLive die x = false ∨ s.remHeld die x = true ∨ s.bankBusy (addrBanks a n) = true then s
    else
      let r := s.engRead die x.vd a n .read x.done (x.buf.isEmpty || a.toNat % 64 == 0)
      match r.1 with
      | .bytes l _ =>
        let s1 := (r.2.takeBanks 0 (addrBanks a n)).setRem core { x with buf := x.buf ++ l }
        if sh.readsSource && need ≤ x.buf.length + n then s1.count x.done 1 0 0 0 else s1
      | .fault c _ =>
        let f := r.2.pageFault die (some (.queue core 4)) fun t => ctxFault x.done.ctx c 0 a.toNat 0xFF x.vd x.done.task t
        f.2.setRem core { x with hold := some f.1 }
      | .node off => r.2.tableNode die x.vd off
      | _ => r.2

/-- `n` chunks of the head's source. -/
def State.readRems (s : State) (core : Nat) : Nat → State
  | 0 => s
  | n + 1 => (s.readRem core).readRems core n

/-! ## Flows (R266 to R268) -/

/-- The flow-table entry of a context's flow to a place. -/
def Die.flow (d : Die) (k flow place : Nat) : Option FlowE :=
  d.flows.find? fun f => f.ctx == k && f.flow == flow && f.place == place

/-- Whether a command can have a flow-table entry now: its own, or a free one. XRED travels on no flow. -/
def Die.flowRoom (d : Die) (x : RemCmd) : Bool :=
  (match remShape x.op with | .red _ _ => true | _ => false) || (d.flow x.done.ctx x.flow x.place).isSome ||
    decide (d.flows.length < 1024)

/-- Whether a request of a task that has been dispatched again or restored waits for those of its former context: its flows open
new incarnations only after every one of them has completed remotely (R267, R304). -/
def State.movedOut (s : State) (die : Nat) (x : RemCmd) : Bool :=
  let c := s.ctx x.done.ctx
  !c.before.isEmpty && c.task == x.done.task && !c.before.contains x.id &&
    (s.requestsOf die x.done.task).any c.before.contains

/-- A sequence number taken: the flow's incarnation and number, with the entry made at its first request. -/
def State.takeSeq (s : State) (die : Nat) (x : RemCmd) : FlowE × State :=
  match (s.die die).flow x.done.ctx x.flow x.place with
  | some f =>
    (f, s.modDie die fun d => { d with flows := d.flows.map fun z => if z = f then { f with next := f.next + 1 } else z })
  | none =>
    let r := s.fresh
    let f : FlowE := ⟨x.done.ctx, x.flow, x.place, r.1, 0⟩
    (f, r.2.modDie die fun d => { d with flows := d.flows ++ [{ f with next := 1 }] })

/-- Whether a channel put of a flow has been taken from its copy queue and not sent. -/
def Die.putAhead (d : Die) (k flow place : Nat) : Bool :=
  d.outq.any fun z => z.done.ctx == k && z.flow == flow && z.place == place

/-- A flow-table entry for a request taken from its queue, made when its flow has none. -/
def State.openFlow (s : State) (die : Nat) (x : RemCmd) : State :=
  if ((s.die die).flow x.done.ctx x.flow x.place).isSome then s
  else
    let r := s.fresh
    r.2.modDie die fun d => { d with flows := d.flows ++ [⟨x.done.ctx, x.flow, x.place, r.1, 0⟩] }

/-- A flow-table entry freed once every request of its flow has completed remotely. -/
def State.freeFlow (s : State) (die k flow place : Nat) : State :=
  if (s.die die).putAhead k flow place || (s.die die).outst.any fun o => o.ctx == k && o.flow == flow && o.place == place then s
  else s.modDie die fun d => { d with flows := d.flows.filter fun f => !(f.ctx == k && f.flow == flow && f.place == place) }

/-! ## Completion at the origin (R182, R255) -/

/-- A request complete remotely: it leaves the port's list, its flow may end, and its handle and signal follow. -/
def State.remEnd (s : State) (die : Nat) (o : Outst) (err : Nat) : State :=
  let s1 := (s.modDie die fun d => { d with outst := d.outst.filter fun z => z.id != o.id }).freeFlow die o.ctx o.flow o.place
  (s1.count o.done (if o.counted then 0 else 1) 1 o.bytes err).sigDone o.done

/-- A command that fails before it is sent; it has been counted locally complete when all of its source has been read. -/
def State.remFail (s : State) (x : RemCmd) (err : Nat) : State :=
  (s.count x.done (if (remShape x.op).readsSource && decide (srcLen (remShape x.op) x.c ≤ x.buf.length) then 0 else 1) 1 0 err).sigDone x.done

/-- A rejection counted (R246): WREJCL, WREJGN, WREJRG or WREJMD. -/
def State.rejected (s : State) (die err : Nat) : State :=
  if err = 1 then s.bumpDreg die 4 0x08 1 else if err = 2 then s.bumpDreg die 4 0x10 1
  else if err = 3 then s.bumpDreg die 4 0x18 1 else if err = 4 then s.bumpDreg die 4 0x20 1 else s

/-! ## Stamps and sending (R256, R265) -/

/-- The stamp that a request takes as it leaves, or its refusal; `none` in the last place leaves the entry as it is. -/
def State.stampOf (s : State) (die : Nat) (x : RemCmd) : Except Nat (Nat × Nat × Bool) :=
  let w := s.win die x.win
  match remShape x.op with
  | .slot => .ok (0, 0, false)
  | _ =>
    if w.live && w.mode == 1 then
      (if w.fst = .final then .ok (1, w.n + 1, false) else if w.n = 0 then .error 1 else .ok (1, w.n, true))
    else if w.live && w.mode == 2 then
      (match tfind w.ax x.place with | some n => .ok (2, n, true) | none => .error 1)
    else .ok (0, 0, false)

/-- A request counted for its epoch: SENT rises and the fence or WCOMPL will wait for it. -/
def State.stampSent (s : State) (die : Nat) (x : RemCmd) : State :=
  s.modWin die x.win fun w =>
    { w with sent := tput w.sent x.place (tget 0 w.sent x.place + 1), stamped := w.stamped ++ [x.id] }

/-- The kind of a command's request. -/
def RemCmd.kind (x : RemCmd) : ReqKind :=
  match remShape x.op with
  | .get => .get
  | .acc op t => .acc op t
  | .amo op t => .amo op t
  | .slot => .slot x.chan x.seq
  | _ => .put

/-- The operand bytes that a request carries: its source, or XAMO's operand value. -/
def RemCmd.payload (x : RemCmd) : List Byte :=
  match remShape x.op with
  | .get => []
  | .amo _ t => leBytes x.c.toNat t.bytes
  | _ => x.buf

/-- The request bytes that R273 and R274 count: the data carried. -/
def RemCmd.bytes (x : RemCmd) : Nat := x.payload.length

/-- A command's entry in the port's list of requests. -/
def State.outstOf (s : State) (x : RemCmd) : Outst :=
  let sh := remShape x.op
  { id := x.id, op := x.op, place := x.place, ctx := x.done.ctx, flow := x.flow, win := match sh with | .slot => 256 | _ => x.win
    bytes := remCount sh x.c, landing := match sh with | .get => x.a | _ => x.b, landed := 0, vd := x.vd
    counted := sh.readsSource, sentAt := s.clock, done := x.done }

/-- An XRED leaves the port: its contribution goes to the tree. -/
def State.sendRed (s : State) (die : Nat) (x : RemCmd) (op : RedOp) (t : Ty) : State :=
  let o : Outst := { s.outstOf x with win := redGrp x.a, landing := BitVec.ofNat 64 (redOff x.a), flow := x.tag }
  (s.modDie die fun d => { d with outst := d.outst ++ [o] }).contribute (s.place die) (redGrp x.a) (redOff x.a) x.tag op t
    x.c.toNat x.buf

/-- The traffic class in which a command is sent: tc0 when TCMASK lacks its own (R356). -/
def State.classOf (s : State) (die : Nat) (x : RemCmd) : Nat := if (s.reg die x.vd 0 0x70).getLsbD x.tc then x.tc else 0

/-- A command leaves the port: it is sent with its stamp and sequence number, or completes unsent. One of a virtual device whose
port is dead is refused with TARGET_DOWN (R332). -/
def State.sendRem (s : State) (die : Nat) (x : RemCmd) : State :=
  if s.deadVd die x.vd then (s.remFail x 5).freeFlow die x.done.ctx x.flow x.place
  else
  match remShape x.op with
  | .red op t => s.sendRed die x op t
  | sh =>
    if s.isDown die x.place then (s.remFail x 5).freeFlow die x.done.ctx x.flow x.place
    else
      match s.stampOf die x with
      | .error e => (s.remFail x e).rejected die e
      | .ok (kind, v, counted) =>
        let s0 := if counted then s.stampSent die x else s
        let r := s0.takeSeq die x
        let q : Req :=
          { id := x.id, kind := x.kind, src := s.place die, ctx := x.done.ctx, task := x.done.task, flow := x.flow
            inc := r.1.inc, seq := r.1.next, ordered := x.ord, gv := x.gv, gen := x.gen
            win := x.win, skind := kind, stamp := v, tag := x.tag, tc := s.classOf die x
            addr := match sh with | .get => x.b | _ => x.a
            count := remCount sh x.c, data := x.payload, cmp := leNat x.buf, prog := none, vd := 0, pins := [] }
        (r.2.modDie die fun d => { d with outst := d.outst ++ [s.outstOf x] }).send (s.place die) x.place (.req q)

/-! ## Arbitration (R273, R274, R356) -/

/-- Whether a virtual device's cap lets `n` more bytes go in this window; a request larger than the cap goes at its start. -/
def State.capOk (s : State) (die vd n : Nat) : Bool :=
  let cap := (s.reg die vd 5 0).toNat
  let used := tget 0 (s.die die).used vd
  cap == 0 || used == 0 || decide (used + n ≤ 1000 * cap)

/-- Whether a command may leave the port now, which refuses one of a dead virtual device at once. -/
def State.maySend (s : State) (die : Nat) (x : RemCmd) : Bool :=
  s.deadVd die x.vd || decide (srcLen (remShape x.op) x.c ≤ x.buf.length) && x.owed.isEmpty && s.remLive die x && !s.remHeld die x && s.capOk die x.vd x.bytes &&
    (s.die die).flowRoom x && !s.movedOut die x

/-- What waits to leave a port: the head of a core's remote queue, a channel put by its place, or a request to be sent again
(R269; log entry 125). -/
inductive Waiter where
  | head (core : Nat) (x : RemCmd) | put (i : Nat) (x : RemCmd) | again (i place : Nat) (r : Req)
  deriving DecidableEq, Repr

/-- A die's request by its number. -/
def Die.request (d : Die) (id : Nat) : Option Outst := d.outst.find? fun o => o.id == id

/-- The virtual device of what waits, its class and the bytes that R273 and R274 count. -/
def State.vdOfWaiter (s : State) (die : Nat) : Waiter → Nat
  | .head _ x | .put _ x => x.vd
  | .again _ _ r => match (s.die die).request r.id with | some o => o.vd | none => 0
def State.classOfWaiter (s : State) (die : Nat) : Waiter → Nat
  | .head _ x | .put _ x => s.classOf die x
  | .again _ _ r => r.tc
def Waiter.bytes : Waiter → Nat
  | .head _ x | .put _ x => x.bytes
  | .again _ _ r => match r.kind with | .get => 0 | _ => r.data.length

/-- Whether what waits may leave now. A remote command is numbered when it leaves, behind the channel puts of its flow that were
taken before it (R267). -/
def State.mayLeave (s : State) (die : Nat) (w : Waiter) : Bool :=
  match w with
  | .head _ x =>
    s.maySend die x && ((match remShape x.op with | .red _ _ => true | _ => false) ||
      !(s.die die).putAhead x.done.ctx x.flow x.place)
  | .put _ x => s.maySend die x
  | .again _ _ _ => s.capOk die (s.vdOfWaiter die w) w.bytes

/-- What may leave: the heads of the remote queues, the channel puts that stand behind no other of their context, and the
requests to be sent again. -/
def State.waiting (s : State) (die : Nat) : List Waiter :=
  let q := (s.die die).outq
  let a := (s.die die).resend
  let heads : List Waiter := (List.range 64).filterMap fun c => (s.remHead (64 * die + c)).map fun x => .head c x
  let puts : List Waiter := (List.range q.length).filterMap fun i => match q[i]? with
    | some x => if (q.take i).any fun z => z.done.ctx == x.done.ctx then none else some (.put i x)
    | none => none
  let again : List Waiter := (List.range a.length).filterMap fun i => a[i]?.map fun e => .again i e.1 e.2
  (heads ++ puts ++ again).filter (s.mayLeave die)

/-- What waits taken from where it waits, and sent. -/
def State.leaveWaiter (s : State) (die : Nat) (w : Waiter) : State :=
  match w with
  | .head c x => (s.modCore (64 * die + c) fun y => { y with remote := y.remote.drop 1 }).sendRem die x
  | .put i x => (s.modDie die fun d => { d with outq := d.outq.eraseIdx i }).sendRem die x
  | .again i p r =>
    let t := s.modDie die fun d => { d with resend := d.resend.eraseIdx i }
    match (s.die die).request r.id with
    | some o => if s.deadVd die o.vd then t.remEnd die o 5 else t.send (s.place die) p (.req r)
    | none => t.send (s.place die) p (.req r)

/-- One of those of a class that wait sent, whichever the port takes; `cr` bounds its bytes. -/
def State.sendOne (s : State) (die cl : Nat) (cr : Option Nat) : Option State :=
  let l := (s.waiting die).filter fun w => s.classOfWaiter die w == cl
  match l[Config.choice s.free % l.length]? with
  | none => none
  | some w =>
    let n := w.bytes
    if cr.any fun c => decide (c < n) then none
    else
      let vd := s.vdOfWaiter die w
      some (({ s with free := s.free + 1 }.modDie die fun d =>
        { d with used := tput d.used vd (tget 0 d.used vd + n)
                 credit := if cr.isSome then tput d.credit cl (tget 0 d.credit cl - n) else d.credit }).leaveWaiter die w)

/-- Whether a request of a class waits. -/
def State.classWaits (s : State) (die cl : Nat) : Bool := (s.waiting die).any fun w => s.classOfWaiter die w == cl

/-- A class served while its credit lasts, at most `n` requests. -/
def State.serveClass (s : State) (die cl : Nat) : Nat → State
  | 0 => s
  | n + 1 =>
    if s.classWaits die cl then
      (match s.sendOne die cl (some (tget 0 (s.die die).credit cl)) with
       | some s1 => s1.serveClass die cl n
       | none => s)
    else s.modDie die fun d => { d with credit := tput d.credit cl 0 }

/-- TCWEIGHT of a class. -/
def State.weight (s : State) (die cl : Nat) : Nat := (s.dreg die 5 0x08).toNat / 256 ^ cl % 256

/-- The commands at a die's port, which bound what a round can send. -/
def State.portLoad (s : State) (die : Nat) : Nat :=
  (s.die die).outq.length + (s.die die).resend.length + (s.remotes die).length

/-- One class of a round. -/
def State.roundClass (s : State) (die cl : Nat) : State :=
  if s.weight die cl ≠ 0 ∧ s.classWaits die cl = true then
    (s.modDie die fun d => { d with credit := tput d.credit cl (tget 0 d.credit cl + 256 * s.weight die cl) }).serveClass die cl
      (s.portLoad die + 1)
  else s

/-- One round of the deficit round robin. A class of weight 0 is served only when no other has a request waiting. -/
def State.round (s : State) (die : Nat) : State :=
  if [0, 1, 2, 3].any fun c => s.weight die c != 0 && s.classWaits die c then
    [0, 1, 2, 3].foldl (fun t c => t.roundClass die c) s
  else
    match [0, 1, 2, 3].find? (s.classWaits die) with
    | some c => (s.sendOne die c none).getD s
    | none => s

/-- PORT_ARBITRATION: `n` chunks of the source of a core's head are read, or, with none, one round is served. -/
def stepPortArbitration (die core n : Nat) (s : State) : State :=
  if n = 0 then s.round die else s.readRems (64 * die + core % 64) n

/-- VDCAP_WINDOW (R274): a new window of 1400 cycles begins. -/
def stepVdcapWindow (die : Nat) (s : State) : State := s.modDie die fun d => { d with used := [] }

/-! ## Acknowledgements and data at the origin (R255) -/

/-- REMOTE_ACK: the target has performed or rejected a request. -/
def stepRemoteAck (n : Nat) (s : State) : State :=
  match s.msg n with
  | some ⟨_, dst, .ack id err _ _⟩ =>
    match (s.die (dst % 16)).request id with
    | some o => (s.taken n).remEnd (dst % 16) o err
    | none => s.taken n
  | _ => s

/-- A request's entry replaced. -/
def State.setOutst (s : State) (die : Nat) (o : Outst) : State :=
  s.modDie die fun d => { d with outst := d.outst.map fun z => if z.id = o.id then o else z }

/-- Whether a request's data has landed whole, with no beat in the log (R211). -/
def State.landedAll (s : State) (o : Outst) : Bool :=
  decide (o.bytes ≤ o.landed) && !(s.core (coreOf o.ctx)).log.any fun b => b.id == o.id

/-- A get complete when all of it has landed. -/
def State.landCheck (s : State) (die id : Nat) : State :=
  match (s.die die).request id with
  | some o => if !o.counted && s.landedAll o then s.remEnd die o 0 else s
  | none => s

/-- The next chunk of a get's data written at the origin; a beat that faults is logged. A get of a virtual device whose walks have
stopped ends with TARGET_DOWN where it needs one (R332; log entry 157). -/
def State.landChunk (s : State) (die : Nat) (o : Outst) (l : List Byte) : State :=
  let a := o.landing + BitVec.ofNat 64 o.landed
  let n := s.pieceAt die o.vd a (o.bytes - o.landed)
  let l1 := (l.drop o.landed).take n
  let go := fun t : State => (t.setOutst die { o with landed := o.landed + n }).landCheck die o.id
  if o.bytes ≤ o.landed ∨ s.bankBusy (addrBanks a n) = true then s
  else
    let r := s.engWrite die o.vd a l1 o.done (o.landed == 0 || a.toNat % 64 == 0)
    match r.1 with
    | .done => go (r.2.takeBanks 0 (addrBanks a n))
    | .fault c _ =>
      (match r.2.logBeat (coreOf o.ctx) 4 o.id 0 o.ctx o.vd o.done.task c a l1 with | some t => go t | none => s)
    | .node off => r.2.tableNode die o.vd off
    | .dead => (r.2.dropBeats die [o.id]).remEnd die o 5
    | _ => r.2

/-- `k` chunks of the data of a message. -/
def State.landChunks (s : State) (die id : Nat) (l : List Byte) : Nat → State
  | 0 => s
  | k + 1 =>
    match (s.die die).request id with
    | some o => (s.landChunk die o l).landChunks die id l k
    | none => s

/-- GET_DATA_LAND: chunks of get data, or of an XAMO's old value, are written; the message goes with the last. -/
def stepGetDataLand (n k : Nat) (s : State) : State :=
  match s.msg n with
  | some ⟨_, dst, .data id l _⟩ =>
    let die := dst % 16
    let s1 := s.landChunks die id l k
    match (s1.die die).request id with
    | some o => if o.bytes ≤ o.landed then s1.taken n else s1
    | none => s1.taken n
  | _ => s

/-- FLOW_RETRY (R269): a request refused with RETRY waits at the port from 256 cycles on to be sent again; one that has
completed in the meantime is not sent (R265). -/
def stepFlowRetry (n : Nat) (s : State) : State :=
  match s.msg n with
  | some ⟨src, dst, .retry r at_⟩ =>
    if s.clock < at_ + 256 then s
    else if ((s.die (dst % 16)).request r.id).isSome && !s.isDown (dst % 16) src then
      (s.taken n).modDie (dst % 16) fun d => { d with resend := d.resend ++ [(src, r)] }
    else s.taken n
  | _ => s

/-! ## Places that go down and come up (R265) -/

/-- What a fence, a WCOMPL, an unlock or a lock request of a die no longer waits for. -/
def State.dropWaits (s : State) (die p : Nat) : State :=
  let s1 := s.modDie die fun d => { d with
    lockAsks := d.lockAsks.map fun x => if x.place = p ∧ x.answer.isNone = true then { x with answer := some 5 } else x
    wins := d.wins.map fun e =>
    let w := e.2
    let fence := w.mode == 1 && w.isClosing && (s.members die w).contains p && !w.fenced p
    let compl := w.mode == 2 && w.ends.contains p
    let out := d.outst.any fun o => w.stamped.contains o.id && o.place == p
    (e.1, if w.live && (fence || compl || (w.isClosing && out)) then { w with downs := w.downs ++ [p] } else w) }
  (dieCtxs die).foldl (fun t k =>
    match (t.ctx k).held, (t.ctx k).wdown with
    | some h, _ => if h.op = .unlock ∧ h.place = p then t.wDone k 5 else t
    | none, some l => t.modCtx k fun c => { c with wdown := some (l ++ [p]) }
    | none, none => t) s1

/-- What a place of this package knows of the flows of a place whose requests to it have ended: those in progress release their
pins, and nothing of the flows is kept (R236, R267). -/
def State.flowsEnd (s : State) (src dst : Nat) : State :=
  if dst / 16 ≠ s.epid then s
  else
    (s.wire.foldl (fun t m => match m.body with
      | .req r => if m.src = src ∧ m.dst = dst then t.unpin (dst % 16) r.pins else t
      | _ => t) s).modDie (dst % 16) fun d => { d with
        flowsIn := d.flowsIn.filter (fun f => f.src != src), rob := d.rob.filter fun r => r.src != src }

/-- Whether a message is lost when a place goes down to another: what is on its way to it, and the retries of its requests. -/
def lostWith (src dst : Nat) (m : Msg) : Bool :=
  (m.src == src && m.dst == dst) || (m.src == dst && m.dst == src && match m.body with | .retry _ _ => true | _ => false)

/-- PLACE_DOWN: requests to the place complete with TARGET_DOWN, those of a get in the log with their beats, the flows to it end on
both sides, and nothing waits on it. The flows that come from it go on (R267). -/
def stepPlaceDown (die p : Nat) (s : State) : State :=
  if s.isDown die p then s
  else
    let s1 := s.dropWaits die p
    let lost := (s1.die die).outst.filter fun o => o.place == p
    let s2 := (lost.foldl (fun t o => t.remEnd die o 5) (s1.dropBeats die (lost.map fun o => o.id))).flowsEnd (s.place die) p
    let s3 := s2.modDie die fun d => { d with
      down := d.down ++ [p], flows := d.flows.filter (fun f => f.place != p), resend := d.resend.filter fun e => e.1 != p }
    { s3 with wire := s3.wire.filter fun m => !lostWith (s.place die) p m }

/-- Whether a place cannot come up yet: it is a die of this package that has fault-halted or has a reset under way that makes it
down (R328, R358). -/
def State.staysDown (s : State) (p : Nat) : Bool :=
  p / 16 == s.epid && ((s.die (p % 16)).halted || (s.die (p % 16)).resets.any fun x => decide (3 ≤ x.scope))

/-- PLACE_UP. -/
def stepPlaceUp (die p : Nat) (s : State) : State :=
  if s.staysDown p then s else s.modDie die fun d => { d with down := d.down.filter fun q => q != p }

/-! ## FLOWCFG (R271) -/

/-- Whether a remote command of the acting context on a flow of a mask has not completed remotely; an XRED travels on none
(R266). -/
def flowsBusy (mask : Nat) (s : State) : Bool :=
  let k := s.cur
  let task := s.me.task
  let red := fun i : Instr => match remShape i with | .red _ _ => true | _ => false
  ((s.remotes (dieOf k)).any fun x => x.done.of task && mask.testBit x.flow && !red x.op) ||
    ((s.die (dieOf k)).outst.any fun o => o.remoteOf task && mask.testBit o.flow && !red o.op)

def opFlowcfg (a b : Nat) (y : Sync) : Op :=
  { (Op.cmd .y y).atOnce y (fun s =>
      let m := (s.me.s a).setWidth 16
      s.modMe fun c => { c with ord := (c.ord &&& ~~~m) ||| ((c.s b).setWidth 16 &&& m) }) with
    ready := fun s => !flowsBusy ((s.me.s a).toNat % 65536) s }

/-- The meaning of `xget`: it issues, blocks or traps as a bundle of its own (`opXget`). -/
def execXget (a : Nat) (b : Nat) (c : Nat) (e : Nat) (x : XArgs) (s : State) : Host.Outcome State Fault Refusal :=
  .next (issue [opXget a b c e x] s)

/-- The meaning of `xput`: it issues, blocks or traps as a bundle of its own (`opXput`). -/
def execXput (a : Nat) (b : Nat) (c : Nat) (e : Nat) (tag : Nat) (x : XArgs) (s : State) : Host.Outcome State Fault Refusal :=
  .next (issue [opXput a b c e tag x] s)

/-- The meaning of `xputRel`: it issues, blocks or traps as a bundle of its own (`opXputRel`). -/
def execXputRel (a : Nat) (b : Nat) (c : Nat) (e : Nat) (tag : Nat) (x : XArgs) (s : State) : Host.Outcome State Fault Refusal :=
  .next (issue [opXputRel a b c e tag x] s)

/-- The meaning of `xacc`: it issues, blocks or traps as a bundle of its own (`opXacc`). -/
def execXacc (op : AccOp) (t : Ty) (a : Nat) (b : Nat) (c : Nat) (e : Nat) (tag : Nat) (x : XArgs) (s : State) : Host.Outcome State Fault Refusal :=
  .next (issue [opXacc op t a b c e tag x] s)

/-- The meaning of `xamo`: it issues, blocks or traps as a bundle of its own (`opXamo`). -/
def execXamo (op : AmoOp) (t : Ty) (a : Nat) (b : Nat) (c : Nat) (e : Nat) (x : XArgs) (s : State) : Host.Outcome State Fault Refusal :=
  .next (issue [opXamo op t a b c e x] s)

/-- The meaning of `xred`: it issues, blocks or traps as a bundle of its own (`opXred`). -/
def execXred (op : RedOp) (t : Ty) (a : Nat) (b : Nat) (c : Nat) (tag : Nat) (x : XArgs) (s : State) : Host.Outcome State Fault Refusal :=
  .next (issue [opXred op t a b c tag x] s)

/-- The meaning of `flowcfg`: it issues, blocks or traps as a bundle of its own (`opFlowcfg`). -/
def execFlowcfg (a : Nat) (b : Nat) (y : Sync) (s : State) : Host.Outcome State Fault Refusal :=
  .next (issue [opFlowcfg a b y] s)

/-- The meaning of `portArbitration`: the step `stepPortArbitration` on the operands that the state holds. -/
def execPortArbitration (s : State) : Host.Outcome State Fault Refusal :=
  .next (stepPortArbitration (s.arg 0) (s.arg 1) (s.arg 2) s)

/-- The meaning of `vdcapWindow`: the step `stepVdcapWindow` on the operands that the state holds. -/
def execVdcapWindow (s : State) : Host.Outcome State Fault Refusal :=
  .next (stepVdcapWindow (s.arg 0) s)

/-- The meaning of `remoteAck`: the step `stepRemoteAck` on the operands that the state holds. -/
def execRemoteAck (s : State) : Host.Outcome State Fault Refusal :=
  .next (stepRemoteAck (s.arg 0) s)

/-- The meaning of `getDataLand`: the step `stepGetDataLand` on the operands that the state holds. -/
def execGetDataLand (s : State) : Host.Outcome State Fault Refusal :=
  .next (stepGetDataLand (s.arg 0) (s.arg 1) s)

/-- The meaning of `flowRetry`: the step `stepFlowRetry` on the operands that the state holds. -/
def execFlowRetry (s : State) : Host.Outcome State Fault Refusal :=
  .next (stepFlowRetry (s.arg 0) s)

/-- The meaning of `placeDown`: the step `stepPlaceDown` on the operands that the state holds. -/
def execPlaceDown (s : State) : Host.Outcome State Fault Refusal :=
  .next (stepPlaceDown (s.arg 0) (s.arg 1) s)

/-- The meaning of `placeUp`: the step `stepPlaceUp` on the operands that the state holds. -/
def execPlaceUp (s : State) : Host.Outcome State Fault Refusal :=
  .next (stepPlaceUp (s.arg 0) (s.arg 1) s)


end Sys2Proof.Machine
end

