-- ==== Sys2Proof/Machine/Port.lean ====
section
/-! DEFINITION. The target's side of the port: flow order and the reorder buffer, the checks of R257, requests performed chunk
by chunk, and their replies (R249, R254, R256 to R264, R268, R269, R272, R279, R287, R289). -/

namespace Sys2Proof.Machine

/-! ## Flow order (R268, R269) -/

/-- Whether an incarnation is a request's. -/
def FlowIn.is (f : FlowIn) (r : Req) : Bool := f.src == r.src && f.ctx == r.ctx && f.flow == r.flow && f.inc == r.inc

/-- What the port knows of a request's incarnation. -/
def Die.flowIn (d : Die) (r : Req) : FlowIn := (d.flowsIn.find? fun f => f.is r).getD ⟨r.src, r.ctx, r.flow, r.inc, 0, []⟩

/-- The lowest number not seen, from `next` on. -/
def skipSeen (next : Nat) (seen : List Nat) : Nat → Nat
  | 0 => next
  | n + 1 => if seen.contains next then skipSeen (next + 1) seen n else next

/-- A sequence number performed or rejected. An older incarnation of the same flow has ended, with every request of it (R267). -/
def State.seqDone (s : State) (die : Nat) (r : Req) : State :=
  let f := (s.die die).flowIn r
  let seen := r.seq :: f.seen
  let next := skipSeen f.next seen (seen.length + 1)
  let f' : FlowIn := { f with next := next, seen := seen.filter fun q => decide (next < q) }
  let flow := fun (src ctx flow : Nat) => src == r.src && ctx == r.ctx && flow == r.flow
  s.modDie die fun d => { d with
    flowsIn := (d.flowsIn.filter fun z => !flow z.src z.ctx z.flow) ++ [f']
    rob := d.rob.filter fun q => !(flow q.src q.ctx q.flow && q.inc != r.inc) }

/-- The requests of the reorder buffer whose turn has come go on, as if they arrived now. -/
def State.robOut (s : State) (die : Nat) (r : Req) : State :=
  let next := ((s.die die).flowIn r).next
  let go := fun q : Req => q.src == r.src && q.ctx == r.ctx && q.flow == r.flow && q.inc == r.inc && decide (q.seq ≤ next)
  let l := (s.die die).rob.filter go
  { (s.modDie die fun d => { d with rob := d.rob.filter fun q => !go q }) with
    wire := s.wire ++ l.map fun q => ⟨q.src, s.place die, .req q⟩ }

/-- Whether the fabric is in lane order (R272). -/
def State.lane (s : State) (die : Nat) : Bool := (s.dreg die 5 0).getLsbD 0

/-- The 64-byte lines of a range: first and last. -/
def linesOf (a : Word) (n : Nat) : Nat × Nat := (a.toNat / 64, (a.toNat + n - 1) / 64)

/-- Whether a request still has bytes to perform in the lines of a range. -/
def Req.inLines (r : Req) (a : Word) (n : Nat) : Bool :=
  let p := r.prog.getD 0
  let x := linesOf (r.addr + BitVec.ofNat 64 p) (r.count - p)
  let y := linesOf a n
  decide (p < r.count) && decide (x.1 ≤ y.2) && decide (y.1 ≤ x.2)

/-- In lane order, whether an earlier request of the same source to this port comes before bytes of message `n`. -/
def State.laneBusy (s : State) (die n : Nat) (r : Req) (a : Word) (len : Nat) : Bool :=
  s.lane die && (s.wire.take n).any fun m => m.dst == s.place die && match m.body with
    | .req q => q.src == r.src && q.inLines a len
    | _ => false

/-! ## The checks of R257 -/

/-- The access right that a request needs. -/
def ReqKind.right : ReqKind → Nat
  | .get => 1
  | .put | .slot _ _ | .result => 2
  | .acc _ _ | .amo _ _ => 4

/-- Step 3: the group, the rights, the stamp's kind, and the lock. -/
def State.modeOk (s : State) (die : Nat) (w : Win) (r : Req) : Bool :=
  (s.groupPlaces die w.group).contains r.src && Nat.land w.rights r.kind.right != 0 &&
    (if w.mode = 1 then r.skind == 1 else if w.mode = 2 then r.skind == 2
     else if w.mode = 3 then w.holders.contains (r.src, r.task) else true)

/-- Step 4: the stamp (R258, R260). -/
def State.stampOk (s : State) (die : Nat) (w : Win) (r : Req) : Bool :=
  if w.mode = 1 then
    match w.fst with
    | .isOpen => r.stamp == w.n || (r.stamp == w.n + 1 && w.n == 0)
    | .closing close => r.stamp == w.n || (r.stamp == w.n + 1 && !close)
    | .final => false
  else if w.mode = 2 then w.exposing && r.stamp == w.xn && (s.maskPlaces die w w.exposed).contains r.src
  else true

/-- Step 5: the range. -/
def State.rangeOk (s : State) (die : Nat) (w : Win) (r : Req) : Bool :=
  s.ownDie die r.addr && kindOf r.addr == kindOf w.base && decide (lowOf w.base ≤ lowOf r.addr) &&
    decide (lowOf r.addr + r.count ≤ lowOf w.base + w.len)

/-- Steps 1 to 5: the reason of the first that fails, and whether the request is counted for its epoch all the same. -/
def State.checkReq (s : State) (die : Nat) (r : Req) : Option (Nat × Bool) :=
  let w := s.win die r.win
  if r.gv && (!w.live || w.gen != r.gen) then some (3, false)
  else if !w.live || w.closing then some (1, false)
  else if !s.modeOk die w r then some (4, false)
  else if !s.stampOk die w r then some (1, false)
  else if !s.rangeOk die w r then some (2, true)
  else none

/-- The access that a request makes at the owner's table. -/
def ReqKind.access : ReqKind → Access
  | .get => .read
  | .put | .slot _ _ | .result => .write
  | .acc _ _ | .amo _ _ => .atomic

/-- Step 6: the walks of the pages of a range, from the first that fails. -/
def State.walkPages (s : State) (die vd va n : Nat) (acc : Access) : Nat → Option (WalkRes × Nat)
  | 0 => none
  | f + 1 =>
    if n = 0 then none
    else
      let p := min n (65536 - va % 65536)
      match s.walk die vd va acc true with
      | .leaf _ _ _ => s.walkPages die vd (va + p) (n - p) acc f
      | x => some (x, va)

/-- The first uncorrectable chunk that the walks of those pages read, up to the first that fails (R331). -/
def State.badPages (s : State) (die vd va n : Nat) (acc : Access) : Nat → Option Nat
  | 0 => none
  | f + 1 =>
    if n = 0 then none
    else
      let p := min n (65536 - va % 65536)
      match s.badEntry die (s.entriesOf die vd va), s.walk die vd va acc true with
      | some c, _ => some c
      | none, .leaf _ _ _ => s.badPages die vd (va + p) (n - p) acc f
      | none, _ => none

/-- That of the walks of a request. -/
def State.reqBad (s : State) (die vd : Nat) (r : Req) : Option Nat :=
  if kindOf r.addr = 0 then s.badPages die vd (lowOf r.addr) r.count r.kind.access (r.count / 65536 + 2) else none

/-- The walks of a request that names virtual memory. -/
def State.reqWalk (s : State) (die vd : Nat) (r : Req) : Option (WalkRes × Nat) :=
  if kindOf r.addr = 0 then s.walkPages die vd (lowOf r.addr) r.count r.kind.access (r.count / 65536 + 2) else none

/-! ## Replies -/

/-- A request counted for its epoch (R258, R260). -/
def State.recvCount (s : State) (die : Nat) (r : Req) : State :=
  let w := s.win die r.win
  if !w.live then s
  else if w.mode = 1 ∧ r.skind = 1 then
    s.setWin die r.win
      (if r.stamp = w.n then { w with recv := tput w.recv r.src (tget 0 w.recv r.src + 1) }
       else if r.stamp = w.n + 1 then { w with recvNext := tput w.recvNext r.src (tget 0 w.recvNext r.src + 1) } else w)
  else if w.mode = 2 ∧ r.skind = 2 ∧ r.stamp = w.xn then
    s.setWin die r.win { w with recv := tput w.recv r.src (tget 0 w.recv r.src + 1) }
  else s

/-- The member's own XRED completes with its result (R289). -/
def State.redLanded (s : State) (die grp off tag err : Nat) : State :=
  match (s.die die).outst.find? fun o => (match remShape o.op with | .red _ _ => true | _ => false) && o.win == grp &&
      o.landing == BitVec.ofNat 64 off && o.flow == tag with
  | some o => s.remEnd die o err
  | none => s

/-- A slot filled (R279). -/
def State.fillSlot (s : State) (die ch seq : Nat) : State :=
  s.modDie die fun d =>
    let c := tget Chan.reset d.chans ch
    { d with chans := if c.role = 2 then tput d.chans ch { c with filled := c.filled ++ [seq] } else d.chans }

/-- A request's end at the target: it leaves the wire, its flow goes on, and the origin learns how it ended. A result put
has no flow: its group and offset stand in `flow` and `seq`. -/
def State.reqEnd (s : State) (die n : Nat) (r : Req) (err : Nat) (counted : Bool) : State :=
  let s1 := ((s.taken n).unpin die r.pins).rejected die err
  let s2 := if counted then s1.recvCount die r else s1
  match r.kind with
  | .result => s2.redLanded die r.flow r.seq r.tag err
  | k =>
    let s3 := (s2.seqDone die r).robOut die r
    match k, err with
    | .get, 0 | .amo _ _, 0 => s3.port die r.src (.data r.id r.data r.tc)
    | .slot ch seq, 0 => (s3.fillSlot die ch seq).port die r.src (.ack r.id 0 r.count r.tc)
    | _, _ => s3.port die r.src (.ack r.id err r.count r.tc)

/-! ## Performing a request (R254) -/

/-- A request replaced in its message. -/
def State.setReq (s : State) (n : Nat) (r : Req) : State :=
  { s with wire := s.wire.modify n fun m => { m with body := .req r } }

/-- Whether a put goes to the launch window of the window's virtual device (R359). -/
def State.isLaunch (s : State) (die : Nat) (r : Req) : Bool :=
  let w := s.win die r.win
  let v := s.reg die w.vd 0 0x48
  r.kind == .put && w.live && v.getLsbD 8 && bitsOf v 7 0 == r.win

/-- The pins of a request through a window over hull storage (R236). -/
def State.reqPins (s : State) (die : Nat) (r : Req) : List (Nat × Nat) :=
  let w := s.win die r.win
  if !w.view then []
  else
    let v := s.view die (16128 + r.win)
    let b := (s.region die v.region).base
    match s.inHull die w.vd (lowOf r.addr) r.count with
    | some (lo, hi) => (granulesOf (lo - b) (hi - b)).map fun g => (v.region, g)
    | none => []

/-- The machine check of a chunk that the port read (R331): a record, and no kill. -/
def State.portCheck (s : State) (die chunk : Nat) : State :=
  { s with agenda := s.agenda ++ [⟨.machineCheck, [die, chunk, 4096]⟩] }

/-- A request judged as its turn comes: it is rejected, also with ERR 0x07 where a walk of its pages reads an uncorrectable chunk (R331), or
begins; a launch is left to LAUNCH. -/
def State.reqStart (s : State) (die n : Nat) (r : Req) : State :=
  let w := s.win die r.win
  if w.live && s.shutVd die w.vd then s.reqEnd die n r 5 false
  else
    match s.checkReq die r with
    | some (err, counted) => s.reqEnd die n r err counted
    | none =>
      match s.reqBad die w.vd r, s.reqWalk die w.vd r with
      | some c, _ => (s.portCheck die c).reqEnd die n r 7 true
      | none, some (.node off, _) => (s.tableNode die w.vd off).reqEnd die n r 5 true
      | none, some (_, va) =>
        let acc := match r.kind.access with | .read => 0 | .write => 1 | _ => 2
        let a := homeKey die 0 va
        (s.pageFault die none fun t => portFault acc a w.vd t).2.reqEnd die n r 2 true
      | none, none =>
        if s.isLaunch die r then s
        else
          let pins := s.reqPins die r
          let data := match r.kind with | .get => [] | _ => r.data
          (s.pin die pins).setReq n { r with prog := some 0, vd := w.vd, pins := pins, data := data }

/-- XACC's operation on an element (R254). -/
def accNew (op : AccOp) (t : Ty) (old v : Nat) : Nat :=
  match op with
  | .add => (addLane t false false old v).1
  | .min => (extLane t false false old v).1
  | .max => (extLane t false true old v).1
  | .and => Nat.land old v
  | .or => Nat.lor old v
  | .xor => Nat.xor old v

/-- Bytes of a put or accumulate counted into match entries as they are performed (R196); channel bytes count nowhere. -/
def State.reqMatch (s : State) (die : Nat) (r : Req) (n : Nat) : State :=
  match r.kind with
  | .put | .acc _ _ | .result => s.matCount die r.win r.tag n
  | _ => s

/-- The next piece of a request in progress: a chunk, an element, or XAMO's location. -/
def State.reqPiece (s : State) (die : Nat) (r : Req) : Nat × Nat :=
  let p := r.prog.getD 0
  match r.kind with
  | .acc _ t | .amo _ t => (p, t.bytes)
  | _ => (p, s.pieceAt die r.vd (r.addr + BitVec.ofNat 64 p) (r.count - p))

/-- What one piece of a request comes to: its state with the request's data, an error, or nothing yet. -/
inductive Piece where
  | ok (s : State) (data : List Byte)
  | err (s : State) (code : Nat)
  | wait (s : State)

/-- A read of a piece, and what an element's update writes back; `f` is the new value of an update. -/
def State.pieceRead (s : State) (die : Nat) (r : Req) (a : Word) (n : Nat) (cnt : Bool) (f : Option (Nat → Nat)) : Piece :=
  let res := s.aread1 die r.vd a n r.kind.access none cnt
  match res.1 with
  | .bytes l key =>
    match res.2.badIn key n with
    | some c => .err (res.2.portCheck die c) 7
    | none =>
      match f with
      | none => .ok res.2 (r.data ++ l)
      | some g => .ok (res.2.write key (leBytes (g (leNat l)) n)) l
  | .fault _ va => .err (res.2.pageFault die none fun t => portFault (if f.isSome then 2 else 0) va r.vd t).2 2
  | .node off => .err (res.2.tableNode die r.vd off) 5
  | .bad c => .err (res.2.portCheck die c) 7
  | _ => .wait res.2

/-- A write of a piece. -/
def State.pieceWrite (s : State) (die : Nat) (r : Req) (a : Word) (l : List Byte) (cnt : Bool) : Piece :=
  let res := s.awrite1 die r.vd a l .write none cnt
  match res.1 with
  | .done => .ok res.2 r.data
  | .fault _ va => .err (res.2.pageFault die none fun t => portFault 1 va r.vd t).2 2
  | .node off => .err (res.2.tableNode die r.vd off) 5
  | .bad c => .err (res.2.portCheck die c) 7
  | _ => .wait res.2

/-- The next piece of request `n` performed. The data of an accumulate stay the origin's. -/
def State.reqPerform (s : State) (die n : Nat) (r : Req) : State :=
  let (p, len) := s.reqPiece die r
  let a := r.addr + BitVec.ofNat 64 p
  let bs := addrBanks a len
  if (s.die die).deadVds.contains r.vd then s.reqEnd die n r 5 true
  else if s.laneBusy die n r a len || s.bankBusy bs then s
  else
    let t := s.takeBanks 0 bs
    let cnt := p == 0 || a.toNat % 64 == 0
    let res := match r.kind with
      | .get => t.pieceRead die r a len cnt none
      | .acc op ty => t.pieceRead die r a len cnt (some fun old => accNew op ty old (lnat r.data p len))
      | .amo op ty => t.pieceRead die r a len cnt (some fun old => (amoNew op ty old (lnat r.data 0 len) r.cmp).1)
      | _ => t.pieceWrite die r a ((r.data.drop p).take len) cnt
    match res with
    | .wait t1 => t1
    | .err t1 code => t1.reqEnd die n r code true
    | .ok t1 data =>
      let r1 : Req := { r with prog := some (p + len), data := match r.kind with | .acc _ _ => r.data | _ => data }
      let t2 := t1.reqMatch die r len
      if r.count ≤ p + len then t2.reqEnd die n r1 0 true else t2.setReq n r1

/-- A request of the port's wire. -/
def State.reqAt (s : State) (n : Nat) : Option (Nat × Req) :=
  match s.msg n with
  | some ⟨_, dst, .req r⟩ => some (dst % 16, r)
  | _ => none

/-- Up to `k` pieces of the request at `n`, whose number is `id`. -/
def State.reqPieces (s : State) (n id src : Nat) : Nat → State
  | 0 => s
  | k + 1 =>
    match s.reqAt n with
    | some (die, r) => if r.id = id ∧ r.src = src ∧ r.prog.isSome = true then (s.reqPerform die n r).reqPieces n id src k else s
    | none => s

/-- Whether another request of an unordered flow has begun at its target and not ended: those of one flow are performed in the
order in which they arrive (R268). -/
def State.flowBegun (s : State) (die : Nat) (r : Req) : Bool :=
  s.wire.any fun m => m.dst == s.place die && match m.body with
    | .req q => q.prog.isSome && q.kind != .result && q.src == r.src && q.ctx == r.ctx && q.flow == r.flow && q.inc == r.inc
    | _ => false

/-- A request that has not begun: out of its flow's order it waits in the reorder buffer, or is refused with RETRY. -/
def State.reqArrive (s : State) (die n : Nat) (r : Req) : State :=
  let f := (s.die die).flowIn r
  if r.ordered && !s.lane die && decide (f.next < r.seq) then
    (if (s.die die).rob.length < 512 then (s.taken n).modDie die fun d => { d with rob := d.rob ++ [r] }
     else (s.taken n).port die r.src (.retry r s.clock))
  else if s.laneBusy die n r r.addr (min r.count 1) || (!s.lane die && s.flowBegun die r) then s
  else s.reqStart die n r

/-- REMOTE_REQUEST: a request at its target port: judged when its turn comes, then performed piece by piece. -/
def stepRemoteRequest (n k : Nat) (s : State) : State :=
  match s.reqAt n with
  | some (die, r) =>
    if r.kind = .result then s
    else if r.prog.isSome then s.reqPieces n r.id r.src k
    else if (s.die die).halted then s
    else (s.reqArrive die n r).reqPieces n r.id r.src k
  | none => s

/-! ## Reduction results (R287, R289, R291) -/

/-- A result put finds its window and address at the member's port: BASE of window WIN plus the offset. -/
def State.resolve (s : State) (die : Nat) (r : Req) : Req :=
  let win := bitsOf (s.rgrp die r.win) 15 8
  { r with flow := r.win, seq := r.addr.toNat, win := win, addr := (s.win die win).base + r.addr }

/-- REDUCE_RESULT_ARRIVAL: a result put judged and performed at its member. -/
def stepReduceResultArrival (n k : Nat) (s : State) : State :=
  match s.reqAt n with
  | some (die, r) =>
    if r.kind = .result then
      (if r.prog.isSome then s.reqPieces n r.id r.src k
       else if (s.die die).halted then s
       else
        let r1 := s.resolve die r
        ((s.setReq n r1).reqStart die n r1).reqPieces n r.id r.src k)
    else s
  | none => s

/-- REDUCE_TIMEOUT: an XRED whose result has not landed within RTIMEOUT cycles; the tree abandons its key. -/
def stepReduceTimeout (die i : Nat) (s : State) : State :=
  match (s.die die).outst[i]? with
  | some o =>
    match remShape o.op with
    | .red _ _ =>
      if o.sentAt + (s.dreg die 5 0x8040).toNat ≤ s.clock then
        (s.redAbandon (s.place die) o.win o.landing.toNat o.flow).remEnd die o 6
      else s
    | _ => s
  | none => s

/-- REDUCE_KEY_ABORT: a member learns that its key completes with REDUCE_TIMEOUT. -/
def stepReduceKeyAbort (n : Nat) (s : State) : State :=
  match s.msg n with
  | some ⟨_, dst, .redFail grp off tag⟩ => (s.taken n).redLanded (dst % 16) grp off tag 6
  | _ => s

/-- The meaning of `remoteRequest`: the step `stepRemoteRequest` on the operands that the state holds. -/
def execRemoteRequest (s : State) : Host.Outcome State Fault Refusal :=
  .next (stepRemoteRequest (s.arg 0) (s.arg 1) s)

/-- The meaning of `reduceResultArrival`: the step `stepReduceResultArrival` on the operands that the state holds. -/
def execReduceResultArrival (s : State) : Host.Outcome State Fault Refusal :=
  .next (stepReduceResultArrival (s.arg 0) (s.arg 1) s)

/-- The meaning of `reduceTimeout`: the step `stepReduceTimeout` on the operands that the state holds. -/
def execReduceTimeout (s : State) : Host.Outcome State Fault Refusal :=
  .next (stepReduceTimeout (s.arg 0) (s.arg 1) s)

/-- The meaning of `reduceKeyAbort`: the step `stepReduceKeyAbort` on the operands that the state holds. -/
def execReduceKeyAbort (s : State) : Host.Outcome State Fault Refusal :=
  .next (stepReduceKeyAbort (s.arg 0) s)


end Sys2Proof.Machine
end

