-- ==== Sys2Proof/Machine/Channels.lean ====
section
/-! DEFINITION. Channels: sends, receives and returns, permits, stalls and the permit audit (R275 to R286). -/

namespace Sys2Proof.Machine

/-! ## The channel table (R275 to R277) -/

/-- A channel-table entry. -/
def State.chan (s : State) (die n : Nat) : Chan := tget Chan.reset (s.die die).chans n

/-- The state with a channel entry replaced. -/
def State.setChan (s : State) (die n : Nat) (c : Chan) : State := s.modDie die fun d => { d with chans := tput d.chans n c }

/-- The bytes of a slot: E2M1 counts as half a byte. -/
def Chan.slotBytes (c : Chan) : Nat := match Ty.ofCode c.ty with | some t => c.eps * t.bits / 8 | none => 0

/-- The address of a slot. -/
def Chan.slotAt (c : Chan) (n : Nat) : Word := c.ring + BitVec.ofNat 64 (n % c.depth * c.slotBytes)

/-- Whether a register names a channel of the acting context's virtual device in a role. -/
def State.chanOk (s : State) (w : Word) (role : Nat) : Bool :=
  let b := s.bound (dieOf s.cur) (s.vdOf s.cur) boundCh
  let n := w.toNat
  let c := s.chan (dieOf s.cur) n
  decide (n < 256) && decide (b.1 ≤ n) && decide (n < b.2) && c.role == role && c.vd == s.vdOf s.cur

/-- REG_RANGE of a channel instruction. -/
def chanTrap (sl : Slot) (a role : Nat) (s : State) : Option Trap :=
  if s.chanOk (s.me.s a) role then none else some (sl.trap .regRange 0 0)

/-! ## CSEND (R278, R282) -/

/-- The source of a CSEND as R158 checks it. -/
def csendOpnd (c : Chan) (b : Word) : Opnd :=
  ⟨.copy, b, c.slotBytes, max 1 (match Ty.ofCode c.ty with | some t => t.bits / 8 | none => 1), b⟩

/-- The checks of R278, in order. -/
def csendTrap (a b : Nat) (s : State) : Option Trap :=
  match chanTrap .c a 1 s with
  | some t => some t
  | none =>
    let o := csendOpnd (s.chan (dieOf s.cur) (s.me.s a).toNat) (s.me.s b)
    match s.opndTrap s.cur [o] with
    | some x => some (trapOf .c x)
    | none => (s.noViewTrap s.cur [(o.a, o.n)]).map fun x => Slot.c.trap x 0 0

def opCsend (q a b : Nat) (x : XArgs) : Op :=
  { Op.cmd .c x.y with
    ready := fun s => s.queueRoom q && !s.me.hndFull x.hnd
    addr := csendTrap a b
    effect := fun s =>
      let f := s.fresh
      let cmd := newCmd f.1 (.csend q a b x) (s.vdOf s.cur) ⟨s.me.s a, s.me.s b, s.me.ord.setWidth 64, 0⟩ 0 [] (s.done x.hnd x.y)
      ((f.2.enqueue (coreOf s.cur) q cmd).signalAccept x.y).accept x.hnd }

/-- The CSENDs at the heads of a die's queues that wait for a permit: their core and queue, by the cycle in which they came
to the head, then queue, then cluster and core (R282). -/
def State.csendHeads (s : State) (die : Nat) : List (Nat × Nat × CopyCmd) :=
  ([0, 1, 2, 3].map fun q => (List.range 64).filterMap fun c =>
    match s.headCmd (64 * die + c) q with
    | some x => if isCsend x.op && x.idx.isNone then some (64 * die + c, q, x) else none
    | none => none).flatten

/-- The earliest of the waiting heads of a channel. -/
def firstHead (l : List (Nat × Nat × CopyCmd)) (ch : Nat) : Option (Nat × Nat × CopyCmd) :=
  let mine := l.filter fun e => e.2.2.a.toNat == ch
  mine.find? fun e => mine.all fun z => decide (e.2.2.headAt.getD 0 ≤ z.2.2.headAt.getD 0)

/-- Permits of a channel given to the waiting heads in their order, at most `n` of them. -/
def State.givePermits (s : State) (die ch : Nat) : Nat → State
  | 0 => s
  | n + 1 =>
    let c := s.chan die ch
    if c.role ≠ 1 ∨ c.permits = 0 ∨ (s.die die).halted = true ∨ (s.die die).deadVds.contains c.vd = true then s
    else
      match firstHead (s.csendHeads die) ch with
      | none => s
      | some (core, q, x) =>
        ((s.setCmd core q { x with idx := some c.seq }).setChan die ch { c with permits := c.permits - 1, seq := c.seq + 1 }).givePermits
          die ch n

/-- The heads of a die's queues as a cycle ends: a CSEND new at its head is noted, and permits are taken. -/
def State.csendPermits (s : State) (die : Nat) : State :=
  let hs := s.csendHeads die
  if hs.isEmpty then s
  else
    let s1 := hs.foldl (fun t e => if e.2.2.headAt.isNone then t.setCmd e.1 e.2.1 { e.2.2 with headAt := some s.clock } else t) s
    (nub (hs.map fun e => e.2.2.a.toNat)).foldl (fun t ch => t.givePermits die ch hs.length) s1

/-- The key fields of a channel's ring window. -/
def Chan.gen (c : Chan) : Nat := c.key / 65536 % 65536

/-- FLOWMODE.ORD for a CSEND as its put is taken: its context's while that holds its task, and once the task has gone what it was at
the command's acceptance, which stands in `c` (R268; log entry 161). -/
def State.sendOrd (s : State) (x : CopyCmd) : BitVec 16 := if s.reader x.done < 4096 then (s.ctx x.done.ctx).ord else x.c.setWidth 16

/-- The put of a CSEND's slot, with the ORD bit of its flow as it is taken (R268). -/
def State.csendPut (s : State) (core : Nat) (x : CopyCmd) (y : XArgs) (buf : List Byte) (slot : Nat) : RemCmd :=
  let c := s.chan (core / 64) x.a.toNat
  { id := x.id, op := x.op, vd := x.vd, place := c.peer, a := c.slotAt slot, b := x.b, c := BitVec.ofNat 64 c.slotBytes
    gv := c.key / 256 % 2 == 1, gen := c.gen, win := c.key % 256, flow := y.flow, tc := y.tc, tag := 0, rel := false
    ord := (s.sendOrd x).getLsbD y.flow, buf := buf, owed := [], chan := c.peerch, seq := slot, hold := none
    done := { x.done with sig := none } }

/-- A CSEND whose source has been read: it completes, and its put goes to the port with its flow's table entry (R267, R278). -/
def State.csendEnd (s : State) (core q : Nat) (x : CopyCmd) (y : XArgs) (buf : List Byte) (slot : Nat) : State :=
  let die := core / 64
  let put := s.csendPut core x y buf slot
  let s1 := (s.modCore core fun k => k.setQueue q ((k.queue q).filter fun z => z.id != x.id)).openFlow die put
  ((s1.modDie die fun d => { d with outq := d.outq ++ [put] }).count x.done 1 0 0 0).sigDone x.done

/-- The next chunk of a CSEND's source. One that needs a flow-table entry while there is none, or whose flow must not open yet,
waits at the head of its queue before its last chunk (R267). -/
def State.csendRead (s : State) (core q : Nat) (x : CopyCmd) : State :=
  let die := core / 64
  match x.op, x.idx with
  | .csend _ _ _ y, some slot =>
    let len := (s.chan die x.a.toNat).slotBytes
    let a := x.b + BitVec.ofNat 64 x.rd
    let n := s.pieceAt die x.vd a (len - x.rd)
    let put := s.csendPut core x y [] slot.toNat
    if s.bankBusy (addrBanks a n) || (decide (len ≤ x.rd + n) && (!(s.die die).flowRoom put || s.movedOut die put)) then s
    else
      let r := s.engRead die x.vd a n .read x.done (x.rd == 0 || a.toNat % 64 == 0)
      match r.1 with
      | .bytes l _ =>
        let s1 := r.2.takeBanks 0 (addrBanks a n)
        if len ≤ x.rd + n then s1.csendEnd core q x y (x.buf ++ l) slot.toNat
        else s1.setCmd core q { x with buf := x.buf ++ l, rd := x.rd + n }
      | .fault c _ => r.2.holdCmd core q x c 0 a
      | .node off => r.2.tableNode die x.vd off
      | .dead => r.2.deadCmd core q x
      | _ => r.2
  | _, _ => s

/-- CSEND_SEND: `n` chunks of the source of the CSEND at the head of a queue that has its permit. -/
def stepCsendSend (core q : Nat) : Nat → State → State
  | 0, s => s
  | n + 1, s =>
    match s.headCmd core q with
    | some x => if isCsend x.op && x.hold.isNone then stepCsendSend core q n (s.csendRead core q x) else s
    | none => s

/-! ## CRECV and CRET (R280, R281) -/

def opCrecv (c a : Nat) (y : Sync) : Op :=
  { (Op.cmd .y y).atOnce y (fun s =>
      let n := (s.me.s a).toNat
      let x := s.chan (dieOf s.cur) n
      (s.setChan (dieOf s.cur) n { x with head := x.head + 1 }).pushS c (x.slotAt x.head) 2 .y) with
    dests := fun _ => [.sreg c]
    ready := fun s => (chanTrap .y a 2 s).isSome ||
      let x := s.chan (dieOf s.cur) (s.me.s a).toNat
      x.filled.contains x.head
    addr := chanTrap .y a 2 }

/-- The numbers of the commands of a task on a die that are not complete locally. -/
def State.openIds (s : State) (die task : Nat) : List Nat :=
  let d := s.die die
  let mine := fun x : Done => x.of task
  ((s.copies die).filter fun x => mine x.done).map (fun x => x.id) ++
    ((s.remotes die).filter fun x => mine x.done &&
      !((remShape x.op).readsSource && decide (srcLen (remShape x.op) x.c ≤ x.buf.length))).map (fun x => x.id) ++
    (d.outst.filter fun x => mine x.done && !x.counted).map (fun x => x.id) ++
    (d.migrQ.filter fun x => mine x.done).map (fun x => x.id) ++ (d.apexQ.filter fun x => mine x.done).map (fun x => x.id) ++
    (match d.apexRun with | some r => if mine r.cmd.done then [r.cmd.id] else [] | none => []) ++
    (d.spawns.filter fun x => mine x.done).map (fun x => x.id) ++ (d.evQ.filter fun x => mine x.done).map (fun x => x.id) ++
    (s.preempts.filter fun x => mine x.2).map (fun x => x.1) ++ ((s.mats die).filter fun x => mine x.done).map fun x => x.id

def opCret (c a : Nat) (y : Sync) : Op :=
  { (Op.cmd .y y).atOnce y (fun s =>
      let die := dieOf s.cur
      let n := (s.me.s a).toNat
      let x := s.chan die n
      if x.ret < x.head then
        let w : PermitWait := ⟨s.me.task, n, x.ret, s.openIds die s.me.task⟩
        ((s.setChan die n { x with ret := x.ret + 1, filled := x.filled.erase x.ret }).modDie die fun d =>
          { d with permitWaits := d.permitWaits ++ [w] }).pushS c 0 2 .y
      else s.pushS c (BitVec.allOnes 64) 2 .y) with
    dests := fun _ => [.sreg c]
    addr := chanTrap .y a 2 }

/-- CRET_PERMIT_SEND: a permit leaves when the commands accepted before its CRET are locally complete. -/
def stepCretPermitSend (die n : Nat) (s : State) : State :=
  match (s.die die).permitWaits[n]? with
  | none => s
  | some w =>
    if w.waits.any (s.openIds die w.task).contains then s
    else
      let c := s.chan die w.ch
      (s.modDie die fun d => { d with permitWaits := d.permitWaits.eraseIdx n }).port die c.peer (.permit c.peerch w.num)

/-! ## The audit (R285, R286) -/

/-- The audit judged: it passes as soon as the four counts make DEPTH, after BACK. -/
def State.auditCheck (s : State) (die : Nat) : State :=
  let a := (s.die die).audit
  match a.back with
  | none => s
  | some ri =>
    let k := a.got.countP fun n => decide (n < ri)
    let pass := a.p + k + a.d + a.f == (s.chan die a.ch).depth
    if a.st = 1 then s.modDie die fun d => { d with audit := { a with k := k, st := if pass then 2 else 1 } } else s

/-- PERMIT_ARRIVAL: the sender has one more permit. -/
def stepPermitArrival (n : Nat) (s : State) : State :=
  match s.msg n with
  | some ⟨_, dst, .permit ch num⟩ =>
    let die := dst % 16
    let c := s.chan die ch
    if c.role = 1 then
      (((s.taken n).setChan die ch { c with permits := c.permits + 1 }).modDie die fun d =>
        if d.audit.st = 1 ∧ d.audit.ch = ch then { d with audit := { d.audit with got := d.audit.got ++ [num] } } else d).auditCheck die
    else s.taken n
  | _ => s

/-- CHAUDIT: an audit starts at a sender end, unless one runs. -/
def stepChaudit (die ch : Nat) (s : State) : State :=
  let c := s.chan die ch
  if c.role ≠ 1 ∨ (s.die die).audit.st = 1 then s
  else
    (s.modDie die fun d => { d with audit := { Audit.reset with st := 1, ch := ch, p := c.permits, sseq := c.seq }, auditAt := none }).port
      die c.peer (.mark c.peerch c.seq)

/-- AUDIT_MARK: the receiver's counts go back. -/
def stepAuditMark (n : Nat) (s : State) : State :=
  match s.msg n with
  | some ⟨src, dst, .mark ch sseq⟩ =>
    let c := s.chan (dst % 16) ch
    if c.role = 2 then
      let f := c.filled.countP fun q => decide (q < sseq)
      (s.taken n).port (dst % 16) src (.back c.peerch c.ret f (sseq - c.ret - f))
    else s.taken n
  | _ => s

/-- AUDIT_BACK: the sender's wait begins. -/
def stepAuditBack (n : Nat) (s : State) : State :=
  match s.msg n with
  | some ⟨_, dst, .back ch ri f dn⟩ =>
    let die := dst % 16
    if (s.die die).audit.st = 1 ∧ (s.die die).audit.ch = ch then
      ((s.taken n).modDie die fun d =>
        { d with audit := { d.audit with back := some ri, f := f, d := dn }, auditAt := some s.clock }).auditCheck die
    else s.taken n
  | _ => s

/-- The record of R284, with a tail from byte 32 on. -/
def chanRec (kind : Nat) (place : List Byte) (ch role peer peerch peerwait task cyc : Nat) (tail : List Byte) : List Byte :=
  leBytes kind 2 ++ place ++ leBytes ch 1 ++ leBytes role 1 ++ leBytes peer 2 ++ leBytes peerch 1 ++ zeros 1 ++
    leBytes peerwait 2 ++ zeros 2 ++ leBytes task 4 ++ zeros 4 ++ leBytes cyc 8 ++ (tail ++ zeros (32 - tail.length))

/-! ## Stalls (R283, R284) -/

/-- The instructions of the bundle at a header, those that decode. -/
def State.instrsAt (s : State) (d : Nat) (pc : Word) : List Instr :=
  (s.slotsAt d pc).filterMap fun e => match e.2 with | .ok i => some i | .error _ => none

/-- The channels of the CSENDs of a context's task at the heads of queues that wait for a permit, among those that `p` picks by
their core and queue. -/
def State.waitingSends (s : State) (k : Nat) (p : Nat → Nat → CopyCmd → Bool) : List Nat :=
  (s.csendHeads (dieOf k)).filterMap fun e =>
    if e.2.2.done.of (s.ctx k).task && p e.1 e.2.1 e.2.2 then some e.2.2.a.toNat else none

/-- The copy queues that a command names. -/
def queuesOf : Instr → List Nat
  | .tmov _ _ _ _ x | .tmov2 _ _ _ _ x | .tgath _ _ _ _ x | .tscat _ _ _ _ x | .tfill _ _ _ _ x => [x.q]
  | .tmcast _ _ _ _ _ x => [x.q]
  | .camo _ _ _ _ _ _ x => [x.q]
  | .qjoin mask _ => maskQueues mask
  | .csend q _ _ _ => [q]
  | .ctxsv q _ _ _ _ | .ctxsvUpad q _ _ _ _ | .ctxsvCpad q _ _ _ _ | .ctxld q _ _ _ _ | .ctxldUpad q _ _ _ _
  | .ctxldCpad q _ _ _ _ => [q]
  | _ => []

/-- What one instruction of a blocked bundle waits on by R283: the channels, each with its role and slot. -/
def State.stallsOf (s : State) (k : Nat) (i : Instr) : List (Nat × Nat × Slot) :=
  let c := s.ctx k
  let die := dieOf k
  match i with
  | .crecv _ a _ =>
    let n := (c.s a).toNat
    let x := s.chan die n
    if x.role = 2 ∧ x.vd = s.vdOf k ∧ n < 256 then [(n, 2, .y)] else []
  | .hwaitL h _ =>
    if (c.h h).loc = (c.h h).out then []
    else (s.waitingSends k fun _ _ x => x.done.hnd == some h).map fun n => (n, 1, .y)
  | .hwaitR h _ =>
    if (c.h h).rem = (c.h h).out then []
    else (s.waitingSends k fun _ _ x => x.done.hnd == some h).map fun n => (n, 1, .y)
  | _ =>
    (s.waitingSends k fun core q _ => core == coreOf k && (queuesOf i).contains q && decide (16 ≤ ((s.core (coreOf k)).queue q).length)).map
      fun n => (n, 1, .c)

/-- The channels on which a context waits while its bundle is blocked (R283), when that is a header's. -/
def State.chanWaits (s : State) (k : Nat) : List (Nat × Nat × Slot) :=
  let c := s.ctx k
  if c.st = .running ∧ c.idle = 0 ∧ c.held.isNone = true then ((s.instrsAt (dieOf k) c.pc).map (s.stallsOf k)).flatten else []

/-- The channel that its stall is counted and reported for. -/
def State.chanWait (s : State) (k : Nat) : Option (Nat × Nat × Slot) := (s.chanWaits k).head?

/-- PEERWAIT: the lowest channel on which a context of the other end's virtual device waits, its bundle having been blocked when
it was last judged; unknown in another package. -/
def State.peerWait (s : State) (c : Chan) : Nat :=
  if c.peer / 16 ≠ s.epid then Config.choice s.free % 65536
  else
    let die := c.peer % 16
    let vd := (s.chan die c.peerch).vd
    let ks := (dieCtxs die).filter fun k => (s.ctx k).blocked && s.ownerOf die (clusOf k) == some vd
    ((ks.map s.chanWaits).flatten.map fun e => e.1).foldl min 0xFFFF

/-- CHANSTALL of a context's virtual device. -/
def State.stallLim (s : State) (k : Nat) : Nat := (s.reg (dieOf k) (s.vdOf k) 5 0x08).toNat

/-- Whether the stall count of a waiting context comes to its limit in this cycle. -/
def State.stallDue (s : State) (k : Nat) : Bool :=
  s.stallLim k != 0 && decide (s.stallLim k ≤ (s.ctx k).stall + 1) && (s.chanWait k).isSome

/-- CHAN_STALL: the trap at the blocked bundle, and its record. -/
def stepChanStall (k : Nat) (s : State) : State :=
  match (if s.stallDue k then s.chanWait k else none) with
  | none => s
  | some (n, role, sl) =>
    let die := dieOf k
    let c := s.chan die n
    let place := leBytes die 1 ++ leBytes (clusOf k) 1 ++ leBytes (coreNo k) 1 ++ leBytes (ctxNo k) 1
    let r := chanRec 0x20 place n role c.peer c.peerch (s.peerWait c) (s.ctx k).task (s.cycle die) []
    let s1 := { s with free := s.free + 1 }.nonFatal die r
    (s1.modCtx k fun x => { x with stall := 0 }).trapEntry k (s.ctx k).pc (sl.trap .chanStall n 0)

/-- AUDIT_TIMEOUT: an audit that has not passed within AUDWAIT cycles of BACK fails, with a LOST_PERMIT record. -/
def stepAuditTimeout (die : Nat) (s : State) : State :=
  let a := (s.die die).audit
  match (s.die die).auditAt with
  | none => s
  | some t =>
    if a.st = 1 ∧ t + (s.dreg die 5 0x38).toNat ≤ s.clock then
      let c := s.chan die a.ch
      let r := chanRec 0x21 (leBytes die 1 ++ [0xFF, 0xFF, 0xFF]) a.ch 1 c.peer c.peerch (s.peerWait c) 0 (s.cycle die)
        (leBytes a.p 2 ++ leBytes a.k 2 ++ leBytes a.d 2 ++ leBytes a.f 2)
      ({ s with free := s.free + 1 }.modDie die fun d => { d with audit := { a with st := 3 }, auditAt := none }).fatal die r
    else s

/-- The meaning of `csend`: it issues, blocks or traps as a bundle of its own (`opCsend`). -/
def execCsend (q : Nat) (a : Nat) (b : Nat) (x : XArgs) (s : State) : Host.Outcome State Fault Refusal :=
  .next (issue [opCsend q a b x] s)

/-- The meaning of `crecv`: it issues, blocks or traps as a bundle of its own (`opCrecv`). -/
def execCrecv (c : Nat) (a : Nat) (y : Sync) (s : State) : Host.Outcome State Fault Refusal :=
  .next (issue [opCrecv c a y] s)

/-- The meaning of `cret`: it issues, blocks or traps as a bundle of its own (`opCret`). -/
def execCret (c : Nat) (a : Nat) (y : Sync) (s : State) : Host.Outcome State Fault Refusal :=
  .next (issue [opCret c a y] s)

/-- The meaning of `csendSend`: the step `stepCsendSend` on the operands that the state holds. -/
def execCsendSend (s : State) : Host.Outcome State Fault Refusal :=
  .next (stepCsendSend (s.arg 0) (s.arg 1) (s.arg 2) s)

/-- The meaning of `cretPermitSend`: the step `stepCretPermitSend` on the operands that the state holds. -/
def execCretPermitSend (s : State) : Host.Outcome State Fault Refusal :=
  .next (stepCretPermitSend (s.arg 0) (s.arg 1) s)

/-- The meaning of `permitArrival`: the step `stepPermitArrival` on the operands that the state holds. -/
def execPermitArrival (s : State) : Host.Outcome State Fault Refusal :=
  .next (stepPermitArrival (s.arg 0) s)

/-- The meaning of `chanStall`: the step `stepChanStall` on the operands that the state holds. -/
def execChanStall (s : State) : Host.Outcome State Fault Refusal :=
  .next (stepChanStall (s.arg 0) s)

/-- The meaning of `chaudit`: the step `stepChaudit` on the operands that the state holds. -/
def execChaudit (s : State) : Host.Outcome State Fault Refusal :=
  .next (stepChaudit (s.arg 0) (s.arg 1) s)

/-- The meaning of `auditMark`: the step `stepAuditMark` on the operands that the state holds. -/
def execAuditMark (s : State) : Host.Outcome State Fault Refusal :=
  .next (stepAuditMark (s.arg 0) s)

/-- The meaning of `auditBack`: the step `stepAuditBack` on the operands that the state holds. -/
def execAuditBack (s : State) : Host.Outcome State Fault Refusal :=
  .next (stepAuditBack (s.arg 0) s)

/-- The meaning of `auditTimeout`: the step `stepAuditTimeout` on the operands that the state holds. -/
def execAuditTimeout (s : State) : Host.Outcome State Fault Refusal :=
  .next (stepAuditTimeout (s.arg 0) s)


end Sys2Proof.Machine
end

