-- ==== Sys2Proof/Machine/Apex.lean ====
section
/-! DEFINITION. The Apex engine: the auction configuration, AGO, the auction and its outputs, and AQ (R339 to R352). -/

namespace Sys2Proof.Machine

/-! ## ACFG (R341) -/

/-- A field of the auction configuration set written from a register. -/
def Auction.set (u : Auction) (f : AField) (v : Word) : Auction :=
  match f with
  | .aeps => { u with eps := v.setWidth 32 }
  | .arounds => { u with rounds := v.setWidth 32 }
  | .aphases => { u with phases := v.setWidth 4 }
  | .adiv => { u with div := v.setWidth 32 }
  | .ainit => { u with init := v.setWidth 2 }

/-- ACFG writes at the end of its cycle: an AGO of the same bundle, whose slot comes first, copies the old value. -/
def opAcfg (f : AField) (a : Nat) (y : Sync) : Op :=
  (Op.cmd .y y).atOnce y fun s => s.modMe fun c => { c with au := c.au.set f (c.s a) }

/-! ## AGO's acceptance (R343) -/

/-- The checks of R343: first the addresses of both operands, then their alignments. An aligned descriptor lies wholly in the
bounds that hold its address, and an aligned status record in its pad. -/
def agoTrap (a b : Nat) (s : State) : Option Trap :=
  let va := s.me.s a
  let vb := s.me.s b
  match (s.addrsTrap s.cur [(.copy, va, va), (.ls, vb, vb)]).or ((s.checkRange s.cur .copy va 1).map fun c => (c, va)) with
  | some e => some (trapOf .c e)
  | none =>
    if kindOf va ≠ 8 then some (Slot.c.trap .addrClass 0 va)
    else
      match s.lsTrap .c vb 1 1 with
      | some t => some t
      | none =>
        if va.toNat % 64 ≠ 0 then some (Slot.c.trap .align 0 va)
        else if vb.toNat % 32 ≠ 0 then some (Slot.c.trap .align 0 vb) else none

/-- The commands of a die's Apex queue, the running one included. -/
def Die.apexLoad (d : Die) : Nat := d.apexQ.length + if d.apexRun.isSome then 1 else 0

def opAgo (a b : Nat) (hnd : Option Nat) (y : Sync) : Op :=
  { (Op.cmd .c y).queued hnd y (fun s =>
      let f := s.fresh
      let cmd : AgoCmd := ⟨f.1, s.vdOf s.cur, s.me.au, s.me.s a, s.me.s b, s.done hnd y⟩
      (f.2.modDie (dieOf s.cur) fun d => { d with apexQ := d.apexQ ++ [cmd] }).modMe fun c =>
        { c with aqid := some f.1, aqcode := 0, aqrounds := 0 }) with
    ready := fun s =>
      let die := dieOf s.cur
      let vd := s.vdOf s.cur
      decide ((s.die die).apexLoad < 16) && decide (s.aqused die vd < (s.reg die vd 6 0).toNat) && !s.me.hndFull hnd
    addr := agoTrap a b }

/-! ## Arithmetic in .f32 (R346) -/

def f32 (b : Nat) : FVal := floatOf .f32 b
def f32Of (x : FVal) : Nat := (rne .f32 x).1
def f32Add (x y : Nat) : Nat := f32Of (exactSum [f32 x, f32 y]).1
def f32Sub (x y : Nat) : Nat := f32Of (exactSum [f32 x, (f32 y).negate]).1

/-- The quotient of two finite values, the divisor positive. -/
def f32Div (x y : Nat) : Nat :=
  match f32 x, f32 y with
  | .fin s n d, .fin _ n' d' => if n' = 0 then x else f32Of (.fin s (n * d') (d * n'))
  | _, _ => x

/-- −∞, and the order in which −0 and +0 are equal. -/
def f32NegInf : Nat := 0xFF800000
def f32Lt (x y : Nat) : Bool := (f32 x).lt (f32 y)
def f32Finite (x : Nat) : Bool := !(f32 x).isNan && !(f32 x).isInf

/-- A score as the auction reads it: BF16 widened, NaN as −∞. -/
def scoreOfBits (w v : Nat) : Nat :=
  let b := if w = 2 then v * 65536 else v
  if (f32 b).isNan then f32NegInf else b

/-! ## The auction (R346) -/

/-- A price, a capacity, a column's holders. -/
def Auc.p (x : Auc) (j : Nat) : Nat := tget 0 x.price j
def Auc.cap (x : Auc) (j : Nat) : Nat := x.caps.getD j 0
def Auc.holders (x : Auc) (j : Nat) : List (Nat × Nat) := tget [] x.held j

/-- The rows that bid in the next round. -/
def Auc.unassigned (x : Auc) : List Nat := (List.range x.r).filter fun i => !thas x.asg i && !x.stranded.contains i

/-- The greatest of a list of values by place, the lowest place among equals. -/
def bestOf : List (Nat × Nat) → Option (Nat × Nat)
  | [] => none
  | e :: l => some (l.foldl (fun a z => if f32Lt a.2 z.2 then z else a) e)

/-- A row's bid: its column and the bid, or `none` for PRICE_OVF. -/
def Auc.bid (x : Auc) (scores : List Nat) : Option (Nat × Nat) :=
  let v := (List.range x.c).map fun j => (j, if x.cap j = 0 then f32NegInf else f32Sub (scores.getD j f32NegInf) (x.p j))
  match bestOf v with
  | none => none
  | some (b, v1) =>
    if (f32 v1).isInf then none
    else
      let v2 := match bestOf (v.filter fun e => e.1 != b) with | some e => e.2 | none => f32NegInf
      let bid := if v2 = f32NegInf then f32Add (x.p b) x.eps else f32Add (f32Add (x.p b) (f32Sub v1 v2)) x.eps
      if f32Finite bid then some (b, bid) else none

/-- A holder put into a list ordered by bid descending, then row ascending. -/
def insertBid (e : Nat × Nat) : List (Nat × Nat) → List (Nat × Nat)
  | [] => [e]
  | z :: l => if f32Lt z.2 e.2 || (!f32Lt e.2 z.2 && decide (e.1 < z.1)) then e :: z :: l else z :: insertBid e l

/-- A column resolved with the bids on it: those who hold it, its price, and who is assigned. -/
def Auc.resolve (x : Auc) (j : Nat) (bids : List (Nat × Nat)) : Auc :=
  if bids.isEmpty then x
  else
    let l := bids.foldl (fun t e => insertBid e t) (x.holders j)
    let held := l.take (x.cap j)
    let asg := (l.drop (x.cap j)).foldl (fun t e => tdel t e.1) x.asg
    { x with
      held := tput x.held j held
      asg := held.foldl (fun t e => tput t e.1 j) asg
      price := tput x.price j (if held.length = x.cap j then (match held.getLast? with | some e => e.2 | none => 0)
        else tget 0 x.base j) }

/-- A round with every bid made: the outputs that it leaves are kept. -/
def Auc.round (x : Auc) (bids : List (Nat × Nat × Nat)) : Auc :=
  let y := (List.range x.c).foldl (fun t j => t.resolve j ((bids.filter fun e => e.2.1 == j).map fun e => (e.1, e.2.2)))
    { x with rounds := x.rounds + 1 }
  { y with outPrice := y.price, outHeld := y.held, outAsg := y.asg }

/-- The bids of the unassigned rows with their scores; `none` for PRICE_OVF. -/
def Auc.bids (x : Auc) : List (Nat × List Nat) → Option (List (Nat × Nat × Nat))
  | [] => some []
  | (i, sc) :: l =>
    match x.bid sc, x.bids l with
    | some b, some t => some ((i, b.1, b.2) :: t)
    | _, _ => none

/-- The next ε phase. -/
def Auc.nextPhase (x : Auc) (cfg : Auction) : Auc :=
  { x with ph := x.ph + 1, eps := f32Div x.eps cfg.div.toNat, base := x.price, held := [], asg := [] }

/-! ## Reads of the engine -/

/-- The running command replaced. -/
def State.setRun (s : State) (die : Nat) (r : AgoRun) : State := s.modDie die fun d => { d with apexRun := some r }

/-- The engine held at a fault (R345). -/
def State.holdApex (s : State) (die : Nat) (r : AgoRun) (c : PfCause) (acc va : Nat) : State :=
  let f := s.pageFault die (some .apex) fun t => ctxFault r.cmd.done.ctx c acc va 0xFF r.cmd.vd r.cmd.done.task t
  f.2.setRun die { r with hold := some f.1 }

/-- The running command comes to a walk of a virtual device whose walks have stopped (R332; log entry 157): the kill of its context
withdraws it, and that of a task on no context that is being killed ends at once as one withdrawn does. -/
def State.deadApex (s : State) (die : Nat) (r : AgoRun) : State :=
  if (s.die die).kills.any fun k => k.task == r.cmd.done.task then s.setRun die { r with hold := some noToken }
  else (s.modDie die fun d => { d with apexRun := none }).finish r.cmd.done.silent 0 8

/-- The running command at a new stage. -/
def AgoRun.goto (r : AgoRun) (st : AgoStage) : AgoRun := { r with stage := st, got := [] }

/-- A state in which the engine has used the first `used` of the beats that its command has read, with what it made of
them: nothing where a beat could not be read. -/
structure Beats (α : Type) where
  val : Option α
  used : Nat
  run : AgoRun
  st : State

/-- Pieces read by the engine for its command, those read before a fault first; a fault holds it at its beat (R345). -/
def State.apexPieces (s : State) (die : Nat) (r : AgoRun) (n : Nat) : List (Word × Nat) → Beats (List Byte)
  | [] => ⟨some [], n, r, s⟩
  | p :: ps =>
    match r.got[n]? with
    | some l =>
      let q := s.apexPieces die r (n + 1) ps
      { q with val := q.val.map fun x => l ++ x }
    | none =>
      let t := s.aread die r.cmd.vd p.1 p.2 .read (some (s.reader r.cmd.done))
      match t.1 with
      | .bytes l key =>
        let q := (t.2.checkAt die (s.reader r.cmd.done) [(key, p.2)]).apexPieces die { r with got := r.got ++ [l] } (n + 1) ps
        { q with val := q.val.map fun x => l ++ x }
      | .fault c va => ⟨none, n, r, t.2.holdApex die r c 0 va⟩
      | .node off => ⟨none, n, r, (t.2.setRun die r).tableNode die r.cmd.vd off⟩
      | .dead => ⟨none, n, r, t.2.deadApex die r⟩
      | _ => ⟨none, n, r, t.2.setRun die r⟩

/-- A range read by the engine. -/
def State.apexRead (s : State) (die : Nat) (r : AgoRun) (k : Nat) (a : Word) (n : Nat) : Beats (List Byte) :=
  s.apexPieces die r k (pieces a n (n / 64 + 2))

/-- The scores of rows. -/
def State.apexRows (s : State) (die : Nat) (r : AgoRun) (k : Nat) (x : Auc) : List Nat → Beats (List (Nat × List Nat))
  | [] => ⟨some [], k, r, s⟩
  | i :: l =>
    let t := s.apexRead die r k (x.score + BitVec.ofNat 64 (i * x.sstr)) (x.c * x.w)
    match t.val with
    | none => ⟨none, t.used, t.run, t.st⟩
    | some b =>
      let q := t.st.apexRows die t.run t.used x l
      { q with val := q.val.map fun z => (i, (elements x.w b x.c).map (scoreOfBits x.w)) :: z }

/-! ## The end of a command (R344, R347) -/

/-- The first 24 bytes of a status record. -/
def statusOf (code detail phases rounds assigned strand epsf : Nat) : List Byte :=
  leBytes code 1 ++ leBytes detail 1 ++ leBytes phases 1 ++ zeros 1 ++ leBytes rounds 4 ++ leBytes assigned 4 ++
    leBytes strand 4 ++ leBytes epsf 4 ++ zeros 4

/-- A command that ends with nothing written but its status. -/
def AgoRun.fail (r : AgoRun) (code detail : Nat) : AgoRun := r.goto (.writes [] (statusOf code detail 0 0 0 0 0) code 0)

/-- The outputs of an auction, in the order ASSIGN, FILL, PRICE, as pieces. -/
def Auc.outputs (x : Auc) : List (Word × List Byte) :=
  let arr := fun (a : Word) (l : List Byte) =>
    (pieces a l.length (l.length / 64 + 2)).map fun p => (p.1, (l.drop (p.1 - a).toNat).take p.2)
  let asg := ((List.range x.r).map fun i => leBytes (match tfind x.outAsg i with | some j => j | none => 2 ^ 32 - 1) 4).flatten
  let fill := ((List.range x.c).map fun j => leBytes (tget [] x.outHeld j).length 4).flatten
  let price := ((List.range x.c).map fun j => leBytes (tget 0 x.outPrice j) 4).flatten
  arr x.assignA asg ++ arr x.fillA fill ++ arr x.priceA price

/-- End(code) of an auction. -/
def AgoRun.finish (r : AgoRun) (x : Auc) (code : Nat) : AgoRun :=
  let st := statusOf code 0 (x.ph + 1) x.rounds x.outAsg.length x.stranded.length x.eps
  r.goto (.writes x.outputs st code x.rounds)

/-! ## The start of a command (R342, R345) -/

/-- A descriptor. -/
structure AucDesc where
  score : Word
  cap : Word
  price : Word
  assign : Word
  fill : Word
  r : Nat
  c : Nat
  sfmt : Nat
  zero : Nat
  sstr : Nat

/-- The descriptor of 64 bytes. -/
def aucDesc (l : List Byte) : AucDesc :=
  let ad := fun i => BitVec.ofNat 64 (lnat l i 8)
  { score := ad 0, cap := ad 8, price := ad 16, assign := ad 24, fill := ad 32, r := lnat l 40 4, c := lnat l 44 2
    sfmt := lnat l 46 1, zero := lnat l 47 1 + lnat l 52 12, sstr := lnat l 48 4 }

/-- The bytes of a score. -/
def AucDesc.w (d : AucDesc) : Nat := if d.sfmt = 13 then 4 else 2

/-- The arrays of a descriptor with their lengths and alignments. -/
def AucDesc.arrays (d : AucDesc) : List (Word × Nat × Nat) :=
  [(d.score, (d.r - 1) * d.sstr + d.c * d.w, d.w), (d.cap, 2 * d.c, 2), (d.price, 4 * d.c, 4), (d.assign, 4 * d.r, 4),
   (d.fill, 4 * d.c, 4)]

/-- Whether an array breaks R342 or meets a hull aperture. -/
def State.arrayBad (s : State) (k vd : Nat) (e : Word × Nat × Nat) : Bool :=
  (s.checkRange k .copy e.1 e.2.1).isSome || kindOf e.1 == 0xF || decide (e.1.toNat % e.2.2 ≠ 0) ||
    (kindOf e.1 == 0 && s.meetsAperture (dieOf k) vd (lowOf e.1) e.2.1)

/-- Whether a configuration set breaks R341. -/
def Auction.bad (u : Auction) : Bool :=
  let pos := fun x : Nat => f32Finite x && f32Lt 0 x
  !pos u.eps.toNat || u.rounds == 0 || decide (u.phases.toNat = 0 ∨ 8 < u.phases.toNat) ||
    !(f32Finite u.div.toNat && !f32Lt u.div.toNat 0x3F800000) || decide (2 ≤ u.init.toNat)

/-- The first of the checks 1 to 4 that fails. -/
def State.descReason (s : State) (r : AgoRun) (d : AucDesc) : Option Nat :=
  if d.zero ≠ 0 ∨ d.r = 0 ∨ 65536 < d.r ∨ d.c = 0 ∨ 4096 < d.c then some 1
  else if d.sfmt ≠ 13 ∧ d.sfmt ≠ 11 then some 2
  else if d.sstr % d.w ≠ 0 ∨ d.sstr < d.c * d.w ∨ d.arrays.any (s.arrayBad r.cmd.done.ctx r.cmd.vd) = true then some 3
  else if r.cmd.cfg.bad then some 4
  else none

/-- The auction that a descriptor and its inputs set up; the stranded rows are found with the scores. -/
def aucOf (d : AucDesc) (cfg : Auction) (caps prices : List Nat) : Auc :=
  let p := (List.range d.c).foldl (fun t j => tput t j (prices.getD j 0)) []
  { r := d.r, c := d.c, w := d.w, score := d.score, sstr := d.sstr, priceA := d.price, assignA := d.assign, fillA := d.fill
    caps := caps, stranded := [], eps := cfg.eps.toNat, rounds := 0, ph := 0, base := p, price := p, held := [], asg := []
    outPrice := p, outHeld := [], outAsg := [] }

/-- The rows for which every column is full from the start or scored −∞. -/
def Auc.strand (x : Auc) (rows : List (Nat × List Nat)) : List Nat :=
  (rows.filter fun e => (List.range x.c).all fun j => x.cap j == 0 || e.2.getD j f32NegInf == f32NegInf).map fun e => e.1

/-- The start: the descriptor, its checks and the inputs. A fault leaves the command at its start. -/
def State.apexBegin (s : State) (die : Nat) (r : AgoRun) : State :=
  let d0 := s.apexRead die r 0 r.cmd.desc 64
  match d0.val with
  | none => d0.st
  | some l =>
    let d := aucDesc l
    match d0.st.descReason r d with
    | some n => d0.st.setRun die (r.fail 5 n)
    | none =>
      let t1 := d0.st.apexRead die d0.run d0.used d.cap (2 * d.c)
      match t1.val with
      | none => t1.st
      | some lc =>
        let t2 := t1.st.apexRead die t1.run t1.used d.price (if r.cmd.cfg.init = 1 then 4 * d.c else 0)
        match t2.val with
        | none => t2.st
        | some lp =>
          let caps := elements 2 lc d.c
          let prices := if r.cmd.cfg.init = 1 then elements 4 lp d.c else []
          if prices.any fun p => !f32Finite p then t2.st.setRun die (r.fail 5 5)
          else if caps.sum < d.r then t2.st.setRun die (r.fail 1 0)
          else
            let x := aucOf d r.cmd.cfg caps prices
            let t3 := t2.st.apexRows die t2.run t2.used x (List.range d.r)
            match t3.val with
            | none => t3.st
            | some rows => t3.st.setRun die (r.goto (.rounds { x with stranded := x.strand rows }))

/-! ## The engine's steps -/

/-- One step of the rounds: a round, a phase's end, or the command's. -/
def State.apexRound (s : State) (die : Nat) (r : AgoRun) (x : Auc) : State :=
  let u := x.unassigned
  if u = [] then
    (if x.ph + 1 < r.cmd.cfg.phases.toNat then s.setRun die (r.goto (.rounds (x.nextPhase r.cmd.cfg)))
     else s.setRun die (r.finish { x with outPrice := x.price, outHeld := x.held, outAsg := x.asg } (if x.stranded = [] then 0 else 2)))
  else if x.rounds = r.cmd.cfg.rounds.toNat then s.setRun die (r.finish x 3)
  else
    let t := s.apexRows die r 0 x u
    match t.val with
    | none => t.st
    | some rows =>
      match x.bids rows with
      | none => t.st.setRun die (r.finish { x with rounds := x.rounds + 1 } 4)
      | some b => t.st.setRun die (r.goto (.rounds (x.round b)))

/-- The status record written: the command completes as this cycle ends. -/
def State.apexDone (s : State) (die : Nat) (r : AgoRun) (st : List Byte) (code rounds : Nat) : State :=
  (s.write (lsKey r.cmd.stat) (st ++ leBytes (s.clock - r.start) 8)).setRun die (r.goto (.ended code rounds))

/-- A command complete as the cycle ends in which its status record was written: its entry is free from then on (R339, R343, R350,
R351). -/
def State.apexFree (s : State) (die : Nat) : State :=
  match (s.die die).apexRun with
  | none => s
  | some r =>
    match r.stage with
    | .ended code rounds =>
      let s1 := (s.modDie die fun d => { d with apexRun := none }).bumpDreg die 6 0 1
      let k := r.cmd.done.ctx
      let s2 := if (s.ctx k).aqid = some r.cmd.id then s1.modCtx k fun c => { c with aqcode := code, aqrounds := rounds } else s1
      s2.finish r.cmd.done 0 0
    | _ => s

/-- One step of the running command. -/
def State.apexStep (s : State) (die : Nat) : State :=
  match (s.die die).apexRun with
  | none => s
  | some r =>
    if r.hold.isSome then s
    else
      match r.stage with
      | .ended _ _ => s
      | .start => s.apexBegin die r
      | .rounds x => s.apexRound die r x
      | .writes [] st code rounds => s.apexDone die r st code rounds
      | .writes ((a, l) :: t) st code rounds =>
        let w := s.awrite die r.cmd.vd a l .write (some (s.reader r.cmd.done))
        match w.1 with
        | .done => w.2.setRun die (r.goto (.writes t st code rounds))
        | .fault c va => w.2.holdApex die r c 1 va
        | .node off => w.2.tableNode die r.cmd.vd off
        | .dead => w.2.deadApex die r
        | _ => w.2

/-- APEX_START: the engine takes the next command of its queue and reads its inputs; that of a frozen virtual device is
held (R361), and that of one under reset is withdrawn with its context (R352). -/
def stepApexStart (die : Nat) (s : State) : State :=
  let d := s.die die
  match d.apexRun, d.apexQ with
  | none, cmd :: l =>
    if d.halted || s.shutVd die cmd.vd then s
    else (s.modDie die fun d => { d with apexQ := l, apexRun := some ⟨cmd, s.clock, .start, [], none⟩ }).apexStep die
  | _, _ => s

/-- APEX_END: up to `k` steps of the running command, its end among them. -/
def stepApexEnd (die : Nat) : Nat → State → State
  | 0, s => s
  | k + 1, s => if (s.die die).apexRun.isSome then stepApexEnd die k (s.apexStep die) else s

/-! ## AQ (R350) -/

/-- STATE, CODE and ROUNDS of a context's most recent AGO. -/
def State.aqWord (s : State) (k : Nat) : Nat :=
  let c := s.ctx k
  let d := s.die (dieOf k)
  match c.aqid with
  | none => 0
  | some id =>
    match d.apexRun with
    | some r =>
      if r.cmd.id = id then
        2 * 2 ^ 62 + (match r.stage with | .start => 0 | .rounds x => x.rounds | .writes _ _ _ n | .ended _ n => n)
      else if d.apexQ.any fun x => x.id == id then 2 ^ 62
      else 3 * 2 ^ 62 + c.aqcode * 2 ^ 32 + c.aqrounds
    | none => if d.apexQ.any fun x => x.id == id then 2 ^ 62 else 3 * 2 ^ 62 + c.aqcode * 2 ^ 32 + c.aqrounds

/-- The die's queue: QUEUED and BUSY. -/
def Die.aqDie (d : Die) : Nat := d.apexLoad * 65536 + if d.apexRun.isSome then 1 else 0

def opAq (c sel : Nat) (y : Sync) : Op :=
  { (Op.cmd .y y).atOnce y (fun s =>
      s.pushS c (BitVec.ofNat 64 (if sel = 0 then s.aqWord s.cur else (s.die (dieOf s.cur)).aqDie)) 2 .y) with
    dests := fun _ => [.sreg c] }

/-- The meaning of `acfg`: it issues, blocks or traps as a bundle of its own (`opAcfg`). -/
def execAcfg (f : AField) (a : Nat) (y : Sync) (s : State) : Host.Outcome State Fault Refusal :=
  .next (issue [opAcfg f a y] s)

/-- The meaning of `ago`: it issues, blocks or traps as a bundle of its own (`opAgo`). -/
def execAgo (a : Nat) (b : Nat) (hnd : Option Nat) (y : Sync) (s : State) : Host.Outcome State Fault Refusal :=
  .next (issue [opAgo a b hnd y] s)

/-- The meaning of `aq`: it issues, blocks or traps as a bundle of its own (`opAq`). -/
def execAq (c : Nat) (sel : Nat) (y : Sync) (s : State) : Host.Outcome State Fault Refusal :=
  .next (issue [opAq c sel y] s)

/-- The meaning of `apexStart`: the step `stepApexStart` on the operands that the state holds. -/
def execApexStart (s : State) : Host.Outcome State Fault Refusal :=
  .next (stepApexStart (s.arg 0) s)

/-- The meaning of `apexEnd`: the step `stepApexEnd` on the operands that the state holds. -/
def execApexEnd (s : State) : Host.Outcome State Fault Refusal :=
  .next (stepApexEnd (s.arg 0) (s.arg 1) s)


end Sys2Proof.Machine
end

