-- ==== Sys2Proof/Machine/Traps.lean ====
section
/-! DEFINITION. The fault queue's registers, replay, kills, machine checks and pre-emption (R20 to R22, R213, R327 to R334). -/

namespace Sys2Proof.Machine

/-! ## The fault queue (R327, R328) -/

/-- FAULT_RECORD_DRAIN: a held record is written once room appears. -/
def stepFaultRecordDrain (die : Nat) (s : State) : State :=
  match (s.die die).heldRecs with
  | [] => s
  | r :: l =>
    if (s.dreg die 7 fqCount).toNat < 252 then (s.modDie die fun d => { d with heldRecs := l }).fqWrite die r.bytes else s

/-- FQTAIL: a write of TAIL lowers COUNT by the slots passed; one beyond HEAD is ignored. -/
def stepFqtail (die v : Nat) (s : State) : State :=
  let n := (v % 256 + 256 - (s.dreg die 7 fqTail).toNat % 256) % 256
  let count := (s.dreg die 7 fqCount).toNat
  if count < n then s
  else (s.setDreg die 7 fqTail (BitVec.ofNat 64 (v % 256))).setDreg die 7 fqCount (BitVec.ofNat 64 (count - n))

/-! ## Replay (R210, R211, R213) -/

/-- The completion and the barrier of the command that made a logged beat: a copy command, or a get. -/
def State.beatOwner (s : State) (core : Nat) (b : LogBeat) : Option (Done × Word) :=
  match ((s.core core).q.map fun e => e.2).flatten.find? fun x => x.id == b.id with
  | some x => some (x.done, x.bar)
  | none => ((s.die (core / 64)).request b.id).map fun o => (o.done, 0)

/-- One entry of the log replayed: its page is walked again, and the beat is written, its bytes are subtracted from its
barrier and the entry is freed; one that faults again stays under a new record, and one whose page moves is tried again. -/
def State.replayBeat (s : State) (core : Nat) (b : LogBeat) : State :=
  let die := core / 64
  let a := BitVec.ofNat 64 b.va
  let own := s.beatOwner core b
  let keep := fun (t : State) (z : LogBeat) => t.modCore core fun c => { c with log := c.log.map fun y => if y = b then z else y }
  let r := s.engWrite die b.vd a b.data (match own with | some o => o.1 | none => .nobody) true
  match r.1 with
  | .done =>
    let s1 := r.2.modCore core fun c => { c with log := c.log.erase b }
    let s2 := match own with | some (d, bar) => s1.barTake core d b.id bar b.data.length | none => s1
    if b.q = 4 then s2.landCheck die b.id else s2
  | .fault c _ =>
    (match own with
     | some (d, _) =>
       let f := r.2.pageToken core d.ctx b.vd d.task c a
       keep f.2 { b with token := f.1 }
     | none => r.2)
  | .node off => r.2.tableNode die b.vd off
  | _ => r.2

/-- Whether the record of a token still waits for room (R328). -/
def Die.unwritten (d : Die) (token : Nat) : Bool := d.heldRecs.any fun h => recKind h.bytes == 0x10 && lnat h.bytes 16 4 == token

/-- The next entry of a replay, which is the beat of the core's copy engine in its cycle (R161; log entry 145). -/
def State.replayNext (s : State) (core token : Nat) : State :=
  match (s.core core).log.find? fun b => b.token == token with
  | none => s
  | some b =>
    if (s.core core).beatAt = some s.clock then s
    else (s.replayBeat core b).modCore core fun c => { c with beatAt := some s.clock }

/-- The cores of a die with a replay under way, whose tokens are no longer outstanding. -/
def State.replays (s : State) (die : Nat) : List (Nat × Nat) :=
  (s.cores.filter fun e => e.1 / 64 == die).filterMap fun e =>
    (e.2.log.find? fun b => (tfind (s.die die).faults b.token).isNone).map fun b => (e.1, b.token)

/-- FLTREPLAY: the held read or the logged page that a token names; any other token is ignored, and so is one whose record has
not been written. A page's entries are replayed in log order, one beat in a cycle, from this step on. -/
def stepFltreplay (die token : Nat) (s : State) : State :=
  let d := s.die die
  match (if d.unwritten token then none else tfind d.faults token) with
  | none =>
    match (s.replays die).find? fun e => e.2 == token with
    | some e => s.replayNext e.1 token
    | none => s
  | some what =>
    let s1 := s.modDie die fun d => { d with faults := d.faults.filter fun e => e.1 != token }
    let free := fun h : Option Nat => if h = some token then none else h
    match what with
    | .queue core q =>
      if q = 4 then s1.modCore core fun c => { c with remote := c.remote.map fun x => { x with hold := free x.hold } }
      else s1.modCore core fun c => { c with q := c.q.map fun e => (e.1, e.2.map fun x => { x with hold := free x.hold }) }
    | .page core _ _ =>
      s1.replayNext core token
    | .apex => s1.modDie die fun d => { d with apexRun := d.apexRun.map fun r => { r with hold := free r.hold } }

/-! ## The end of a kill (R330, R331) -/

/-- A machine check's record once its contexts have ended (R329). -/
def checkRec (die : Nat) (x : Check) (cyc : Nat) : List Byte :=
  faultRec 0x32 die x.cl x.co x.cx x.detail 1 x.addr 0 cyc
    (leBytes x.mask 2 ++ zeros 2 ++ leBytes x.ended 4 ++ leBytes x.discarded 4)

/-- A context's counts added to the machine checks that killed it; those whose contexts have all ended are recorded. -/
def State.checkEnd (s : State) (k task ended discarded : Nat) : State :=
  let die := dieOf k
  let add := fun x : Check =>
    if x.left.contains (k, task) then
      { x with left := x.left.erase (k, task), ended := x.ended + ended, discarded := x.discarded + discarded }
    else x
  let l := (s.die die).checks.map add
  (l.filter fun x => x.left.isEmpty).foldl (fun t x => t.fatal die (checkRec die x (t.cycle die)))
    (s.modDie die fun d => { d with checks := l.filter fun x => !x.left.isEmpty })

/-- Whether every command of a context being killed has ended, with no access of its still late. -/
def State.killDone (s : State) (k : Nat) : Bool :=
  s.commandCount k == 0 && !(s.core (coreOf k)).late.any fun x => x.ctx == k

/-- Whether KILL_FINISH has something to do for a context. -/
def State.killMoves (s : State) (k : Nat) : Bool :=
  match (s.ctx k).st with
  | .dying _ =>
    let t := s.withdraw k
    t.killDone k || decide (t.commandCount k < s.commandCount k)
  | _ => false

/-- The task record of a killed task freed, with PART and DISC of its job (R198). -/
def State.killTask (s : State) (k task : Nat) : State :=
  if s.taskLive task then
    let die := dieOf k
    let r := s.trec die (taskIdx task)
    ((s.endRec die (taskIdx task)).partAdd die r.vd r.job (-1)).discAdd die r.vd r.job
  else s

/-- KILL_FINISH: what has come to be held is withdrawn too; when every command has ended the pins, the allotments and the
task record are returned and the kill record is written. -/
def stepKillFinish (k : Nat) (s : State) : State :=
  match (s.ctx k).st with
  | .dying reason =>
    let die := dieOf k
    let s1 := s.withdraw k
    if !s1.killDone k then s1
    else
      let c := s1.ctx k
      match (s1.die die).kills.find? fun x => x.ctx == k && x.task == c.task with
      | none => s1.freeCtx k
      | some n =>
        let ended := n.total - n.discarded
        let errs := (List.range 16).countP fun h => (c.h h).err != 0
        let rcd := faultRec 0x33 die (clusOf k) (coreNo k) (ctxNo k) reason 1 0 c.task (s.cycle die)
          (leBytes ended 4 ++ leBytes n.discarded 4 ++ leBytes errs 2 ++ leBytes n.logs 2)
        let s2 := (s1.modDie die fun d => { d with kills := d.kills.filter fun x => x != n }).unpin die n.pins
        (((s2.killTask k c.task).freeCtx k).fatal die rcd).checkEnd k c.task ended n.discarded
  | _ => s

/-! ## Machine checks (R331) -/

/-- The contexts of a core, a cluster, or the one context that read the chunk. -/
def checkCtxs (die chunk k : Nat) : List Nat :=
  if keyKind chunk = 0xA then ctxsOf (64 * die + 4 * (chunk / 2 ^ 40 % 16) + chunk / 2 ^ 38 % 4)
  else if keyKind chunk = 0x9 then (List.range 16).map fun i => 256 * die + 16 * (chunk / 2 ^ 40 % 16) + i
  else if k < 4096 then [k] else []

/-- DETAIL of a machine check. -/
def checkDetail (chunk : Nat) : Nat :=
  if keyKind chunk = 0xA then 0 else if keyKind chunk = 0x9 then 1 else if keyKind chunk = 0x8 then 2 else 3

/-- The cluster, core and context of a machine check's PLACE: those of the pad, and for the die pad and HBM those of the context
whose access failed (R329; log entry 110). -/
def checkPlace (chunk k : Nat) : Nat × Nat × Nat :=
  if keyKind chunk = 0xA then (chunk / 2 ^ 40 % 16, chunk / 2 ^ 38 % 4, 0xFF)
  else if keyKind chunk = 0x9 then (chunk / 2 ^ 40 % 16, 0xFF, 0xFF)
  else if k < 4096 then (clusOf k, coreNo k, ctxNo k) else (0xFF, 0xFF, 0xFF)

/-- MACHINE_CHECK: an access of context `k`, or of none, reads an uncorrectable chunk. -/
def stepMachineCheck (die addr k : Nat) (s : State) : State :=
  let chunk := addr / chunkSize addr * chunkSize addr
  let holds := fun t : Nat => match (s.ctx t).st with | .free => false | .dying _ => false | _ => true
  let l := (checkCtxs die chunk k).filter holds
  let s0 := { s with bad := if s.bad.contains chunk then s.bad else s.bad ++ [chunk] }
  let s1 := s0.killAll 3 l
  let x : Check :=
    { detail := checkDetail chunk, cl := (checkPlace chunk k).1, co := (checkPlace chunk k).2.1, cx := (checkPlace chunk k).2.2
      addr := chunk, mask := l.foldl (fun m t => m + 2 ^ (t % 16)) 0
      left := l.map fun t => (t, (s.ctx t).task), ended := 0, discarded := 0 }
  if l.isEmpty then s1.fatal die (checkRec die x (s.cycle die)) else s1.modDie die fun d => { d with checks := d.checks ++ [x] }

/-! ## Pre-emption (R20 to R22, R333, R334) -/

/-- The answer to the PREEMPT that waits on a context: its status is written and its signal applied. -/
def State.preAnswer (s : State) (k st : Nat) : State :=
  match (s.ctx k).pre with
  | none => s
  | some p =>
    let s1 := s.modCtx k fun c => { c with pre := none }
    match p.waiter with
    | none => s1
    | some (_, c, d) =>
      let here := (s1.ctx d.ctx).st != .free && (s1.ctx d.ctx).task == d.task
      (if here then s1.modCtx d.ctx fun x => x.setS c (BitVec.ofNat 64 st) else s1).sigDone d

/-- The status with which a PREEMPT of a context completes at once, or none when it waits. -/
def Ctx.preNow (c : Ctx) : Option Nat :=
  match c.st with
  | .free => some 2
  | .stopped _ => some 3
  | .dying _ => some 1
  | _ => if c.pre.isSome then some 3 else none

/-- The context that s_a names. -/
def preTarget (k : Nat) (v : Word) : Nat := 256 * dieOf k + v.toNat % 256

/-- The traps of the target form. -/
def preTrap (a : Nat) (s : State) : Option Trap :=
  let v := s.me.s a
  if bitsOf v 63 8 ≠ 0 then some (Slot.y.trap .illegalBundle 0 0)
  else if s.ownsClus (dieOf s.cur) (s.vdOf s.cur) (bitsOf v 7 4) then none
  else some (Slot.y.trap .regRange 0 0)

def opPreempt (a c : Nat) (y : Sync) : Op :=
  Op.supOnly { Op.cmd .y y with
    dests := fun _ => [.sreg c]
    addr := preTrap a
    effect := fun s =>
      let t := preTarget s.cur (s.me.s a)
      match (s.ctx t).preNow with
      | some st => (s.signalBoth y).pushS c (BitVec.ofNat 64 st) 1 .y
      | none =>
        let f := s.fresh
        let lim := s.preemptLim (dieOf t) (s.vdOf t)
        (f.2.modCtx t fun x => { x with pre := some ⟨lim, s.clock, some (f.1, c, s.done none y)⟩ }).signalAccept y }

def opPreemptSelf (y : Sync) : Op :=
  Op.supOnly ((Op.cmd .y y).atOnce y fun s => s.modMe fun c => { c with st := .ending })

/-- Whether a context stands at a safe point, before a bundle whose header has SP set that is no delay bundle, outside a
handler. -/
def State.atSafePoint (s : State) (k : Nat) : Bool :=
  let c := s.ctx k
  c.st == .running && !c.sup && c.idle == 0 && c.xfer.isNone && (s.hdr (dieOf k) c.pc.toNat).sp

/-- Whether what a context has issued has come to rest: no result in flight, no access late. -/
def State.atRest (s : State) (k : Nat) : Bool :=
  (s.ctx k).inflight.isEmpty && !(s.core (coreOf k)).late.any fun x => x.ctx == k

/-- Whether a context is stopped, with its results written and, outside trap state, its matrix operations complete. -/
def State.isStopped (s : State) (k : Nat) : Bool :=
  match (s.ctx k).st with
  | .stopped st => s.atRest k && (st == 2 || !s.matBusy k)
  | _ => false

/-- Whether PREEMPT_STOP has something to do for a context. -/
def State.stopMoves (s : State) (k : Nat) : Bool :=
  let c := s.ctx k
  match c.st with
  | .ending => s.atRest k
  | .stopped _ => c.pre.isSome && s.isStopped k
  | _ => c.pre.isSome && s.atSafePoint k

/-- The stop itself: `ready` says whether the bundle at the safe point is ready to issue. -/
def State.stop (s : State) (k : Nat) (ready : Bool) : State :=
  (s.redeliver k).modCtx k fun c => { c with st := .stopped (if ready then 0 else 1), ask := none, wdown := none }

/-- The stop of PREEMPT.self: the handler's loop state gives way to the one that trap entry set aside. -/
def State.stopSelf (s : State) (k : Nat) : State :=
  s.modCtx k fun c => { c with st := .stopped 2, lc0 := c.side0, lc1 := c.side1 }

/-- PREEMPT_TIMEOUT_KILL (R22): the limit has passed before the stop. -/
def stepPreemptTimeoutKill (k : Nat) (s : State) : State :=
  let c := s.ctx k
  match c.st, c.pre with
  | .stopped _, _ => s
  | _, some p => if p.left = 0 then s.kill k 0 else s
  | _, none => s

/-- The meaning of `preempt`: it issues, blocks or traps as a bundle of its own (`opPreempt`). -/
def execPreempt (a : Nat) (c : Nat) (y : Sync) (s : State) : Host.Outcome State Fault Refusal :=
  .next (issue [opPreempt a c y] s)

/-- The meaning of `preemptSelf`: it issues, blocks or traps as a bundle of its own (`opPreemptSelf`). -/
def execPreemptSelf (y : Sync) (s : State) : Host.Outcome State Fault Refusal :=
  .next (issue [opPreemptSelf y] s)

/-- The meaning of `fltreplay`: the step `stepFltreplay` on the operands that the state holds. -/
def execFltreplay (s : State) : Host.Outcome State Fault Refusal :=
  .next (stepFltreplay (s.arg 0) (s.arg 1) s)

/-- The meaning of `faultRecordDrain`: the step `stepFaultRecordDrain` on the operands that the state holds. -/
def execFaultRecordDrain (s : State) : Host.Outcome State Fault Refusal :=
  .next (stepFaultRecordDrain (s.arg 0) s)

/-- The meaning of `fqtail`: the step `stepFqtail` on the operands that the state holds. -/
def execFqtail (s : State) : Host.Outcome State Fault Refusal :=
  .next (stepFqtail (s.arg 0) (s.arg 1) s)

/-- The meaning of `killFinish`: the step `stepKillFinish` on the operands that the state holds. -/
def execKillFinish (s : State) : Host.Outcome State Fault Refusal :=
  .next (stepKillFinish (s.arg 0) s)

/-- The meaning of `machineCheck`: the step `stepMachineCheck` on the operands that the state holds. -/
def execMachineCheck (s : State) : Host.Outcome State Fault Refusal :=
  .next (stepMachineCheck (s.arg 0) (s.arg 1) (s.arg 2) s)

/-- The meaning of `preemptTimeoutKill`: the step `stepPreemptTimeoutKill` on the operands that the state holds. -/
def execPreemptTimeoutKill (s : State) : Host.Outcome State Fault Refusal :=
  .next (stepPreemptTimeoutKill (s.arg 0) s)


end Sys2Proof.Machine
end

