-- ==== Sys2Proof/Machine/Image.lean ====
section
/-! DEFINITION. Images: the coder of pad regions (R171), the layout of a context image (R335), and CTXSV with the pad forms
(R336 to R338). CTXLD of a context stands with the engine's steps, since it enters commands in their queues. -/

namespace Sys2Proof.Machine

/-! ## The region coder (R171) -/

/-- A run of `n` more beats equal to the one before. -/
def runToken (n : Nat) : List Byte := if n = 0 then [] else [1, BitVec.ofNat 8 n]

/-- A beat that does not extend a run: zero, one repeated byte, or a literal. -/
def beatToken (b : List Byte) : List Byte :=
  if b.all (· == 0) then [0] else if b.all (· == b.headD 0) then [3, b.headD 0] else 2 :: b

/-- The body of a region's beats; `run` counts the beats equal to `prev` that are not yet emitted. -/
def codeBeats : Option (List Byte) → Nat → List (List Byte) → List Byte
  | _, run, [] => runToken run
  | prev, run, b :: l =>
    if prev = some b then
      (if run + 1 = 255 then runToken 255 ++ codeBeats prev 0 l else codeBeats prev (run + 1) l)
    else runToken run ++ beatToken b ++ codeBeats (some b) 0 l

/-- The 64 beats of a region. -/
def beatsOf (l : List Byte) : List (List Byte) := (List.range 64).map fun i => (l.drop (64 * i)).take 64

/-- A region record. -/
def regionRec (region : Nat) (l : List Byte) : List Byte :=
  let body := codeBeats none 0 (beatsOf l)
  leBytes region 4 ++ leBytes body.length 2 ++ zeros 2 ++ body

/-- A body decoded to its bytes, `none` when it is refused; `n` bounds its tokens. -/
def decodeBody (prev : Option (List Byte)) : Nat → List Byte → Option (List Byte)
  | _, [] => some []
  | 0, _ => none
  | n + 1, t :: l =>
    if t = 0 then (decodeBody (some (zeros 64)) n l).map fun r => zeros 64 ++ r
    else if t = 1 then
      match prev, l with
      | some b, v :: l' =>
        if v = 0 then none else (decodeBody prev n l').map fun r => (List.replicate v.toNat b).flatten ++ r
      | _, _ => none
    else if t = 2 then
      if l.length < 64 then none else (decodeBody (some (l.take 64)) n (l.drop 64)).map fun r => l.take 64 ++ r
    else if t = 3 then
      match l with
      | v :: l' => (decodeBody (some (List.replicate 64 v)) n l').map fun r => List.replicate 64 v ++ r
      | [] => none
    else none

/-- Region records to the end of a list, each with its region and bytes; `none` when one is refused. -/
def decodeRecs : Nat → List Byte → Option (List (Nat × List Byte))
  | _, [] => some []
  | 0, _ => none
  | n + 1, l =>
    let len := lnat l 4 2
    let body := (l.drop 8).take len
    if l.length < 8 + len ∨ len = 0 ∨ 4160 < len ∨ lnat l 6 2 ≠ 0 then none
    else
      match decodeBody none len body with
      | none => none
      | some b => if b.length ≠ 4096 then none else (decodeRecs n (l.drop (8 + len))).map fun r => (lnat l 0 4, b) :: r

/-! ## A context's image (R335) -/

def word8 (v : Word) : List Byte := leBytes v.toNat 8
def bool8 (b : Bool) : List Byte := leBytes (if b then 1 else 0) 8
def LoopSt.toBytes (l : LoopSt) : List Byte := word8 l.lc ++ word8 l.ls ++ word8 l.le ++ bool8 l.la

/-- The sixteen special values of an image. -/
def State.imageSpecials (s : State) (k : Nat) : List Byte :=
  let c := s.ctx k
  let r := match c.rlabel with | some w => w.toNat / 2 * 2 + 1 | none => 0
  leBytes c.flags.toNat 8 ++ leBytes c.trapen.toNat 8 ++ word8 c.srseed ++ leBytes (c.wcur.getD 0) 8 ++
    leBytes c.ord.toNat 8 ++ word8 c.trappc ++ leBytes c.trapInfo 8 ++ word8 c.trapaddr ++
    ((List.range 4).map fun i => word8 (tget 0 c.sscr i)).flatten ++ leBytes r 8 ++ bool8 c.mshad ++ zeros 16

/-- The shadow set in code order. -/
def Shadow.toBytes (h : Shadow) : List Byte :=
  ([h.aaddr, h.baddr, h.maddr, h.saddr, h.k, h.astr, h.bstr].map fun v => leBytes v.toNat 4).flatten ++
    leBytes h.banda.toNat 2 ++ leBytes h.bandb.toNat 2 ++ zeros 32

/-- A latch; `row` gives the core's rows. A result that only sets flags is one of s0, whose writes are discarded. The mask of
an image names bytes, so of a byte with one 4-bit element written the other is the row's (log entry 10). -/
def latchBytes (row : Nat → Row) (vbase : Nat) (r : Result) : List Byte :=
  let (kind, n) := match r.dest with
    | .kreg n => (2, n)
    | .row n | .under n _ | .nib n _ _ => (3, n - vbase)
    | .sreg n => (1, n)
    | _ => (1, 0)
  let val := match r.dest with
    | .nib n m _ => mergeNibs (row n) r.val m
    | _ => r.val
  leBytes kind 1 ++ zeros 1 ++ leBytes n 2 ++ leBytes r.left 1 ++ leBytes r.flags.toNat 1 ++ zeros 10 ++
    leBytes r.mask.toNat 32 ++ leBytes val.toNat 256

/-- The kept tiles that a context has. -/
def Ctx.keptTiles (c : Ctx) : List Nat := (List.range 16).filter fun t => c.keep.getLsbD t && c.hasTile t

/-- A kept tile's four region records. -/
def State.tileRecs (s : State) (k t : Nat) : List Byte :=
  let row := fun i => leBytes (s.rowOf k (64 * t + i)).toNat 256
  ((List.range 4).map fun g => regionRec g ((List.range 16).map fun i => row (16 * g + i)).flatten).flatten

/-- The handle and semaphore sections. -/
def State.imageCounts (s : State) (k : Nat) : List Byte :=
  let c := s.ctx k
  ((List.range 16).map fun h => (c.h h).toBytes).flatten ++
    ((List.range 256).map fun n =>
      leBytes (if c.sbase + n < c.slim then (s.core (coreOf k)).sem (c.sbase + n) else 0) 2).flatten

/-- A context's latches that an image holds: those of registers. -/
def Ctx.imageLatches (c : Ctx) : List Result :=
  c.latches.filter fun r => match r.dest with | .out _ => false | .whole _ => false | .special _ => false | _ => true

/-- The sections after the header. -/
def State.imageBody (s : State) (k : Nat) : List Byte :=
  let c := s.ctx k
  zeros 8 ++ ((List.range 63).map fun i => word8 (c.s (i + 1))).flatten ++
    ((List.range 12).map fun i => leBytes (c.k i).toNat 32).flatten ++ c.lc0.toBytes ++ c.lc1.toBytes ++
    s.imageSpecials k ++ ((List.range 16).map fun i => leBytes (c.fmtE i).toNat 4).flatten ++ c.sh.toBytes ++
    s.imageCounts k ++ (c.imageLatches.map fun r => latchBytes (s.core (coreOf k)).row c.vbase r).flatten ++
    (c.keptTiles.map fun t => s.tileRecs k t).flatten

/-- STATE of a stopped context. -/
def Ctx.imageState (c : Ctx) : Nat := match c.st with | .stopped n => n | _ => 0

/-- A stopped context's image. -/
def State.ctxImage (s : State) (k : Nat) : List Byte :=
  let c := s.ctx k
  let die := dieOf k
  let vd := (s.trec die (taskIdx c.task)).vd
  let body := s.imageBody k
  leBytes 0x40 2 ++ leBytes 1 2 ++ leBytes (64 + body.length) 4 ++ leBytes c.task 4 ++ leBytes c.job 4 ++
    leBytes c.imageState 1 ++ leBytes vd 1 ++ leBytes (s.vdClus die vd) 2 ++ leBytes ((c.vlim - c.vbase) / 64) 1 ++ zeros 1 ++
    leBytes (c.slim - c.sbase) 2 ++ word8 (if c.imageState = 2 then c.trappc else c.pc) ++
    leBytes c.imageLatches.length 2 ++ zeros 2 ++ leBytes c.keep.toNat 2 ++ zeros 10 ++ leBytes (s.cycle die) 8 ++ zeros 8 ++ body

/-! ## A pad's image (R171, R337) -/

/-- The dirty regions of a pad. -/
def State.dirtyRegions (s : State) (key size : Nat) : List Nat :=
  (List.range (size / 4096)).filter fun i => tget false s.dirty (key / 4096 + i)

/-- The 64-byte header of a pad image: KIND, PLACE, LEN at byte 8 and SHADN at byte 12. -/
def padHeader (unit : Bool) (kind die v len shadn : Nat) : List Byte :=
  leBytes kind 2 ++ leBytes die 1 ++ leBytes (v / 16 % 16) 1 ++ (if unit then leBytes (v / 4 % 4) 1 else [0xFF]) ++ [0xFF] ++
    zeros 2 ++ leBytes len 4 ++ leBytes shadn 2 ++ zeros 50

/-- Regions that stand one behind the other, each behind its number. -/
def regionList (l : List Byte) : List (Nat × List Byte) :=
  (List.range (l.length / 4100)).map fun i => (lnat l (4100 * i) 4, (l.drop (4100 * i + 4)).take 4096)

/-- A pad's image with the regions that have been read of it. -/
def State.padImage (s : State) (unit : Bool) (die v : Nat) (l : List (Nat × List Byte)) : List Byte :=
  let body := (l.map fun e => regionRec e.1 e.2).flatten
  let shadn := if unit then (s.core (64 * die + v / 4 % 64)).shadn.toNat else 0
  padHeader unit (padOf unit die v).2.2 die v (64 + body.length) shadn ++ body

/-- The contexts of the core or cluster of a pad. -/
def padCtxs (unit : Bool) (die v : Nat) : List Nat :=
  if unit then ctxsOf (64 * die + v / 4 % 64) else (List.range 16).map fun i => 256 * die + v / 16 % 16 * 16 + i

/-- Whether a context of the core or cluster holds a task and is not stopped. -/
def State.padBusy (s : State) (unit : Bool) (die v : Nat) : Bool :=
  (padCtxs unit die v).any fun k => (s.ctx k).st != .free && !s.isStopped k

/-! ## Acceptance (R336) -/

/-- The traps of CTXSV and CTXLD: the place, then the status slot and the image's header in the order of R158, the image's KIND
with the classes. -/
def imageTrap (a b e : Nat) (s : State) : Option Trap :=
  let v := s.me.s a
  let img := s.me.s b
  let slot := s.me.s e
  if bitsOf v 63 8 ≠ 0 then some (Slot.c.trap .illegalBundle 0 0)
  else if s.ownsClus (dieOf s.cur) (s.vdOf s.cur) (bitsOf v 7 4) = false then some (Slot.c.trap .regRange 0 0)
  else
    let l : List Opnd := [⟨.ls, slot, 8, 8, slot⟩, ⟨.copy, img, 64, 64, img⟩]
    let kind := if kindOf img ≠ 0 ∧ kindOf img ≠ 8 then some (Cause.addrClass, img) else none
    match [s.classTrap s.cur l, kind, l.findSome? Opnd.rangeTrap, l.findSome? Opnd.alignTrap].findSome? id with
    | some x => some (trapOf .c x)
    | none => (s.noViewTrap s.cur [(img, 64)]).map fun x => Slot.c.trap x 0 0

/-- An image command: it enters its copy queue. -/
def imageOp (i : Instr) (q a b e : Nat) (y : Sync) : Op :=
  Op.supOnly { Op.cmd .c y with
    ready := fun s => s.queueRoom q
    addr := imageTrap a b e
    effect := fun s =>
      let f := s.fresh
      let cmd := newCmd f.1 i (s.vdOf s.cur) ⟨s.me.s a, s.me.s b, 0, s.me.s e⟩ 0 [] (s.done none y)
      (f.2.enqueue (coreOf s.cur) q cmd).signalAccept y }

def opCtxsv (q a b e : Nat) (y : Sync) : Op := imageOp (.ctxsv q a b e y) q a b e y
def opCtxsvUpad (q a b e : Nat) (y : Sync) : Op := imageOp (.ctxsvUpad q a b e y) q a b e y
def opCtxsvCpad (q a b e : Nat) (y : Sync) : Op := imageOp (.ctxsvCpad q a b e y) q a b e y
def opCtxld (q a b e : Nat) (y : Sync) : Op := imageOp (.ctxld q a b e y) q a b e y
def opCtxldUpad (q a b e : Nat) (y : Sync) : Op := imageOp (.ctxldUpad q a b e y) q a b e y
def opCtxldCpad (q a b e : Nat) (y : Sync) : Op := imageOp (.ctxldCpad q a b e y) q a b e y

/-- What an image command does, when a command is one. -/
inductive ImageJob where
  | save | savePad (unit : Bool) | load | loadPad (unit : Bool)
  deriving DecidableEq, Repr

def imageJob : Instr → Option ImageJob
  | .ctxsv _ _ _ _ _ => some .save
  | .ctxsvUpad _ _ _ _ _ => some (.savePad true)
  | .ctxsvCpad _ _ _ _ _ => some (.savePad false)
  | .ctxld _ _ _ _ _ => some .load
  | .ctxldUpad _ _ _ _ _ => some (.loadPad true)
  | .ctxldCpad _ _ _ _ _ => some (.loadPad false)
  | _ => none

/-! ## The work of CTXSV -/

/-- Whether an image's whole range fits: its pad or the virtual space, and the die-pad bounds (R336), with no byte of an
aperture, which no image command reaches (R230). -/
def State.imageFits (s : State) (die : Nat) (x : CopyCmd) (len : Nat) : Bool :=
  inSpace x.b len && (kindOf x.b != 8 || s.inDpBound die x.vd (offOf x.b) len) &&
    !(kindOf x.b == 0 && s.meetsAperture die x.vd (lowOf x.b) len)

/-- The command's last beat is to come: its status slot receives LEN and the status, and then the command is complete. A LEN that
is not known is free. -/
def State.imageEnd (s : State) (core : Nat) (x : CopyCmd) (len : Option Nat) (st : Nat) : State :=
  let n := match len with | some n => n | none => Config.choice s.free
  let y := { x with rd := 2, wr := 0, row := 8, buf := leBytes st 4 ++ leBytes n 4 }
  let s1 : State := { s with free := s.free + 1 }
  s1.modCore core fun c => { c with q := c.q.map fun e => (e.1, e.2.map fun z => if z.id = x.id then y else z) }

/-- Whether a stopped context's accepted commands have completed, but for remote commands already sent. -/
def State.imageQuiet (s : State) (k id : Nat) : Bool :=
  let d := s.die (dieOf k)
  let mine := fun x : Done => x.of (s.ctx k).task
  let all := ((s.copies (dieOf k)).filter fun x => x.id != id).map (fun x => x.done) ++ (s.remotes (dieOf k)).map (fun x => x.done) ++
    d.outq.map (fun x => x.done) ++ d.evQ.map (fun x => x.done) ++ d.migrQ.map (fun x => x.done) ++ d.apexQ.map (fun x => x.done) ++
    (match d.apexRun with | some r => [r.cmd.done] | none => []) ++ d.spawns.map (fun x => x.done) ++ s.preempts.map fun x => x.2
  (s.ctx k).held.isNone && s.atRest k && !s.matBusy k && !all.any mine

/-- The next beat of an image command's data. -/
def imageBeat (x : CopyCmd) : List Byte :=
  match imageJob x.op, x.rd with
  | some (.loadPad _), 1 => (x.buf.drop (4100 * (x.wr / 4096) + 4 + x.wr % 4096)).take 64
  | _, _ => (x.buf.drop x.wr).take (min 64 (x.row - x.wr))

/-- One beat of an image command written (R161); one that faults is logged. -/
def State.imageWrite (s : State) (core q : Nat) (x : CopyCmd) : State :=
  let a := imageDst (core / 64) x
  let l := imageBeat x
  let x' := { x with wr := x.wr + l.length }
  let r := (s.takeBanks 0 (addrBanks a l.length)).engWrite (core / 64) x.vd a l x.done true
  match r.1 with
  | .done => r.2.setCmd core q x'
  | .fault c _ =>
    (match r.2.logBeat core q x.id 0 x.done.ctx x.vd x.done.task c a l with
     | some t => t.setCmd core q x'
     | none => s)
  | .node off => r.2.tableNode (core / 64) x.vd off
  | .dead => r.2.deadCmd core q x
  | _ => r.2

/-- The first beat of an image's count sections, from byte 1280 on, in which two versions differ. -/
def firstDiff (l m : List Byte) : Nat := 1280 + 64 * ((List.range 14).find? fun i => (l.drop (64 * i)).take 64 != (m.drop (64 * i)).take 64).getD 14

/-- Whether a save's target is still the stopped context of which it took the image: with the same task, and not loaded anew
meanwhile (log entry 162). -/
def State.sameTarget (s : State) (k : Nat) (x : CopyCmd) : Bool :=
  s.isStopped k && (s.ctx k).task == x.c.toNat && x.idx == some ((s.ctx k).synced : Int)

/-- A save's last part: beats of the image whose counts have changed meanwhile are written again (log entry 143), and once there
are none the context is freed and its record names the image, with the deltas that VWSYNC is to wait for. A target that is no
longer the one it was ends it with status 1. -/
def State.saveEnd (s : State) (core q : Nat) (x : CopyCmd) (job : ImageJob) : State :=
  let die := core / 64
  match job with
  | .save =>
    let k := 256 * die + x.a.toNat % 256
    let idx := taskIdx (s.ctx k).task
    let s0 := s.semsEnd (coreOf k)
    let now := s0.imageCounts k
    let old := (x.buf.drop 1280).take 896
    if s.sameTarget k x = false then s.imageEnd core x (some x.buf.length) 1
    else if now = old then
      ((s0.setRec die idx { s0.trec die idx with at_ := .saved x.b.toNat, vwSeq := (s.ctx k).vwSeq }).freeCtx k).imageEnd core x
        (some x.buf.length) 0
    else
      s0.setCmd core q { x with buf := x.buf.take 1280 ++ now ++ x.buf.drop 2176, wr := firstDiff old now, row := 2176 }
  | _ => s.imageEnd core x (some x.buf.length) 0

/-- A save's image, whose beats it then writes when its range fits. -/
def State.saveImage (s : State) (core q : Nat) (x : CopyCmd) (l : List Byte) : State :=
  if s.imageFits (core / 64) x l.length then s.setCmd core q { x with buf := l, rd := 1, wr := 0, row := l.length }
  else s.imageEnd core x (some l.length) 6

/-- The beginning of a save: it is refused, waits, or takes its context's image; a pad's save begins to read the pad. -/
def State.saveBegin (s : State) (core q : Nat) (x : CopyCmd) (job : ImageJob) : State :=
  let die := core / 64
  let k := 256 * die + x.a.toNat % 256
  match job with
  | .savePad unit => if s.padBusy unit die x.a.toNat then s.imageEnd core x none 1 else s.setCmd core q { x with rd := 3 }
  | _ =>
    if s.isStopped k = false then s.imageEnd core x none 1
    else if s.imageQuiet k x.id = false then s
    else
      s.saveImage core q { x with c := BitVec.ofNat 64 (s.ctx k).task, idx := some ((s.ctx k).synced : Int) } (s.ctxImage k)

/-- One read of a pad's save: 64 bytes of a dirty region, in a bank of the pad (R146). -/
def State.saveRead (s : State) (core q : Nat) (x : CopyCmd) : State :=
  match s.saveNext (core / 64) x with
  | none => s
  | some (i, key) =>
    let l := (if x.wr = 0 then leBytes i 4 else []) ++ s.read key 64
    let y := if x.wr + 64 = 4096 then { x with row := i + 1, wr := 0 } else { x with row := i, wr := x.wr + 64 }
    ((s.takeBanks 0 (banksFor key 64)).checkAt (core / 64) (s.reader x.done) [(key, 64)]).setCmd core q { y with buf := x.buf ++ l }

/-- A pad's save once every dirty region has been read: its image is made. -/
def State.savePadImage (s : State) (core q : Nat) (x : CopyCmd) (unit : Bool) : State :=
  match s.saveNext (core / 64) x with
  | some _ => s
  | none => s.saveImage core q x (s.padImage unit (core / 64) x.a.toNat (regionList x.buf))

/-! ## Reading an image -/

/-- What reading an image comes to: its bytes, or a state in which the command is held or waits. -/
inductive ImageRead where
  | bytes (l : List Byte) (s : State)
  | stay (s : State)

/-- `n` bytes of the image from its start. -/
def State.imageRead (s : State) (core q : Nat) (x : CopyCmd) (n : Nat) : ImageRead :=
  let r := s.areadN (core / 64) x.vd x.b n .read (some (s.reader x.done))
  match r.1 with
  | .bytes l _ => .bytes l r.2
  | .fault c va => .stay (r.2.holdCmd core q x c 0 (BitVec.ofNat 64 va))
  | .node off => .stay (r.2.tableNode (core / 64) x.vd off)
  | .dead => .stay (r.2.deadCmd core q x)
  | _ => .stay r.2

/-- What restoring a pad writes, each region behind its number: zero where a dirty region is absent, and the regions of the
image (R171). -/
def State.padPlan (s : State) (key size : Nat) (l : List (Nat × List Byte)) : List Byte :=
  (((s.dirtyRegions key size).filter fun i => !l.any fun e => e.1 == i).map fun i => leBytes i 4 ++ zeros 4096).flatten ++
    (l.map fun e => leBytes e.1 4 ++ e.2).flatten

/-- Whether region numbers rise and lie in a pad; an image in which they do not is refused with status 2 (log entry 134). -/
def regionsOk (size : Nat) : List (Nat × List Byte) → Bool
  | [] => true
  | e :: l => decide (e.1 * 4096 < size) && (match l with | [] => true | f :: _ => decide (e.1 < f.1)) && regionsOk size l

/-- A pad restored: SHADN is loaded with a unit pad (R66), and the command ends. -/
def State.padLoaded (s : State) (core : Nat) (x : CopyCmd) (unit : Bool) : State :=
  let s1 := if unit then s.modCore (64 * (core / 64) + x.a.toNat / 4 % 64) fun c => c.writeShadn (x.idx.getD 0).toNat else s
  s1.imageEnd core x (some x.c.toNat) 0

/-- CTXLD's pad forms: the image is read and checked, and its regions are then written beat by beat. -/
def State.loadPad (s : State) (core q : Nat) (x : CopyCmd) (unit : Bool) : State :=
  let die := core / 64
  let v := x.a.toNat
  let (key, size, kind) := padOf unit die v
  if s.padBusy unit die v then s.imageEnd core x none 1
  else
    match s.imageRead core q x 64 with
    | .stay t => t
    | .bytes h t =>
      let len := lnat h 8 4
      if lnat h 0 2 ≠ kind ∨ lnat h 6 2 ≠ 0 ∨ lnat h 14 50 ≠ 0 ∨ (unit = false ∧ lnat h 12 2 ≠ 0) then t.imageEnd core x (some len) 2
      else if t.imageFits die x len = false then t.imageEnd core x (some len) 6
      else
        match t.imageRead core q x len with
        | .stay t' => t'
        | .bytes l t' =>
          match (if len < 64 then none else decodeRecs 4096 (l.drop 64)) with
          | none => t'.imageEnd core x (some len) 2
          | some recs =>
            if regionsOk size recs then
              let plan := t'.padPlan key size recs
              t'.setCmd core q { x with
                buf := plan, rd := 1, row := plan.length / 4100 * 4096, idx := some (lnat h 12 2), c := BitVec.ofNat 64 len }
            else t'.imageEnd core x (some len) 2

/-- The meaning of `ctxsv`: it issues, blocks or traps as a bundle of its own (`opCtxsv`). -/
def execCtxsv (q : Nat) (a : Nat) (b : Nat) (e : Nat) (y : Sync) (s : State) : Host.Outcome State Fault Refusal :=
  .next (issue [opCtxsv q a b e y] s)

/-- The meaning of `ctxsvUpad`: it issues, blocks or traps as a bundle of its own (`opCtxsvUpad`). -/
def execCtxsvUpad (q : Nat) (a : Nat) (b : Nat) (e : Nat) (y : Sync) (s : State) : Host.Outcome State Fault Refusal :=
  .next (issue [opCtxsvUpad q a b e y] s)

/-- The meaning of `ctxsvCpad`: it issues, blocks or traps as a bundle of its own (`opCtxsvCpad`). -/
def execCtxsvCpad (q : Nat) (a : Nat) (b : Nat) (e : Nat) (y : Sync) (s : State) : Host.Outcome State Fault Refusal :=
  .next (issue [opCtxsvCpad q a b e y] s)

/-- The meaning of `ctxld`: it issues, blocks or traps as a bundle of its own (`opCtxld`). -/
def execCtxld (q : Nat) (a : Nat) (b : Nat) (e : Nat) (y : Sync) (s : State) : Host.Outcome State Fault Refusal :=
  .next (issue [opCtxld q a b e y] s)

/-- The meaning of `ctxldUpad`: it issues, blocks or traps as a bundle of its own (`opCtxldUpad`). -/
def execCtxldUpad (q : Nat) (a : Nat) (b : Nat) (e : Nat) (y : Sync) (s : State) : Host.Outcome State Fault Refusal :=
  .next (issue [opCtxldUpad q a b e y] s)

/-- The meaning of `ctxldCpad`: it issues, blocks or traps as a bundle of its own (`opCtxldCpad`). -/
def execCtxldCpad (q : Nat) (a : Nat) (b : Nat) (e : Nat) (y : Sync) (s : State) : Host.Outcome State Fault Refusal :=
  .next (issue [opCtxldCpad q a b e y] s)


end Sys2Proof.Machine
end

