-- ==== Sys2Proof/Machine/System.lean ====
section
/-! DEFINITION. Control space written, events to the host, launches, resets, migration, start-up and attestation (R275 to
R277, R353 to R363). -/

namespace Sys2Proof.Machine

/-! ## Events (R357) -/

/-- A record of the layout of R357, its CYCLE still to come. -/
def eventRec (kind : Nat) (place : List Byte) (code a b task : Nat) : List Byte :=
  leBytes kind 2 ++ place ++ leBytes code 1 ++ zeros 1 ++ leBytes a 8 ++ leBytes b 8 ++ leBytes task 4 ++ zeros 4 ++ zeros 8 ++ zeros 24

/-- The remote commands of a task, as an XPUT.rel waits for them (R302). -/
def State.earlierRemote (s : State) (die task : Nat) : List Nat :=
  ((s.remotes die).filter fun x => x.done.of task).map (fun x => x.id) ++
    ((s.die die).outst.filter fun o => o.remoteOf task).map fun o => o.id

def opEvent (a b code : Nat) (y : Sync) : Op :=
  { Op.cmd .y y with
    ready := fun s => decide ((s.die (dieOf s.cur)).evQ.length < 16)
    effect := fun s =>
      let k := s.cur
      let die := dieOf k
      let place := leBytes die 1 ++ leBytes (clusOf k) 1 ++ leBytes (coreNo k) 1 ++ leBytes (ctxNo k) 1
      let r := eventRec 0x50 place code (s.me.s a).toNat (s.me.s b).toNat s.me.task
      let f := s.fresh
      let cmd : EvCmd := ⟨f.1, s.vdOf k, r, s.earlierRemote die s.me.task, s.done none y⟩
      (f.2.modDie die fun d => { d with evQ := d.evQ ++ [cmd] }).signalAccept y }

/-- Whether a remote command of a die has not completed remotely. -/
def State.remotePending (s : State) (die id : Nat) : Bool :=
  ((s.die die).outst.any fun o => o.id == id) || (s.remotes die).any fun x => x.id == id

/-- Whether the first event of a die's queue may be delivered now: nothing it is held by is pending, its ring has room or is
disabled, and the die is not halted, which keeps what it has not begun (R328). -/
def State.eventReady (s : State) (die : Nat) : Bool :=
  match (s.die die).evQ with
  | [] => false
  | e :: _ =>
    let slots := (s.reg die e.vd 0 0x58).toNat
    !(s.die die).halted && !e.after.any (s.remotePending die) &&
      (slots == 0 || ((s.reg die e.vd 0 0x60).toNat + 1) % slots != (s.reg die e.vd 0 0x68).toNat % slots)

/-- EVENT_DELIVER: the first event's record is put at EVHEAD of the host's ring, or discarded when the ring is disabled. -/
def stepEventDeliver (die : Nat) (s : State) : State :=
  match (s.die die).evQ with
  | [] => s
  | e :: l =>
    if s.eventReady die then
      let slots := (s.reg die e.vd 0 0x58).toNat
      let head := (s.reg die e.vd 0 0x60).toNat
      let base := s.reg die e.vd 0 0x50
      let rcd := e.record.take 32 ++ leBytes (s.cycle die) 8 ++ e.record.drop 40
      let s1 := s.modDie die fun d => { d with evQ := l }
      let s2 := if slots = 0 then s1
        else (s1.send (s.place die) (s.placeOf base) (.hostEvent (base.toNat + 64 * head) rcd)).setReg die e.vd 0 0x60
          (BitVec.ofNat 64 ((head + 1) % slots))
      s2.sigDone e.done
    else s

/-- A record of the die's own for a virtual device's ring. -/
def State.dieEvent (s : State) (die vd kind : Nat) : State :=
  let f := s.fresh
  f.2.modDie die fun d => { d with
    evQ := d.evQ ++ [⟨f.1, vd, eventRec kind (leBytes die 1 ++ [0xFF, 0xFF, 0xFF]) 0 0 0 0, [], .nobody⟩] }

/-! ## Launches (R359) -/

/-- A launch's slot, when the put covers exactly one. -/
def State.launchSlot (s : State) (die : Nat) (r : Req) : Option Nat :=
  let off := lowOf r.addr - lowOf (s.win die r.win).base
  if r.count = 256 ∧ off % 256 = 0 then some (off / 256) else none

/-- A launch that finds its put whole: R189's checks, then the task with DEP + 1 and the match entry of its slot. One of a
cancelled job is accepted and discarded at once (R200): it takes no record and waits for none (log entry 151). -/
def State.launchSlotRun (s : State) (die n slot : Nat) (r : Req) : State :=
  let vd := (s.win die r.win).vd
  let b := s.bound die vd boundMat
  let i := b.1 + slot
  let img := r.data.take 192
  let job := lnat img 148 4
  if b.2 ≤ i ∨ 512 ≤ i then s.reqEnd die n r 2 true
  else if (s.mat die i).armed then s.reqEnd die n r 4 false
  else if !s.jobRoom die job then s
  else
    match s.spawnCode die vd true img with
    | some code =>
      let s1 := if code = 5 then (s.partAdd die vd job 1).partAdd die vd job (-1) else s
      (s1.discAdd die vd job).reqEnd die n r 0 true
    | none =>
      match s.acceptTask die vd img 1 with
      | none => s
      | some (idx, s1) =>
        let t := taskId die (s1.trec die idx).gen idx
        let bytes := lnat r.data 192 4
        let s2 := if bytes = 0 then s1.decr t 1
          else s1.setMat die i ⟨true, lnat r.data 198 1, lnat r.data 196 2 % 4096, bytes, 0, .decr t⟩
        s2.reqEnd die n r 0 true

/-- Whether a request is a put to a launch window that the port's checks let pass in its turn. -/
def State.launchDue (s : State) (die n : Nat) (r : Req) : Bool :=
  let w := s.win die r.win
  s.isLaunch die r && r.prog.isNone && !(s.die die).halted && !s.shutVd die w.vd &&
    !(r.ordered && !s.lane die && decide (((s.die die).flowIn r).next < r.seq)) && !s.laneBusy die n r r.addr 1 &&
    (s.lane die || !s.flowBegun die r) &&
    (s.checkReq die r).isNone && (s.reqBad die w.vd r).isNone && (s.reqWalk die w.vd r).isNone

/-- LAUNCH: a put to the launch window. -/
def stepLaunch (n : Nat) (s : State) : State :=
  match s.reqAt n with
  | none => s
  | some (die, r) =>
    if s.launchDue die n r then
      match s.launchSlot die r with
      | some slot => s.launchSlotRun die n slot r
      | none => s.reqEnd die n r 2 true
    else s

/-! ## The channel table (R276, R277) -/

/-- Whether a descriptor keeps the rules of R276's table; VD names one of the four virtual devices (log entry 165). -/
def chanGood (w0 w1 w2 w3 : Word) : Bool :=
  let ty := bitsOf w0 23 16
  let sb := match Ty.ofCode ty with | some t => bitsOf w1 15 0 * t.bits / 8 | none => 0
  let odd := match Ty.ofCode ty with | some t => bitsOf w1 15 0 * t.bits % 8 | none => 0
  (bitsOf w0 7 0 == 1 || bitsOf w0 7 0 == 2) && decide (bitsOf w0 15 8 < 4) && ty != 15 && bitsOf w0 31 24 == 0 &&
    bitsOf w0 63 56 == 0 && decide (1 ≤ bitsOf w1 31 16) && decide (bitsOf w1 31 16 ≤ 256) && bitsOf w1 63 32 == 0 &&
    odd == 0 && sb % 64 == 0 && decide (64 ≤ sb) && decide (sb ≤ 65536) && w2.toNat % 64 == 0 && w3.getLsbD 8 &&
    bitsOf w3 15 9 == 0 && bitsOf w3 63 32 == 0

/-- The entry that a descriptor makes live. -/
def chanOfDesc (w0 w1 w2 w3 : Word) : Chan :=
  { Chan.reset with
    role := bitsOf w0 7 0, vd := bitsOf w0 15 8, ty := bitsOf w0 23 16, peer := bitsOf w0 47 32, peerch := bitsOf w0 55 48
    eps := bitsOf w1 15 0, depth := bitsOf w1 31 16, ring := w2, key := bitsOf w3 31 0
    permits := if bitsOf w0 7 0 = 1 then bitsOf w1 31 16 else 0 }

/-- CHANTAB_WRITE: a descriptor frees an entry, makes it live, or is refused and counted. -/
def stepChantabWrite (die n w0 w1 w2 w3 : Nat) (s : State) : State :=
  let v := fun x : Nat => BitVec.ofNat 64 x
  if bitsOf (v w0) 7 0 = 0 then s.setChan die n .reset
  else if (s.chan die n).role ≠ 0 ∨ chanGood (v w0) (v w1) (v w2) (v w3) = false then s.bumpDreg die 5 0x20 1
  else s.setChan die n (chanOfDesc (v w0) (v w1) (v w2) (v w3))

/-! ## Reset scopes (R358) -/

/-- RESET_CONTEXT. -/
def stepResetContext (die _vd target : Nat) (s : State) : State := s.kill (256 * die + target % 256) 2

/-- A core's rows, semaphores and SHADN zeroed (R98). -/
def State.zeroCore (s : State) (core : Nat) : State :=
  s.modCore core fun c => { c with rows := [], sems := [], semUpd := [], shadn := 0, shcount := 0, opnum := 0 }

/-- The bytes of a cluster's pads zeroed, their dirty bits as they are (log entry 94). -/
def State.clearCluster (s : State) (die cl : Nat) : State :=
  [0, 1, 2, 3].foldl (fun t co => t.zeroBytes (unitKey die cl co 0) (2 ^ 20)) (s.zeroBytes (clusKey die cl 0) (2 ^ 22))

/-- The pads of a cluster zeroed (R147). -/
def State.zeroCluster (s : State) (die cl : Nat) : State :=
  [0, 1, 2, 3].foldl (fun t co => t.zeroPad (unitKey die cl co 0) (2 ^ 20)) (s.zeroPad (clusKey die cl 0) (2 ^ 22))

/-- The cores and pads of a cluster zeroed. -/
def State.resetCluster (s : State) (die cl : Nat) : State :=
  ([0, 1, 2, 3].foldl (fun t co => t.zeroCore (64 * die + 4 * cl + co)) s).zeroCluster die cl

/-- A window entry that a reset frees: its generation advances (R243). -/
def Win.freed (w : Win) : Win := { Win.reset with gen := if w.live then nextGen w.gen else w.gen }

/-- The task records of a virtual device in use. -/
def State.recsOf (s : State) (die vd : Nat) : List Nat :=
  ((s.die die).recs.filter fun e => e.2.st != 0 && e.2.vd == vd).map fun e => e.1

/-- The hull pages of a virtual device freed at once, with its views and regions (R226). -/
def State.dropHull (s : State) (die vd : Nat) : State :=
  let s1 := s.modDie die fun d => { d with
    views := d.views.map fun e => (e.1, if e.2.vd = vd then { e.2 with live := false } else e.2)
    deltas := d.deltas.filter fun x => !(tget Region.reset d.regions x.region).vd == vd }
  let rs := (s1.die die).regions.filter fun e => e.2.live && e.2.vd == vd
  let s2 := rs.foldl (fun t e => (List.range e.2.granules).foldl (fun t g =>
    let r := t.region die e.1
    if r.live && !r.gone g then t.freeGranule die e.1 g else t) t) s1
  s2.modDie die fun d => { d with regions := d.regions.filter fun e => e.2.vd != vd }

/-- The place goes down to its peers of this package, and comes up again (R265, R358). -/
def State.peersDown (s : State) (die : Nat) : State :=
  (List.range 16).foldl (fun t d => if d = die then t else stepPlaceDown d (s.place die) t) s
def State.peersUp (s : State) (die : Nat) : State :=
  (List.range 16).foldl (fun t d => if d = die then t else stepPlaceUp d (s.place die) t) s

/-- The first of a place's requests in progress for a virtual device. -/
def State.begunAt (s : State) (die vd : Nat) : Option (Nat × Req) :=
  (List.range s.wire.length).findSome? fun n => match s.reqAt n with
    | some (d, r) => if d = die ∧ r.prog.isSome = true ∧ r.vd = vd then some (n, r) else none
    | none => none

/-- Requests in progress for a virtual device that is reset end with TARGET_DOWN, at most `n` of them. -/
def State.endBegun (s : State) (die vd : Nat) : Nat → State
  | 0 => s
  | n + 1 =>
    match s.begunAt die vd with
    | some (i, r) => (s.reqEnd die i r 5 false).endBegun die vd n
    | none => s

/-- A virtual device's running AGO stops with no further write, discarded (R352). -/
def State.stopAgo (s : State) (die vd : Nat) : State :=
  match (s.die die).apexRun with
  | none => s
  | some r =>
    if r.cmd.vd ≠ vd then s
    else
      let o := r.cmd.done
      (s.modCtx o.ctx fun c => if c.task = o.task then failHandles c [o] else c).modDie die fun d => { d with
        apexRun := none
        kills := d.kills.map fun x => if o.of x.task = true then { x with discarded := x.discarded + 1 } else x }

/-- The place comes up once no reset that makes it down is under way, and it has not fault-halted (R328, R358). -/
def State.placeBack (s : State) (die : Nat) : State := if s.staysDown (s.place die) then s else s.peersUp die

/-- A virtual device whose contexts have ended is reset: what it holds is freed, its pads are zero, and its event is queued. Their dirty bits stay: only the zeroings of R147 and
of a launch clear one (R170). -/
def State.resetVd (s : State) (die vd : Nat) : State :=
  let s1 := s.endBegun die vd s.wire.length
  let s2 := (s1.recsOf die vd).foldl (fun t i => t.endRec die i) s1
  let b := s.bound die vd boundMat
  let s3 := s2.modDie die fun d =>
    let mine := fun n : Nat => (tget Win.reset d.wins n).vd == vd
    { d with
      wins := d.wins.map (fun e => (e.1, if e.2.vd = vd then e.2.freed else e.2))
      lockQ := d.lockQ.filter fun x => !mine x.win
      chans := d.chans.filter fun e => e.2.vd != vd
      matches_ := d.matches_.filter fun e => !(decide (b.1 ≤ e.1) && decide (e.1 < b.2))
      jobs := d.jobs.filter fun j => j.vd != vd
      spawns := d.spawns.filter fun x => x.vd != vd
      apexQ := d.apexQ.filter fun x => x.vd != vd
      outq := d.outq.filter fun x => x.vd != vd
      permitWaits := d.permitWaits.filter fun x => (tget Chan.reset d.chans x.ch).vd != vd }
  let s4 := (s3.dropHull die vd).modDie die fun d => { d with deadVds := d.deadVds.filter fun x => x != vd }
  let s5 := ((List.range 16).filter fun c => (s.vdClus die vd).testBit c).foldl (fun t c => t.clearCluster die c) s4
  let s6 := { s5 with creg := tdel s5.creg (regKey die vd 0xFF 0) }
  (s6.dieEvent die vd 0x51).placeBack die

/-- The registers that the service processor sets at start-up and a die reset leaves: WRANGE and CRANGE. -/
def keptReg (key : Nat) : Bool :=
  let off := key % 65536
  let block := key / 65536 % 256
  key / 2 ^ 24 % 16 == dieWide && block == 2 && (off == 0x40 || off == 0x48)

/-- An address after a die's clusters are numbered densely from `keep`, or none when its slice is retired (R14). -/
def renumber (die : Nat) (keep : List Nat) (a : Nat) : Option Nat :=
  let lo := hbmKey die 0
  if a < lo ∨ lo + 2 ^ 36 ≤ a then some a
  else (keep.findIdx? (· == (a - lo) / 2 ^ 32)).map fun i => lo + i * 2 ^ 32 + (a - lo) % 2 ^ 32

/-- A cell of memory renumbered. -/
def renumberCell (die : Nat) (keep : List Nat) (c : Host.Cell) : Option Host.Cell :=
  (renumber die keep c.1).map fun a => (a, c.2)

/-- The frames of the hull range of a die (R227). -/
def State.hullFrames (s : State) (die : Nat) : List Nat :=
  let v := s.dreg die 3 0
  (List.range (bitsOf v 63 32 - bitsOf v 31 0)).map fun i => bitsOf v 31 0 + i

/-- HPRANGE set by the service processor: a range within the slices of the clusters that the die presents, or an empty one;
every frame of it is free (R227). -/
def State.giveHull (s : State) (die : Nat) : State :=
  let v : Word := BitVec.ofNat 64 (Config.choice s.free)
  let ok := decide (bitsOf v 63 32 ≤ 65536 * s.nclus die)
  let s1 := { s with free := s.free + 1 }.setDreg die 3 0 (if ok then v else 0)
  s1.modDie die fun d => { d with hfree := s1.hullFrames die }

/-- The clusters that a die keeps, by their old numbers: the service processor may have retired some (R14). -/
def State.keptClusters (s : State) (die : Nat) : List Nat :=
  let l := (List.range (s.nclus die)).filter fun c => !(Config.choice s.free).testBit c
  if l.isEmpty then List.range (s.nclus die) else l

/-- Retirement (R14): the clusters that a die keeps are numbered densely, and the slices of HBM, with their uncorrectable chunks, follow their numbers. -/
def State.retire (s : State) (die : Nat) : State :=
  let keep := s.keptClusters die
  { s with free := s.free + 1, mem := s.mem.filterMap (renumberCell die keep), bad := s.bad.filterMap (renumber die keep) }.modDie die fun d => { d with nclus := keep.length }

/-- A die after its reset: every table empty, every generation kept. -/
def Die.after (d : Die) (clock : Nat) : Die :=
  { Die.reset with
    cycle0 := clock, nclus := d.nclus, nextTok := d.nextTok, deltaSeq := d.deltaSeq, schedSeq := d.schedSeq
    views := d.views.map fun e => (e.1, { View.reset with gen := e.2.gen })
    wins := d.wins.map fun e => (e.1, e.2.freed)
    recs := d.recs.map fun e => (e.1, { Rec.reset with gen := e.2.gen, vd := e.2.vd }) }

/-- The event 0x0051 of each virtual device of a die that is reset, put at once where its ring has room, since the die's event
queue and the ring's registers go with the reset (log entry 124). -/
def State.resetEvents (s : State) (die : Nat) : State :=
  [0, 1, 2, 3].foldl (fun t vd =>
    let slots := (t.reg die vd 0 0x58).toNat
    let head := (t.reg die vd 0 0x60).toNat
    let base := t.reg die vd 0 0x50
    let rcd := eventRec 0x51 (leBytes die 1 ++ [0xFF, 0xFF, 0xFF]) 0 0 0 0
    if t.vdEn die vd && decide (slots ≠ 0) && (head + 1) % slots != (t.reg die vd 0 0x68).toNat % slots then
      t.send (t.place die) (t.placeOf base) (.hostEvent (base.toNat + 64 * head) (rcd.take 32 ++ leBytes (t.cycle die) 8 ++ rcd.drop 40))
    else t) s

/-- Whether a message goes with a die's reset: one of its own to itself, or a request that it had begun to perform. -/
def resetLoses (p : Nat) (m : Msg) : Bool :=
  m.dst == p && (m.src == p || match m.body with | .req r => r.prog.isSome | _ => false)

/-- A die reset: all of the die's state but memory in HBM, which follows the clusters' new numbers. -/
def State.resetDie (s : State) (die : Nat) : State :=
  let inDie := fun a : Nat => isPad a && a / 2 ^ 48 % 16 == die
  let s0 := s.resetEvents die
  let s1 := { s0 with
    ctxs := s0.ctxs.filter fun e => e.1 / 256 != die
    cores := s0.cores.filter fun e => e.1 / 64 != die
    creg := s0.creg.filter fun e => !(e.1 / 2 ^ 28 == die) || keptReg e.1
    mem := s0.mem.filter fun (c : Host.Cell) => !inDie c.1
    dirty := s0.dirty.filter fun e => !inDie (e.1 * 4096)
    bad := s0.bad.filter fun c => !inDie c
    wire := s0.wire.filter fun m => !resetLoses (s0.place die) m }
  (((s1.setDie die ((s1.die die).after s.clock)).retire die).giveHull die).peersUp die

/-! ### Resets under way -/

/-- Whether a reset's contexts have ended: no kill of one is under way. -/
def State.resetQuiet (s : State) (die : Nat) (x : ResetReq) : Bool :=
  (s.die die).kills.all fun k => !x.covers (coreOf k.ctx % 64) (s.ownerOf die (clusOf k.ctx))

/-- The end of a reset whose contexts have ended (R358 gives no order among its parts: log entry 95). -/
def State.resetEnd (s : State) (die : Nat) (x : ResetReq) : State :=
  match x.scope with
  | 1 => s.zeroCore (64 * die + x.target / 4 % 64)
  | 2 => s.resetCluster die (x.target / 16 % 16)
  | 3 => s.resetVd die x.vd
  | _ => s.resetDie die

/-- The resets of a die whose contexts have ended. -/
def State.resetsEnd (s : State) (die : Nat) : State :=
  (s.die die).resets.foldl (fun t x =>
    if (t.die die).resets.contains x && t.resetQuiet die x then
      (t.modDie die fun d => { d with resets := d.resets.erase x }).resetEnd die x
    else t) s

/-- A reset begun: its contexts are killed with reason 2, and it ends once they have ended. -/
def State.resetStart (s : State) (die : Nat) (x : ResetReq) : State :=
  let ks := (dieCtxs die).filter fun k => (s.ctx k).st != .free && x.covers (coreOf k % 64) (s.ownerOf die (clusOf k))
  ((s.killAll 2 ks).modDie die fun d => { d with resets := d.resets ++ [x] })

/-- RESET_CORE. -/
def stepResetCore (die vd target : Nat) (s : State) : State := (s.resetStart die ⟨1, vd, target⟩).resetsEnd die

/-- RESET_CLUSTER. -/
def stepResetCluster (die vd target : Nat) (s : State) : State := (s.resetStart die ⟨2, vd, target⟩).resetsEnd die

/-- RESET_VD: the place is down until it completes. -/
def stepResetVd (die vd : Nat) (s : State) : State :=
  (((s.peersDown die).resetStart die ⟨3, vd, 0⟩).stopAgo die vd).resetsEnd die

/-- RESET_DIE. -/
def stepResetDie (die vd : Nat) (s : State) : State :=
  ([0, 1, 2, 3].foldl (fun t v => t.stopAgo die v) ((s.peersDown die).resetStart die ⟨4, vd, 0⟩)).resetsEnd die

/-- RESET_PACKAGE: every die, and start-up from its first stage. -/
def stepResetPackage (s : State) : State :=
  let s1 := (List.range 16).foldl (fun t d => t.resetDie d) s
  { s1 with turn := [], wire := [], reduce := [], stage := 0, fail := 0, epid := 0xFFF }

/-! ## Migration (R360, R361) -/

/-- VDFREEZE. -/
def stepVdfreeze (die vd frz : Nat) (s : State) : State := s.setReg die vd 0 0x78 (BitVec.ofNat 64 (frz % 2))

/-- The not-started commands of the saved images of a virtual device's tasks, by record. -/
def State.savedCommands (s : State) (die vd : Nat) : List (Nat × List Byte) :=
  (s.die die).recs.filterMap fun e =>
    match e.2.at_ with
    | .saved a =>
      if e.2.st = 0 ∨ e.2.vd ≠ vd then none
      else
        match (s.areadN die vd (BitVec.ofNat 64 a) 64 .none (some 4096)).1 with
        | .bytes h _ =>
          let off := 2176 + 304 * lnat h 32 2
          (match (s.areadN die vd (BitVec.ofNat 64 (a + off)) (48 * lnat h 34 2) .none (some 4096)).1 with
           | .bytes l _ => some (e.1, l)
           | _ => none)
        | _ => none
    | _ => none

/-- What VDEXPORT takes of a virtual device. -/
def State.vdImage (s : State) (die vd : Nat) : VdImage :=
  let d := s.die die
  let b := s.bound die vd boundMat
  { die := die
    recs := d.recs.filter fun e => e.2.st != 0 && e.2.vd == vd
    jobs := d.jobs.filter fun j => j.vd == vd
    wins := d.wins.filter fun e => e.2.live && e.2.vd == vd
    chans := d.chans.filter fun e => e.2.role != 0 && e.2.vd == vd
    matches_ := d.matches_.filter fun e => e.2.armed && decide (b.1 ≤ e.1) && decide (e.1 < b.2)
    views := d.views.filter fun e => e.2.live && e.2.vd == vd
    regions := d.regions.filter fun e => e.2.live && e.2.vd == vd
    notStarted := s.savedCommands die vd }

/-- VDEXPORT: a state image, in bytes whose layout is free, is written to the die pad. The exported task records are the
image's from then on (R361: a decrement that names this die is dropped). -/
def stepVdexport (die vd off : Nat) (s : State) : State :=
  if !s.frozenVd die vd || !(s.ctxsOfVd die vd).isEmpty then s
  else
    let img := s.vdImage die vd
    let bytes := (Config.imageBytes s.free).take (2 ^ 25 - off % 2 ^ 25)
    let s1 := { s with free := s.free + 1, exported := (bytes, img) :: s.exported }.write (dieKey die (off % 2 ^ 25)) bytes
    (img.recs.map fun e => e.1).foldl (fun t i => t.freeRec die i) s1

/-- Whether a virtual device of a die holds nothing. -/
def State.vdEmpty (s : State) (die vd : Nat) : Bool :=
  let i := s.vdImage die vd
  i.recs.isEmpty && i.jobs.isEmpty && i.wins.isEmpty && i.chans.isEmpty && i.matches_.isEmpty && i.views.isEmpty && i.regions.isEmpty

/-- Whether every part of an image takes its index within the target's bounds. -/
def State.imageTakes (s : State) (die vd : Nat) (i : VdImage) : Bool :=
  let d := s.die die
  let inB := fun (off n : Nat) => decide ((s.bound die vd off).1 ≤ n) && decide (n < (s.bound die vd off).2)
  (i.recs.all fun e => inB boundRec e.1 && (s.trec die e.1).st == 0) &&
    (i.wins.all fun e => inB boundWin e.1 && !(s.win die e.1).live) &&
    (i.chans.all fun e => inB boundCh e.1 && (s.chan die e.1).role == 0) &&
    (i.matches_.all fun e => inB boundMat e.1 && !(s.mat die e.1).armed) &&
    (i.views.all fun e => !(s.view die e.1).live) && (i.regions.all fun e => !(s.region die e.1).live) &&
    decide (d.jobs.length + i.jobs.length ≤ 256) && i.jobs.all fun j => (s.job die j.num).isNone

/-- A saved image's address on a new die. -/
def TaskAt.onDie (die : Nat) : TaskAt → TaskAt
  | .saved a => .saved (a / 2 ^ 52 * 2 ^ 52 + die * 2 ^ 48 + a % 2 ^ 48)
  | x => x

/-- A home address in a pad or the HBM of one die at the same place of another. -/
def keyOn (die key : Nat) : Nat := if key / 2 ^ 52 = 0xFFF then key / 2 ^ 52 * 2 ^ 52 + die * 2 ^ 48 + key % 2 ^ 48 else key

/-- Entries put into a table. -/
def tputs {α : Type} (t : Tbl α) (l : Tbl α) : Tbl α := l.foldl (fun t e => tput t e.1 e.2) t

/-- A holder of a lock that is a task of an image, by its place and TASKID on the new die (R361); any other stays. -/
def VdImage.holder (i : VdImage) (old new : Nat) (h : Nat × Nat) : Nat × Nat :=
  if h.1 = old ∧ i.recs.any (fun e => e.1 == taskIdx h.2 && e.2.gen == taskGen h.2) = true then (new, taskOn (new % 16) h.2) else h

/-- The die with an image's parts. -/
def Die.import (d : Die) (epid die vd : Nat) (i : VdImage) : Die :=
  { d with
    recs := tputs d.recs (i.recs.map fun e => (e.1, { e.2 with
      vd := vd, at_ := e.2.at_.onDie die, armed := e.2.armed.map (keyOn die), origin := some (e.2.origin.getD i.die), vwSeq := 0 }))
    jobs := d.jobs ++ i.jobs.map fun j => { j with vd := vd }
    wins := tputs d.wins (i.wins.map fun e => (e.1, { e.2 with
      vd := vd, holders := e.2.holders.map (i.holder (16 * epid + i.die) (16 * epid + die)) }))
    chans := tputs d.chans (i.chans.map fun e => (e.1, { e.2 with vd := vd }))
    matches_ := tputs d.matches_ (i.matches_.map fun e =>
      (e.1, { e.2 with act := match e.2.act with | .decr t => .decr (taskOn die t) | x => x }))
    views := tputs d.views (i.views.map fun e => (e.1, { e.2 with vd := vd }))
    regions := tputs d.regions (i.regions.map fun e => (e.1, { e.2 with vd := vd })) }

/-- VDIMPORT: an image that VDEXPORT made is loaded into an empty virtual device; one of which a part does not fit is
refused with 4 in its first byte. -/
def stepVdimport (die vd off : Nat) (s : State) : State :=
  let key := dieKey die (off % 2 ^ 25)
  match s.exported.find? fun e => s.read key e.1.length == e.1 with
  | none => s
  | some (_, i) =>
    if !s.vdEmpty die vd then s
    else if s.imageTakes die vd i then s.modDie die fun d => d.import s.epid die vd i
    else s.write key [4]

/-! ## Attestation (R363) -/

/-- ATTGO: a quote is begun; with no leaf left it is refused with SPSTAT.FAIL 0x80. -/
def stepAttgo (die : Nat) (s : State) : State :=
  if (s.die die).quote then s
  else if s.attleft = 0 then { s with fail := 0x80 }
  else (s.modDie die fun d => { d with quote := true }).setDreg die 0 0x128 1

/-- `n` big-endian bytes of a number. -/
def beBytes (v n : Nat) : List Byte := (leBytes v n).reverse

/-- The 4 KiB of a quote. -/
def State.quoteBytes (s : State) (die : Nat) : List Byte :=
  let leaf := 2 ^ 20 - s.attleft
  let nonce := ([0x108, 0x110, 0x118, 0x120].map fun o => word8 (s.dreg die 0 o)).flatten
  let head := nonce ++ leBytes Config.measurement 32 ++ beBytes leaf 8
  head ++ [0, 0, 0, 1] ++ leBytes (Config.signature 0 leaf head) 2960 ++ zeros 1060

/-- ATTEST_QUOTE_DONE: the quote is written into the buffer, and its leaf is used; the last leaves but 4096 are announced. -/
def stepAttestQuoteDone (die : Nat) (s : State) : State :=
  if (s.die die).quote && decide (0 < s.attleft) then
    let off := (s.dreg die 0 0x138).toNat % 2 ^ 25
    let s1 := s.write (dieKey die off) (s.quoteBytes die)
    let s2 : State := { (s1.modDie die fun d => { d with quote := false }).setDreg die 0 0x128 0 with attleft := s.attleft - 1 }
    if s2.attleft = 4095 then
      s2.send (s.place die) outside (.hostEvent 0 ((eventRec 0x53 (leBytes die 1 ++ [0xFF, 0xFF, 0xFF]) 0 0 0 0).take 32 ++
        leBytes (s.cycle die) 8 ++ zeros 24))
    else s2
  else s

/-! ## Start-up (R362) -/

/-- The frames of the warm and the cold tier of the package in 64 KiB units: 2 TiB and 16 TiB (R2). -/
def tierUnits (off : Nat) : Nat := if off = 0x40 then 2 ^ 25 else 2 ^ 28

/-- A die's WRANGE or CRANGE set by the service processor: a range of the tier that meets no other die's, or an empty one
(R216). -/
def State.giveRange (s : State) (die off : Nat) : State :=
  let v : Word := BitVec.ofNat 64 (Config.choice s.free)
  let lo := bitsOf v 31 0
  let hi := bitsOf v 63 32
  let meets := fun d : Nat =>
    let w := s.dreg d 2 off
    d != die && overlaps lo (hi - lo) (bitsOf w 31 0) (bitsOf w 63 32 - bitsOf w 31 0)
  let ok := decide (hi ≤ tierUnits off) && !(List.range 16).any meets
  { s with free := s.free + 1 }.setDreg die 2 off (if ok then v else 0)

/-- What the service processor sets of a die at stage 3: its frame ranges and its hull range (R216, R227). -/
def State.giveMemory (s : State) (die : Nat) : State := ((s.giveRange die 0x40).giveRange die 0x48).giveHull die

/-- A die's frame ranges taken back before start-up gives them anew. -/
def State.clearRanges (s : State) (die : Nat) : State := (s.setDreg die 2 0x40 0).setDreg die 2 0x48 0

/-- What a stage leaves when it succeeds: retirement, the ranges of the tiers and the hull, and then the endpoint number, the
switches' groups, and lane order at an end. -/
def State.stageDone (s : State) (n : Nat) : State :=
  let dies := List.range 16
  let draw := s.free
  if n = 2 then dies.foldl (fun t d => t.retire d) s
  else if n = 3 then dies.foldl (fun t d => t.giveMemory d) (dies.foldl (fun t d => t.clearRanges d) s)
  else if n = 4 then
    dies.foldl (fun t d => t.setDreg d 5 0 0)
      { s with epid := Config.choice draw % 0xFFF, free := draw + 1,
               rgroups := Config.redGroups.foldl (fun t e => tput t e.1 e.2) [] }
  else s

/-- POWER_ON: the service processor runs the next stage of start-up. Any stage may fail, and the package then stays in
service-only state; the code 0x80 is ATTGO's (R363; log entry 123). -/
def stepPowerOn (s : State) : State :=
  if s.fail ≠ 0 ∨ 5 ≤ s.stage then s
  else
    let n := s.stage + 1
    let c := Config.choice s.free
    let s1 := { s with free := s.free + 1, stage := n }
    if c % 256 ≠ 0 ∧ c % 256 ≠ 0x80 ∧ c / 256 % 2 = 1 then { s1 with fail := c % 256 } else s1.stageDone n

/-! ## Register writes (R353 to R355) -/

/-- Whether two bounds that grant something share an index. -/
def boundsMeet (x y : Nat × Nat) : Bool := decide (x.1 < x.2) && decide (y.1 < y.2) && decide (x.1 < y.2) && decide (y.1 < x.2)

/-- Whether a bound's new value overlaps another virtual device's. -/
def State.boundTaken (s : State) (die vd off : Nat) (v : Word) : Bool :=
  [0, 1, 2, 3].any fun x => x != vd && boundsMeet (bitsOf v 31 0, bitsOf v 63 32) (s.bound die x off)

/-- Whether a virtual device holds a live view. -/
def State.vdViews (s : State) (die vd : Nat) : Bool := (s.die die).views.any fun e => e.2.live && e.2.vd == vd

/-- A write of RESET: its scope judged (R358). Scopes 6 and 7 are ignored (log entry 164). -/
def State.resetWrite (s : State) (die vd v : Nat) : State :=
  let scope := v / 256 % 8
  let target := v % 256
  let owns := (s.vdClus die vd).testBit (target / 16)
  if owns = false then s
  else
    match scope with
    | 0 => stepResetContext die vd target s
    | 1 => stepResetCore die vd target s
    | 2 => stepResetCluster die vd target s
    | 3 => stepResetVd die vd s
    | 4 => if s.vdAdm die vd then stepResetDie die vd s else s
    | 5 => if s.vdAdm die vd then stepResetPackage s else s
    | _ => s

/-- The pads that a virtual device owns zeroed at its launch (R170): those of its clusters, and its part of the die pad. -/
def State.launchPads (s : State) (die vd : Nat) : State :=
  let b := s.bound die vd boundDp
  let s1 := ((List.range 16).filter fun c => (s.vdClus die vd).testBit c).foldl (fun t c => t.zeroCluster die c) s
  s1.zeroPad (dieKey die (65536 * b.1)) (65536 * (min b.2 512 - b.1))

/-- A write of a register of a virtual device's copy. -/
def State.vdWrite (s : State) (die vd block off : Nat) (r : RegInfo) (v : Word) : State :=
  let put := s.setReg die vd block off (v &&& r.bits)
  match block, off with
  | 0, 0x00 => if !s.vdEn die vd && v.getLsbD 0 then put.launchPads die vd else put
  | 0, 0x08 => if s.vdEn die vd then s else put
  | 0, 0x18 | 0, 0x20 | 0, 0x28 | 0, 0x30 | 0, 0x38 | 0, 0x40 => if s.boundTaken die vd off v then s else put
  | 0, 0x60 => s
  | 0, 0x78 => stepVdfreeze die vd v.toNat s
  | 0, 0x80 => stepVdexport die vd (v &&& r.bits).toNat s
  | 0, 0x88 => stepVdimport die vd (v &&& r.bits).toNat s
  | 0, 0x90 => s.resetWrite die vd v.toNat
  | 2, 0x08 => stepTrgWrite die vd 0 v.toNat s
  | 2, 0x10 => stepTrgWrite die vd 1 v.toNat s
  | 3, 0x00 | 3, 0x08 => if s.vdViews die vd then s else put
  | 3, 0x18 | 6, 0x08 => s
  | _, _ => put

/-- Whether a live window of a die uses the group that an offset of the group table belongs to: the group then changes only at
a reset (R245). -/
def State.groupUsed (s : State) (die off : Nat) : Bool :=
  let g := if off < 0xA28 then (off - 0x828) / 8 else (off - 0xA28) / 512
  decide (0x828 ≤ off) && decide (off < 0x8A28) && (s.die die).wins.any fun e => e.2.live && e.2.group == g

/-- A write of a die-wide register. A write to an RO field is ignored, but for FABMODE: its LANE is the service processor's, no
supervisor's write reaches it (`isRo`), and it puts the whole fabric in lane order or ends it (R272; log entry 142). -/
def State.dieWrite (s : State) (die block off : Nat) (r : RegInfo) (v : Word) : State :=
  let put := s.setDreg die block off (v &&& r.bits)
  match block, off with
  | 0, 0x128 => if v.getLsbD 0 then stepAttgo die s else s
  | 2, 0x00 => stepFltreplay die (v &&& r.bits).toNat s
  | 2, 0x08 => stepFrpush die v.toNat s
  | 2, 0x28 | 2, 0x30 | 2, 0x38 => put.poolCheck die
  | 5, 0x00 => (List.range 16).foldl (fun t d => t.setDreg d 5 0 (v &&& r.bits)) s
  | 5, 0x28 => stepChaudit die (v &&& r.bits).toNat s
  | 7, 0x10 => stepFqtail die (v &&& r.bits).toNat s
  | 4, _ =>
    if s.groupUsed die off then s
    else if r.acc = .w1c then s.setDreg die block off (s.dreg die block off &&& ~~~(v &&& r.bits))
    else if r.acc = .ro then s else put
  | _, _ =>
    match r.acc with
    | .ro => s
    | .w1c => s.setDreg die block off (s.dreg die block off &&& ~~~(v &&& r.bits))
    | _ => put

/-- REGISTER_WRITE: a write of eight bytes to a register by a supervisor, the service processor or the host's management
endpoint. CHANTAB takes 32 bytes at a time (`stepChantabWrite`). -/
def stepRegisterWrite (die copy block off v : Nat) (s : State) : State :=
  let w := BitVec.ofNat 64 v
  if (copy < 4 ∧ block = 0xFF) ∨ (copy = dieWide ∧ block = 5 ∧ 0xC000 ≤ off) then s
  else
    match regInfo copy block off with
    | none => s
    | some r => if copy < 4 then s.vdWrite die copy block off r w else s.dieWrite die block off r w

/-- The meaning of `event`: it issues, blocks or traps as a bundle of its own (`opEvent`). -/
def execEvent (a : Nat) (b : Nat) (code : Nat) (y : Sync) (s : State) : Host.Outcome State Fault Refusal :=
  .next (issue [opEvent a b code y] s)

/-- The meaning of `eventDeliver`: the step `stepEventDeliver` on the operands that the state holds. -/
def execEventDeliver (s : State) : Host.Outcome State Fault Refusal :=
  .next (stepEventDeliver (s.arg 0) s)

/-- The meaning of `launch`: the step `stepLaunch` on the operands that the state holds. -/
def execLaunch (s : State) : Host.Outcome State Fault Refusal :=
  .next (stepLaunch (s.arg 0) s)

/-- The meaning of `resetContext`: the step `stepResetContext` on the operands that the state holds. -/
def execResetContext (s : State) : Host.Outcome State Fault Refusal :=
  .next (stepResetContext (s.arg 0) (s.arg 1) (s.arg 2) s)

/-- The meaning of `resetCore`: the step `stepResetCore` on the operands that the state holds. -/
def execResetCore (s : State) : Host.Outcome State Fault Refusal :=
  .next (stepResetCore (s.arg 0) (s.arg 1) (s.arg 2) s)

/-- The meaning of `resetCluster`: the step `stepResetCluster` on the operands that the state holds. -/
def execResetCluster (s : State) : Host.Outcome State Fault Refusal :=
  .next (stepResetCluster (s.arg 0) (s.arg 1) (s.arg 2) s)

/-- The meaning of `resetVd`: the step `stepResetVd` on the operands that the state holds. -/
def execResetVd (s : State) : Host.Outcome State Fault Refusal :=
  .next (stepResetVd (s.arg 0) (s.arg 1) s)

/-- The meaning of `resetDie`: the step `stepResetDie` on the operands that the state holds. -/
def execResetDie (s : State) : Host.Outcome State Fault Refusal :=
  .next (stepResetDie (s.arg 0) (s.arg 1) s)

/-- The meaning of `resetPackage`: the step `stepResetPackage` on the operands that the state holds. -/
def execResetPackage (s : State) : Host.Outcome State Fault Refusal :=
  .next (stepResetPackage s)

/-- The meaning of `chantabWrite`: the step `stepChantabWrite` on the operands that the state holds. -/
def execChantabWrite (s : State) : Host.Outcome State Fault Refusal :=
  .next (stepChantabWrite (s.arg 0) (s.arg 1) (s.arg 2) (s.arg 3) (s.arg 4) (s.arg 5) s)

/-- The meaning of `vdfreeze`: the step `stepVdfreeze` on the operands that the state holds. -/
def execVdfreeze (s : State) : Host.Outcome State Fault Refusal :=
  .next (stepVdfreeze (s.arg 0) (s.arg 1) (s.arg 2) s)

/-- The meaning of `vdexport`: the step `stepVdexport` on the operands that the state holds. -/
def execVdexport (s : State) : Host.Outcome State Fault Refusal :=
  .next (stepVdexport (s.arg 0) (s.arg 1) (s.arg 2) s)

/-- The meaning of `vdimport`: the step `stepVdimport` on the operands that the state holds. -/
def execVdimport (s : State) : Host.Outcome State Fault Refusal :=
  .next (stepVdimport (s.arg 0) (s.arg 1) (s.arg 2) s)

/-- The meaning of `attgo`: the step `stepAttgo` on the operands that the state holds. -/
def execAttgo (s : State) : Host.Outcome State Fault Refusal :=
  .next (stepAttgo (s.arg 0) s)

/-- The meaning of `attestQuoteDone`: the step `stepAttestQuoteDone` on the operands that the state holds. -/
def execAttestQuoteDone (s : State) : Host.Outcome State Fault Refusal :=
  .next (stepAttestQuoteDone (s.arg 0) s)

/-- The meaning of `powerOn`: the step `stepPowerOn` on the operands that the state holds. -/
def execPowerOn (s : State) : Host.Outcome State Fault Refusal :=
  .next (stepPowerOn s)

/-- The meaning of `registerWrite`: the step `stepRegisterWrite` on the operands that the state holds. -/
def execRegisterWrite (s : State) : Host.Outcome State Fault Refusal :=
  .next (stepRegisterWrite (s.arg 0) (s.arg 1) (s.arg 2) (s.arg 3) (s.arg 4) s)


end Sys2Proof.Machine
end

