-- ==== Sys2Proof/Machine/Late.lean ====
section
/-! DEFINITION. The freeze line's late accesses (R78, R146), the write of results (R75) and aging (R73). -/

namespace Sys2Proof.Machine

/-- A late Y-slot instruction that reads `n` bytes at the address in register `a`: its loads go on, and once they are all made
it runs when the tables have room for what it does. -/
def Late.readOn (x : Late) (a n : Nat) (ahead : List Nat) (room : List Byte → Bool) (run : List Byte → State → State) (s : State) :
    Option Late × State :=
  let r := s.readGo (lateRd x s) x.ctx ahead x.touch x.got
  let l := memBytes r.1.2 (lsKey ((lateRd x s).c.s a)) n
  if r.1.1.isEmpty && room l then (none, run l r.2)
  else (some { x with passed := latePassed { x with touch := r.1.1 } s, touch := r.1.1, got := r.1.2 }, r.2)

/-- A late access in a cycle: what is left of it, and the state after what could be performed. `ahead` are the banks that the
late accesses before it still wait for (R146, R296). One that reads memory shows its context another's work (R299). A late spawn whose image, as it is then read, needs a record or a
job entry when none is free stays late until one is (log entry 133), and a WCREATE likewise until a delta can be queued. A vector
operation waits for the matrix operations accepted before its bundle (R78, R99). -/
def lateStep (x : Late) (ahead : List Nat) (s : State) : Option Late × State :=
  let rd := lateRd x s
  let stay := (some { x with passed := latePassed x s }, s)
  match x.op with
  | .tspawn c a y => x.readOn a 192 ahead (fun l => spawnRoom false l x.ctx s) (spawnRun false c 0 y rd x.ctx) s
  | .tspawnR c a b y => x.readOn a 192 ahead (fun l => spawnRoom true l x.ctx s) (spawnRun true c b y rd x.ctx) s
  | .wcreate w c a y =>
    x.readOn a 32 ahead (fun l => s.deltaRoom (dieOf x.ctx) || !s.descHull x.ctx (descOf l)) (wcreateRun w c y rd x.ctx) s
  | _ =>
    match vopOf x.op, mopOf x.op with
    | some v, _ => if v.reads.any fun n => s.rowUnder x.ctx ((s.ctx x.ctx).vbase + n) x.mark then stay
      else (none, v.perform x.slot rd x.ctx x.mark s)
    | none, some m =>
      let r := m.go rd x.ctx ahead x.touch x.got s
      let t := if m.reads && r.1.isNone then r.2.modCtx x.ctx fun c => { c with synced := s.clock } else r.2
      (r.1.map fun p => { x with passed := latePassed { x with touch := p.1 } s, touch := p.1, got := p.2 }, t)
    | none, none => (none, s)

/-- The late accesses of a core, each performed as far as it can be, in order. -/
def lateWalk (core : Nat) (ahead : List Nat) : List Late → State → State
  | [], s => s
  | x :: l, s =>
    match lateStep x ahead s with
    | (none, t) => lateWalk core ahead l t
    | (some y, t) => (lateWalk core (ahead ++ banksOf y.touch) l t).modCore core fun c => { c with late := y :: c.late }

/-- LATE_ACCESS_PERFORM: the accesses of a frozen core that can be performed are, and the row writes that waited for a matrix
operation. -/
def stepLateAccessPerform (core : Nat) (s : State) : State :=
  (ctxsOf core).foldl (fun t k => t.landRows k)
    (lateWalk core [] (s.core core).late (s.modCore core fun c => { c with late := [] }))

/-- RESULT_WRITEBACK (R75): the end of an unfrozen cycle for a context's results. -/
def stepResultWriteback (k : Nat) (s : State) : State := s.writeback k

/-- AGING_DUE (R73): a context whose count has reached 256 is due. -/
def stepAgingDue (k : Nat) (s : State) : State :=
  s.modCtx k fun c => if 256 ≤ c.aging then { c with due := true } else c

/-- The meaning of `resultWriteback`: the step `stepResultWriteback` on the operands that the state holds. -/
def execResultWriteback (s : State) : Host.Outcome State Fault Refusal :=
  .next (stepResultWriteback (s.arg 0) s)

/-- The meaning of `lateAccessPerform`: the step `stepLateAccessPerform` on the operands that the state holds. -/
def execLateAccessPerform (s : State) : Host.Outcome State Fault Refusal :=
  .next (stepLateAccessPerform (s.arg 0) s)

/-- The meaning of `agingDue`: the step `stepAgingDue` on the operands that the state holds. -/
def execAgingDue (s : State) : Host.Outcome State Fault Refusal :=
  .next (stepAgingDue (s.arg 0) s)


end Sys2Proof.Machine
end

