-- ==== Sys2Proof/Machine/Bundle.lean ====
section
/-! DEFINITION. Bundles: what each instruction asks of its slot, the decode checks in R45's order, whether a context's next
bundle is blocked (R74), and how issuing it moves the context on (R28, R89, R90). -/

namespace Sys2Proof.Machine

/-- What an instruction asks of its slot and does there. An event stands in no slot. -/
def opOf : Instr → Op
  | .add d a b g => opAdd d a b g
  | .sub d a b g => opSub d a b g
  | .mul d a b g => opMul d a b g
  | .mulh d a b g => opMulh d a b g
  | .mulhn d a b g => opMulhn d a b g
  | .div d a b g => opDiv d a b g
  | .divn d a b g => opDivn d a b g
  | .rem d a b g => opRem d a b g
  | .remn d a b g => opRemn d a b g
  | .and d a b g => opAnd d a b g
  | .or d a b g => opOr d a b g
  | .xor d a b g => opXor d a b g
  | .shl d a b g => opShl d a b g
  | .shr d a b g => opShr d a b g
  | .sra d a b g => opSra d a b g
  | .min d a b g => opMin d a b g
  | .minn d a b g => opMinn d a b g
  | .max d a b g => opMax d a b g
  | .maxn d a b g => opMaxn d a b g
  | .addsh d a b n g => opAddsh d a b n g
  | .sel d a b g => opSel d a b g
  | .clz d a g => opClz d a g
  | .popc d a g => opPopc d a g
  | .sext d a w g => opSext d a w g
  | .zext d a w g => opZext d a w g
  | .cmpeq d a b g => opCmpeq d a b g
  | .cmpne d a b g => opCmpne d a b g
  | .cmplt d a b g => opCmplt d a b g
  | .cmple d a b g => opCmple d a b g
  | .cmpltn d a b g => opCmpltn d a b g
  | .cmplen d a b g => opCmplen d a b g
  | .addi d a imm => opAddi d a imm
  | .andi d a imm => opAndi d a imm
  | .ori d a imm => opOri d a imm
  | .xori d a imm => opXori d a imm
  | .shli d a n => opShli d a n
  | .shri d a n => opShri d a n
  | .srai d a n => opSrai d a n
  | .cmpeqi d a imm => opCmpeqi d a imm
  | .cmplti d a imm => opCmplti d a imm
  | .cmpltni d a imm => opCmpltni d a imm
  | .sethi d imm => opSethi d imm
  | .kand d a b g => opKand d a b g
  | .kandn d a b g => opKandn d a b g
  | .kor d a b g => opKor d a b g
  | .kxor d a b g => opKxor d a b g
  | .knot d a g => opKnot d a g
  | .kmov d a g => opKmov d a g
  | .kmovB d sr g => opKmovB d sr g
  | .kmovLo d sr g => opKmovLo d sr g
  | .krd sr a q g => opKrd sr a q g
  | .kfirst sr a g => opKfirst sr a g
  | .br g off => opBr g off
  | .jmp g off => opJmp g off
  | .jr a g => opJr a g
  | .call g off => opCall g off
  | .callr d a g => opCallr d a g
  | .ret a g => opRet a g
  | .loop lc n fin => opLoop lc n fin
  | .lbrk g off => opLbrk g off
  | .mfs d n => opMfs d n
  | .mts a n => opMts a n
  | .trapi code => opTrapi code
  | .tfence g => opTfence g
  | .eret => opEret
  | .nop e sp => opNop e sp
  | .vadd t d a b g m => opVadd t d a b g m
  | .vsub t d a b g m => opVsub t d a b g m
  | .vmul t d a b g m => opVmul t d a b g m
  | .vfma t d a b g m => opVfma t d a b g m
  | .vfms t d a b g m => opVfms t d a b g m
  | .vmin t d a b g m => opVmin t d a b g m
  | .vmax t d a b g m => opVmax t d a b g m
  | .vabs t d a g m => opVabs t d a g m
  | .vneg t d a g m => opVneg t d a g m
  | .vdot4 t d a b g m => opVdot4 t d a b g m
  | .vdot2 t d a b g m => opVdot2 t d a b g m
  | .vand t d a b g => opVand t d a b g
  | .vor t d a b g => opVor t d a b g
  | .vxor t d a b g => opVxor t d a b g
  | .vnot t d a g => opVnot t d a g
  | .vshl t d a b g => opVshl t d a b g
  | .vshlImm t d a n g => opVshlImm t d a n g
  | .vshr t d a b g => opVshr t d a b g
  | .vshrImm t d a n g => opVshrImm t d a n g
  | .vsra t d a b g => opVsra t d a b g
  | .vsraImm t d a n g => opVsraImm t d a n g
  | .vcmpeq t kd a b g => opVcmpeq t kd a b g
  | .vcmpne t kd a b g => opVcmpne t kd a b g
  | .vcmplt t kd a b g => opVcmplt t kd a b g
  | .vcmple t kd a b g => opVcmple t kd a b g
  | .vsel t d a b g => opVsel t d a b g
  | .vmov t d a g => opVmov t d a g
  | .vbcast t d a c g => opVbcast t d a c g
  | .vbcastScalar t d sa g => opVbcastScalar t d sa g
  | .vlaneInsert t d sa c g => opVlaneInsert t d sa c g
  | .vlaneExtract t sd a c g => opVlaneExtract t sd a c g
  | .vperm t d a b g m => opVperm t d a b g m
  | .vrot t d a c g m => opVrot t d a c g m
  | .vcvt dt st mode p d a g m => opVcvt dt st mode p d a g m
  | .vscl t d a b g => opVscl t d a b g
  | .vredadd t d a g m => opVredadd t d a g m
  | .vredmax t d a g m => opVredmax t d a g m
  | .vredmin t d a g m => opVredmin t d a g m
  | .vscan t d a ex g m => opVscan t d a ex g m
  | .vcnt t d a g => opVcnt t d a g
  | .vcntLz t d a g => opVcntLz t d a g
  | .vtop2 t d a g => opVtop2 t d a g
  | .vquant t d a p g => opVquant t d a p g
  | .vquantScale t d a p g => opVquantScale t d a p g
  | .vdeq t d a b g => opVdeq t d a b g
  | .vcor t f n d a g => opVcor t f n d a g
  | .mcfg f sr y => opMcfg f sr y
  | .mcfgi f imm y => opMcfgi f imm y
  | .mma tile src e acc y => opMma tile src e acc y
  | .mmas tile src e acc y => opMmas tile src e acc y
  | .mmac tile src e acc y => opMmac tile src e acc y
  | .mzero tile y => opMzero tile y
  | .mrestart off y => opMrestart off y
  | .mrestartOff y => opMrestartOff y
  | .mkeep mask y => opMkeep mask y
  | .mdrop mask y => opMdrop mask y
  | .mfmt src e sr y => opMfmt src e sr y
  | .mshad y => opMshad y
  | .ld t d x => opLd t d x
  | .ldv t d x => opLdv t d x
  | .ldvh t hi d x => opLdvh t hi d x
  | .ldk d x => opLdk d x
  | .ldg t d vx x => opLdg t d vx x
  | .st t d x => opSt t d x
  | .stv t d x => opStv t d x
  | .stvh t hi d x => opStvh t hi d x
  | .stk d x => opStk d x
  | .sts t d vx x => opSts t d vx x
  | .aadd t d x => opAadd t d x
  | .amin t d x => opAmin t d x
  | .amax t d x => opAmax t d x
  | .aand t d x => opAand t d x
  | .aor t d x => opAor t d x
  | .axch t d x => opAxch t d x
  | .acas t d x => opAcas t d x
  | .afadd t d x => opAfadd t d x
  | .fenceAcq scope => opFenceAcq scope
  | .fenceRel scope => opFenceRel scope
  | .fenceAr scope => opFenceAr scope
  | .tmov a b c e x => opTmov a b c e x
  | .tmov2 a b c e x => opTmov2 a b c e x
  | .tmcast a b c e mask x => opTmcast a b c e mask x
  | .tgath a b c e x => opTgath a b c e x
  | .tscat a b c e x => opTscat a b c e x
  | .tfill a b c e x => opTfill a b c e x
  | .camo op t a b c e x => opCamo op t a b c e x
  | .qjoin mask y => opQjoin mask y
  | .migr a b c tier hnd y => opMigr a b c tier hnd y
  | .tlbinv a b y => opTlbinv a b y
  | .tlbinvAll y => opTlbinvAll y
  | .dirty a b c y => opDirty a b c y
  | .dirtyKeep a b c y => opDirtyKeep a b c y
  | .semadd n gl c imm y => opSemadd n gl c imm y
  | .semset n gl c y => opSemset n gl c y
  | .semwait n gl c imm y => opSemwait n gl c imm y
  | .semrd n gl c y => opSemrd n gl c y
  | .barinit a b y => opBarinit a b y
  | .bararr a b imm y => opBararr a b imm y
  | .barexp a b y => opBarexp a b y
  | .barwait a b y => opBarwait a b y
  | .barwaitT a b c y => opBarwaitT a b c y
  | .hwaitL h y => opHwaitL h y
  | .hwaitR h y => opHwaitR h y
  | .hstat h c sel y => opHstat h c sel y
  | .hrel h y => opHrel h y
  | .tspawn c a y => opTspawn c a y
  | .tspawnR c a b y => opTspawnR c a b y
  | .tdep a imm y => opTdep a imm y
  | .tsuspL h a b y => opTsuspL h a b y
  | .tsuspR h a b y => opTsuspR h a b y
  | .tsuspM c a b y => opTsuspM c a b y
  | .texit y => opTexit y
  | .tmatch a b c y => opTmatch a b c y
  | .tmatchS a b c y => opTmatchS a b c y
  | .tcancel a y => opTcancel a y
  | .tjobq c a y => opTjobq c a y
  | .vwnew c b y => opVwnew c b y
  | .vwdup c a b y => opVwdup c a b y
  | .vwnar a b y => opVwnar a b y
  | .vwdrop a y => opVwdrop a y
  | .vwq c a sel y => opVwq c a sel y
  | .vwsync y => opVwsync y
  | .wcreate w c a y => opWcreate w c a y
  | .wfree w y => opWfree w y
  | .wfence w c y => opWfence w c y
  | .wfenceClose w c y => opWfenceClose w c y
  | .wpost w c y => opWpost w c y
  | .wstart w c y => opWstart w c y
  | .wcompl w c y => opWcompl w c y
  | .wwait w c y => opWwait w c y
  | .wlockSh w c y => opWlockSh w c y
  | .wlockEx w c y => opWlockEx w c y
  | .wunlock w c y => opWunlock w c y
  | .xget a b c e x => opXget a b c e x
  | .xput a b c e tag x => opXput a b c e tag x
  | .xputRel a b c e tag x => opXputRel a b c e tag x
  | .xacc op t a b c e tag x => opXacc op t a b c e tag x
  | .xamo op t a b c e x => opXamo op t a b c e x
  | .flowcfg a b y => opFlowcfg a b y
  | .csend q a b x => opCsend q a b x
  | .crecv c a y => opCrecv c a y
  | .cret c a y => opCret c a y
  | .xred op t a b c tag x => opXred op t a b c tag x
  | .preempt a c y => opPreempt a c y
  | .preemptSelf y => opPreemptSelf y
  | .ctxsv q a b e y => opCtxsv q a b e y
  | .ctxsvUpad q a b e y => opCtxsvUpad q a b e y
  | .ctxsvCpad q a b e y => opCtxsvCpad q a b e y
  | .ctxld q a b e y => opCtxld q a b e y
  | .ctxldUpad q a b e y => opCtxldUpad q a b e y
  | .ctxldCpad q a b e y => opCtxldCpad q a b e y
  | .acfg f a y => opAcfg f a y
  | .ago a b hnd y => opAgo a b hnd y
  | .aq c sel y => opAq c sel y
  | .event a b code y => opEvent a b code y
  | .shadnWrite => Op.idle
  | .resultWriteback => Op.idle
  | .lateAccessPerform => Op.idle
  | .agingDue => Op.idle
  | .matrixStart => Op.idle
  | .matrixComplete => Op.idle
  | .shadowRecord => Op.idle
  | .copyComplete => Op.idle
  | .pageWalk => Op.idle
  | .fltreplay => Op.idle
  | .frpush => Op.idle
  | .trgWrite => Op.idle
  | .migrationMove => Op.idle
  | .rcntDecay => Op.idle
  | .barrierUpdate => Op.idle
  | .barrierAutoPhase => Op.idle
  | .remoteSpawnArrival => Op.idle
  | .spawnAckArrival => Op.idle
  | .tdepArrival => Op.idle
  | .cancelArrival => Op.idle
  | .tjobqAnswer => Op.idle
  | .jobJoinNotice => Op.idle
  | .jobWave => Op.idle
  | .jobDoneNotice => Op.idle
  | .taskDispatch => Op.idle
  | .taskPriorityRise => Op.idle
  | .chordDeltaApply => Op.idle
  | .fenceAnnounce => Op.idle
  | .wfenceComplete => Op.idle
  | .postArrival => Op.idle
  | .completeArrival => Op.idle
  | .lockRequestArrival => Op.idle
  | .lockReleaseArrival => Op.idle
  | .lockGrantArrival => Op.idle
  | .lockRetry => Op.idle
  | .remoteRequest => Op.idle
  | .remoteAck => Op.idle
  | .getDataLand => Op.idle
  | .flowRetry => Op.idle
  | .portArbitration => Op.idle
  | .vdcapWindow => Op.idle
  | .placeDown => Op.idle
  | .placeUp => Op.idle
  | .csendSend => Op.idle
  | .cretPermitSend => Op.idle
  | .permitArrival => Op.idle
  | .chanStall => Op.idle
  | .chaudit => Op.idle
  | .auditMark => Op.idle
  | .auditBack => Op.idle
  | .auditTimeout => Op.idle
  | .reduceResultArrival => Op.idle
  | .reduceTimeout => Op.idle
  | .reduceKeyAbort => Op.idle
  | .preemptStop => Op.idle
  | .preemptTimeoutKill => Op.idle
  | .killFinish => Op.idle
  | .machineCheck => Op.idle
  | .faultRecordDrain => Op.idle
  | .fqtail => Op.idle
  | .apexStart => Op.idle
  | .apexEnd => Op.idle
  | .eventDeliver => Op.idle
  | .launch => Op.idle
  | .resetContext => Op.idle
  | .resetCore => Op.idle
  | .resetCluster => Op.idle
  | .resetVd => Op.idle
  | .resetDie => Op.idle
  | .resetPackage => Op.idle
  | .chantabWrite => Op.idle
  | .vdfreeze => Op.idle
  | .vdexport => Op.idle
  | .vdimport => Op.idle
  | .attgo => Op.idle
  | .attestQuoteDone => Op.idle
  | .powerOn => Op.idle
  | .registerWrite => Op.idle
  | .releaseAcknowledgement => Op.idle

/-- An operation in a slot of a bundle: VA and VB tell which of them acts by the slot. -/
def Op.inSlot (o : Op) (sl : Slot) : Op :=
  { o with
    slot := sl
    range := fun s => o.range { s with slot := sl }
    ready := fun s => o.ready { s with slot := sl }
    addr := fun s => o.addr { s with slot := sl }
    effect := fun s => o.effect { s with slot := sl }
    probe := fun s => o.probe { s with slot := sl } }

/-- The cause of a word that is no operation. -/
def rejectCause : Reject → Cause
  | .illegalOpcode => .illegalOpcode
  | .illegalBundle => .illegalBundle
  | .illegalType => .illegalType
  | .regRange => .regRange

/-- A decoded slot as an operation: what does not decode traps in its slot. -/
def slotOp (e : Slot × Dec) : Op :=
  match e.2 with
  | .ok i => (opOf i).inSlot e.1
  | .error r => Op.bad e.1 (rejectCause r)

/-- The operations of the bundle at `pc`: its slots, or the idle bundles of an empty mask. -/
def State.opsAt (s : State) (d : Nat) (pc : Word) : List Op :=
  if (s.hdr d pc.toNat).mask = 0 then [slotOp (.hdr, decodeHdr (s.fetchNat d pc.toNat 4))] else (s.slotsAt d pc).map slotOp

/-- The opcodes of the control transfers (R29). -/
def isTransfer (w : Nat) : Bool := let op := w / 2 ^ 25 % 128; (decide (0x40 ≤ op) && decide (op ≤ 0x47)) || op == 0x52 || op == 0x54

/-- Whether the bundle at `pc` holds a control transfer: the X slot stands first. -/
def State.hasTransfer (s : State) (d : Nat) (pc : Word) : Bool :=
  (s.hdr d pc.toNat).mask.testBit 7 && isTransfer (s.fetchNat d (pc.toNat + 4) 4)

/-- The first two checks of R45: the header with its CT bit (R29), then R30. -/
def State.headTrap (s : State) (d : Nat) (pc : Word) : Option Trap :=
  let h := s.hdr d pc.toNat
  if h.rsv ≠ 0 ∨ h.ct ≠ s.hasTransfer d pc then some (Slot.hdr.trap .illegalBundle 0 0)
  else if h.ct && s.delayFault d pc then some ⟨.delaySlot, 0xFF, 0, 0⟩
  else none

/-- The trap of an end bundle that has CT set or is a delay bundle, when it would issue with its loop active (R90). -/
def Ctx.endTrap (c : Ctx) (ct : Bool) : Option Trap :=
  if (ct || c.xfer.isSome) && ((c.lc0.la && c.lc0.le == c.pc) || (c.lc1.la && c.lc1.le == c.pc)) then
    some ⟨.delaySlot, 0xFF, 0, 0⟩
  else none

/-- Whether the bundle after an acquire load waits for its destination (R301, R326). -/
def Ctx.acqBlock (c : Ctx) : Bool :=
  c.inflight.any (fun r => r.acq) || (!c.sup && c.latches.any fun r => r.acq)

/-- A context seen as the acting one. -/
def State.at_ (s : State) (k : Nat) : State := { s with cur := k, mark := s.bids }

/-- What a context's next bundle comes to in a cycle: it does not compete, is blocked, traps, or can issue. -/
inductive Judge where
  | out | blocked | trap (t : Trap) | ready
  deriving DecidableEq, Repr

/-- The decode checks of a header's bundle and whether it is blocked. What fails R45's steps 1 to 4 traps even while its waits
do not pass; the address checks come once nothing blocks the bundle (log entry 132). R45 does not place R90's trap of a loop's end bundle,
which comes when the bundle would issue: here it comes after what blocks the bundle and before the address checks (log
entry 107). -/
def State.judgeHdr (s : State) (k : Nat) : Judge :=
  let c := s.ctx k
  let t := s.at_ k
  match s.headTrap (dieOf k) c.pc with
  | some x => .trap x
  | none =>
    let ops := s.opsAt (dieOf k) c.pc
    match decodeTrap ops t with
    | some x => .trap x
    | none =>
      if c.acqBlock || !unblocked ops t then .blocked
      else
        match c.endTrap (s.hdr (dieOf k) c.pc.toNat).ct with
        | some x => .trap x
        | none =>
          match addrTrap ops t with
          | some x => .trap x
          | none => .ready

/-- R71, with R28's idle bundles: one of them has nothing to check or wait for but an acquire load. -/
def State.judge (s : State) (k : Nat) : Judge :=
  let c := s.ctx k
  if c.st != .running || c.held.isSome || (s.die (dieOf k)).halted then .out
  else if 0 < c.idle then (if c.acqBlock then .blocked else .ready)
  else s.judgeHdr k

/-- Whether a context competes for issue. -/
def Judge.eligible : Judge → Bool
  | .ready => true
  | .trap _ => true
  | _ => false

/-! ## Moving on after an issue (R28, R89, R90) -/

/-- The delay bundles left of a transfer after one bundle has issued. -/
def Xfer.tick (x : Xfer) : Xfer := { x with delay := x.delay - 1 }

/-- What takes effect once a bundle has issued with its idle bundles: a transfer whose delay bundles have issued, or the
end of a loop body. TRAPI and ERET wait for the end of the cycle, when their last delay bundle's writes of that cycle are
made (`State.handOver`). A loop counter counts down here, so an MTS to it in the loop's own end bundle, which is written at
the end of the cycle (R77), stands (log entry 106). -/
def State.settle (s : State) (k : Nat) : State :=
  let c := s.ctx k
  if c.idle ≠ 0 then s
  else
    match c.xfer with
    | none => s.setCtx k (c.loopBack c.lastPc c.pc)
    | some x =>
      if x.delay ≠ 0 then s
      else
        let s1 := s.setCtx k { c with xfer := none }
        match x.kind with
        | .jump t => s1.setCtx k { c with xfer := none, pc := t }
        | .fall => s1
        | .trapi _ _ => s
        | .eret => s

/-- A TRAPI or an ERET whose delay bundles have issued, at the end of that cycle (R93, R95), or of the cycle in which their
late accesses have been performed: the context enters its handler, or goes on at TRAPPC. -/
def State.handOver (s : State) (k : Nat) : State :=
  if (s.ctx k).idle ≠ 0 ∨ s.hasLate k = true then s
  else
    match (s.ctx k).xfer with
    | some ⟨.trapi code link, 0⟩ => s.trapEntry k link (Slot.x.trap .trapi code 0)
    | some ⟨.eret, 0⟩ => s.trapReturn k
    | _ => s

/-- Whether a context goes on after its bundle: a kill has stopped it for good. -/
def CtxSt.goesOn : CtxSt → Bool
  | .dying _ => false
  | .free => false
  | _ => true

/-- A context after an idle bundle. -/
def Ctx.afterIdle (c : Ctx) : Ctx :=
  { c with idle := c.idle - 1, xfer := c.xfer.map Xfer.tick, aging := 0, due := false }

/-- A context after the bundle at its pc, with the header `h`; `old` is the transfer that was under way before it. -/
def Ctx.afterHdr (c : Ctx) (h : Hdr) (next : Word) (old : Option Xfer) : Ctx :=
  { c with
    lastPc := c.pc
    pc := next
    idle := if h.mask = 0 then c.idle else h.e
    xfer := match old with | some x => some x.tick | none => c.xfer
    aging := 0
    due := false
    stall := 0 }

/-- The waits of R298 that an issue passes, but for the semaphores'. -/
def isWait : Instr → Bool
  | .barwait _ _ _ | .hwaitL _ _ | .hwaitR _ _ | .hrel _ _ | .crecv _ _ _ | .wwait _ _ _ | .wlockSh _ _ _
  | .wlockEx _ _ _ | .tjobq _ _ _ | .vwsync _ => true
  | _ => false

/-- Whether a slot can show context `c` another's work: it reads memory or passes a wait (R298, R299). -/
def learns (c : Ctx) (e : Slot × Dec) : Bool :=
  e.1 == .l || (e.1 == .s && !((slotOp e).dests c).isEmpty) || (match e.2 with | .ok i => isWait i | .error _ => false)

/-- The clock of a context's bundle when it passes a wait or reads memory. -/
def State.syncedAt (s : State) (k : Nat) : Nat :=
  let c := s.ctx k
  let d := dieOf k
  if (s.slotsAt d c.pc).any (learns c) || !(bundleWaits (s.opsAt d c.pc) c).isEmpty then s.clock else c.synced

/-- The updates that a context's bundle sends are marked with what the context knows when it issues (R298). -/
def State.markUpds (s : State) (k : Nat) : State :=
  let new := fun u : BarUpd => u.src == k && u.at_ == s.clock
  if (s.die (dieOf k)).barQ.any new then
    s.modDie (dieOf k) fun d => { d with barQ := d.barQ.map fun u => if new u then { u with seen := (s.ctx k).synced } else u }
  else s

/-- Whether a context's bundle passes a wait of R298 as it issues. -/
def State.passesWait (s : State) (k : Nat) : Bool :=
  let c := s.ctx k
  !(bundleWaits (s.opsAt (dieOf k) c.pc) c).isEmpty ||
    (s.slotsAt (dieOf k) c.pc).any fun e => match e.2 with | .ok i => isWait i | .error _ => false

/-- The matrix operation that a context's bundle has put into a slot sees what the waits that the bundle has passed were for:
the writes before it in this cycle (R298). `s0` is the state before it. -/
def State.markMat (s s0 : State) (k : Nat) : State :=
  let c := s.core (coreOf k)
  let new := fun m : MatOp => m.ctx == k && decide (s0.bids ≤ m.id)
  let mark := fun m : MatOp =>
    if new m then { m with sees := (s.clock, (s0.writes.filter fun w => m.inPad w.1 w.2.length).length) } else m
  if (c.act.any new || c.pend.any new) && s0.passesWait k then
    s.setCore (coreOf k) { c with act := c.act.map mark, pend := c.pend.map mark }
  else s

/-- The acting context moved past the bundle it has just issued; `s0` is the state before. -/
def State.advance (s s0 : State) (k : Nat) : State :=
  let c0 := s0.ctx k
  let c := s.ctx k
  if !c.st.goesOn then s
  else if 0 < c0.idle then (s.setCtx k c.afterIdle).settle k
  else
    (((s.setCtx k { c.afterHdr (s0.hdr (dieOf k) c0.pc.toNat) (s0.after (dieOf k) c0.pc) c0.xfer with
      synced := s0.syncedAt k }).markUpds k).markMat s0 k).settle k

end Sys2Proof.Machine
end

