-- ==== Sys2Proof/Machine/Restore.lean ====
section
/-! DEFINITION. CTXLD of a context (R338), the stop at a safe point (R334), and what the copy engine does for a queue in a
cycle, image commands among it (R161, R337). -/

namespace Sys2Proof.Machine

/-! ## An image parsed (R335) -/

def imgHeaderBad (h : List Byte) : Bool :=
  lnat h 0 2 != 0x40 || lnat h 2 2 != 1 || lnat h 21 1 != 0 || lnat h 38 10 != 0 || lnat h 56 8 != 0

/-- The registers, loops and special values of an image. -/
def imgWord (l : List Byte) (off : Nat) : Word := BitVec.ofNat 64 (lnat l off 8)
def imgLoop (l : List Byte) (off : Nat) : LoopSt :=
  ⟨imgWord l off, imgWord l (off + 8), imgWord l (off + 16), (imgWord l (off + 24)).getLsbD 0⟩

/-- A latch of an image, on a context whose rows begin at `vb`: its slot is not in the image. -/
def imgLatch (l : List Byte) (vb : Nat) : Option Result :=
  let n := lnat l 2 2
  let dest : Option Dest := match lnat l 0 1 with
    | 1 => if n < 64 then some (.sreg n) else none
    | 2 => if n < 12 then some (.kreg n) else none
    | 3 => some (.row (vb + n))
    | _ => none
  if lnat l 1 1 ≠ 0 ∨ lnat l 6 10 ≠ 0 then none
  else dest.map fun d => ⟨d, BitVec.ofNat 2048 (lnat l 48 256), BitVec.ofNat 256 (lnat l 16 32),
    BitVec.ofNat 7 (lnat l 5 1), lnat l 4 1, .hdr, false⟩

/-- `n` latches from the front of a list. -/
def imgLatches (vb : Nat) : Nat → List Byte → Option (List Result)
  | 0, _ => some []
  | n + 1, l =>
    match imgLatch (l.take 304) vb with
    | none => none
    | some r => (imgLatches vb n (l.drop 304)).map fun x => r :: x

/-- A not-started command: its queue, its operation, its words' values. -/
structure NotStarted where
  q : Nat
  op : Instr
  a : Word
  b : Word
  c : Word
  e : Word

/-- An entry of 48 bytes, when its word decodes. -/
def notStarted (l : List Byte) : Option NotStarted :=
  let w := lnat l 4 12
  let kind := lnat l 1 1
  let dec : Dec :=
    if kind = 7 then decodeC w
    else if w / 2 ^ 64 ≠ 0 then .error .illegalBundle
    else if kind = 4 then decodeM w
    else if kind = 8 then decodeY w
    else .error .illegalBundle
  if lnat l 2 2 ≠ 0 then none
  else
    match dec with
    | .ok i => some ⟨lnat l 0 1, i, imgWord l 16, imgWord l 24, imgWord l 32, imgWord l 40⟩
    | .error _ => none

def notStarteds : Nat → List Byte → Option (List NotStarted)
  | 0, _ => some []
  | n + 1, l =>
    match notStarted (l.take 48) with
    | none => none
    | some x => (notStarteds n (l.drop 48)).map fun y => x :: y

/-- The zero fields of the sections. -/
def imgZeros (l : List Byte) : Bool :=
  lnat l (1664 + 2 * lnat l 22 2) (512 - 2 * lnat l 22 2) == 0 && lnat l 64 8 == 0 && lnat l 1136 16 == 0 && lnat l 1248 32 == 0 &&
    (List.range 16).all fun h => lnat l (1280 + 24 * h + 13) 3 == 0

/-- The kept tiles of an image on `rows` tiles: their four region records each, to the end of the list. -/
def imgTiles (rows : Nat) (keep : Nat) (l : List Byte) : Option (List (Nat × List Byte)) :=
  let tiles := (List.range 16).filter fun t => keep.testBit t
  match decodeRecs 80 l with
  | none => none
  | some recs =>
    let want := (tiles.map fun _ => [0, 1, 2, 3]).flatten
    if recs.map (fun e => e.1) = want ∧ tiles.all (fun t => decide (t < rows)) = true then
      some ((List.range recs.length).map fun i => (4 * tiles.getD (i / 4) 0 + i % 4, (recs.getD i (0, [])).2))
    else none

/-! ## The load (R338) -/

/-- The shadow set of an image. -/
def imgShadow (l : List Byte) : Shadow :=
  let w := fun i => BitVec.ofNat 32 (lnat l (1216 + 4 * i) 4)
  ⟨w 0, w 1, w 2, w 3, w 4, w 5, w 6, BitVec.ofNat 16 (lnat l 1244 2), BitVec.ofNat 16 (lnat l 1246 2)⟩

/-- The context that an image describes, with rows from `vb` and semaphores from `sb`. -/
def imgCtx (l : List Byte) (vb sb : Nat) (latches : List Result) : Ctx :=
  let st := lnat l 16 1
  let sp := fun i => imgWord l (1024 + 8 * i)
  let rl := sp 12
  let info := sp 6
  let label := if rl.getLsbD 0 then some (rl &&& ~~~1#64) else none
  { Ctx.reset with
    st := .running, task := lnat l 8 4, job := lnat l 12 4
    pc := if st = 2 then sp 5 else if st = 0 then (match label with | some a => a | none => imgWord l 24) else imgWord l 24
    sregs := (List.range 63).foldl (fun t i => tput t (i + 1) (imgWord l (64 + 8 * (i + 1)))) []
    kregs := (List.range 11).foldl (fun t i => tput t (i + 1) (BitVec.ofNat 256 (lnat l (576 + 32 * (i + 1)) 32))) []
    lc0 := imgLoop l 960, lc1 := imgLoop l 992
    flags := BitVec.ofNat 7 (lnat l 1024 8), trapen := BitVec.ofNat 7 (lnat l 1032 8), srseed := sp 2
    wcur := some (sp 3).toNat, ord := BitVec.ofNat 16 (lnat l 1056 8), trappc := sp 5
    cause := bitsOf info 7 0, tslot := bitsOf info 15 8, detail := bitsOf info 28 16, trapaddr := sp 7
    sscr := (List.range 4).foldl (fun t i => tput t i (sp (8 + i))) []
    rlabel := label, mshad := (sp 13).getLsbD 0
    fmt := (List.range 16).foldl (fun t i => tput t i (BitVec.ofNat 32 (lnat l (1152 + 4 * i) 4))) []
    sh := imgShadow l, keep := BitVec.ofNat 16 (lnat l 36 2)
    hnd := (List.range 16).foldl (fun t h => tput t h (Handle.ofBytes ((l.drop (1280 + 24 * h)).take 24))) []
    vbase := vb, vlim := vb + 64 * lnat l 20 1, sbase := sb, slim := sb + lnat l 22 2
    latches := latches, resuming := true }

/-- The core's rows and semaphores of a restored context: rows outside the kept tiles read zero (R98). -/
def Core.restore (c : Core) (l : List Byte) (vb sb : Nat) (tiles : List (Nat × List Byte)) : Core :=
  let rows0 := c.rows.filter fun e => !(decide (vb ≤ e.1) && decide (e.1 < vb + 64 * lnat l 20 1))
  let rows := tiles.foldl (fun t e => (List.range 16).foldl (fun t i =>
    tput t (vb + 16 * e.1 + i) (BitVec.ofNat 2048 (leNat ((e.2.drop (256 * i)).take 256)))) t) rows0
  { c with
    rows := rows
    sems := (List.range (lnat l 22 2)).foldl (fun t n => tput t (sb + n) (lnat l (1664 + 2 * n) 2)) (clearSems c.sems sb (lnat l 22 2)) }

/-- A sync pair whose signal at acceptance has been given. -/
def accepted (y : Sync) : Sync := if y.spt then y else { y with sinc := 0, ssem := 0 }

/-- A command as its image enters it: accepted before. -/
def acceptedOp : Instr → Instr
  | .mma t f e a y => .mma t f e a (accepted y)
  | .mmas t f e a y => .mmas t f e a (accepted y)
  | .mmac t f e a y => .mmac t f e a (accepted y)
  | .mzero t y => .mzero t (accepted y)
  | .tmov a b c e x => .tmov a b c e { x with y := accepted x.y }
  | .tmov2 a b c e x => .tmov2 a b c e { x with y := accepted x.y }
  | .tmcast a b c e m x => .tmcast a b c e m { x with y := accepted x.y }
  | .tgath a b c e x => .tgath a b c e { x with y := accepted x.y }
  | .tscat a b c e x => .tscat a b c e { x with y := accepted x.y }
  | .tfill a b c e x => .tfill a b c e { x with y := accepted x.y }
  | .camo op t a b c e x => .camo op t a b c e { x with y := accepted x.y }
  | .qjoin m y => .qjoin m (accepted y)
  | .migr a b c t h y => .migr a b c t h (accepted y)
  | .xget a b c e x => .xget a b c e { x with y := accepted x.y }
  | .xput a b c e t x => .xput a b c e t { x with y := accepted x.y }
  | .xputRel a b c e t x => .xputRel a b c e t { x with y := accepted x.y }
  | .xacc op t a b c e g x => .xacc op t a b c e g { x with y := accepted x.y }
  | .xamo op t a b c e x => .xamo op t a b c e { x with y := accepted x.y }
  | .xred op t a b c g x => .xred op t a b c g { x with y := accepted x.y }
  | .csend q a b x => .csend q a b { x with y := accepted x.y }
  | .ctxsv q a b e y => .ctxsv q a b e (accepted y)
  | .ctxsvUpad q a b e y => .ctxsvUpad q a b e (accepted y)
  | .ctxsvCpad q a b e y => .ctxsvCpad q a b e (accepted y)
  | .ctxld q a b e y => .ctxld q a b e (accepted y)
  | .ctxldUpad q a b e y => .ctxldUpad q a b e (accepted y)
  | .ctxldCpad q a b e y => .ctxldCpad q a b e (accepted y)
  | .ago a b h y => .ago a b h (accepted y)
  | .event a b n y => .event a b n (accepted y)
  | i => i

/-- The registers that hold the values of a, b, c and e of a not-started command, and its barrier register. -/
def commandRegs : Instr → List Nat × Nat
  | .tmov a b c e x | .tmov2 a b c e x | .tgath a b c e x | .tscat a b c e x | .tfill a b c e x => ([a, b, c, e], x.bar)
  | .tmcast a b c e _ x => ([a, b, c, e], x.bar)
  | .camo _ _ a b c e x => ([a, b, c, e], x.bar)
  | .xget a b c e _ | .xput a b c e _ _ | .xputRel a b c e _ _ | .xamo _ _ a b c e _ => ([a, b, c, e], 0)
  | .xacc _ _ a b c e _ _ => ([a, b, c, e], 0)
  | .xred _ _ a b c _ _ => ([a, b, c], 0)
  | .migr a b c _ _ _ => ([a, b, c], 0)
  | .csend _ a b _ | .ago a b _ _ | .event a b _ _ => ([a, b], 0)
  | .ctxsv _ a b e _ | .ctxsvUpad _ a b e _ | .ctxsvCpad _ a b e _ | .ctxld _ a b e _ | .ctxldUpad _ a b e _
  | .ctxldCpad _ a b e _ => ([a, b, 0, e], 0)
  | _ => ([], 0)

/-- A not-started command entered in its queue for a context: its registers hold the image's values as it is entered, a
barrier's address, which the image does not hold, is free, and what its acceptance counted is not counted again. -/
def State.enter (s : State) (k : Nat) (x : NotStarted) : State :=
  let c := s.ctx k
  let r := commandRegs x.op
  let vals := (r.1.zip [x.a, x.b, x.c, x.e])
  let d := s.draw
  let regs := vals.foldl (fun t e => tput t e.1 e.2)
    (if r.2 = 0 then c.sregs else tput c.sregs r.2 (BitVec.ofNat 64 (Config.choice d.1)))
  let s1 := { (d.2.setCtx k { c with sregs := regs }) with cur := k }
  let s2 := (opOf (acceptedOp x.op)).effect s1
  { (s2.modCtx k fun y => { y with sregs := c.sregs, inflight := c.inflight }) with cur := s.cur }

/-- The port's outstanding completions of a task redirected to a context, whose own requests wait for the earlier ones `old`
(R267). -/
def State.redirect (s : State) (k task : Nat) (old : List Nat) : State :=
  let moved := fun (d : Done) => if d.task = task then { d with ctx := k } else d
  (s.modDie (dieOf k) fun d => { d with outst := d.outst.map fun o => { o with done := moved o.done } }).modCtx k
    fun c => { c with before := old }

/-- A TOPOLOGY_MISMATCH record (R329). -/
def topoRec (k img clmap owned task cyc : Nat) : List Byte :=
  faultRec 0x34 (dieOf k) (clusOf k) (coreNo k) (ctxNo k) 3 0 img task cyc (leBytes clmap 2 ++ leBytes owned 2)

/-- Whether an image's TASKID names a record of the die: one made here, or one imported from the die that the number names
(R338, R360). -/
def State.taskHere (s : State) (die task : Nat) : Bool :=
  s.taskLive (taskOn die task) && (taskDie task == die || (s.trec die (taskIdx task)).origin == some (taskDie task))

/-- The checks that come before an image is loaded: the status of the first that fails. -/
def State.loadCode (s : State) (die : Nat) (x : CopyCmd) (h : List Byte) : Option Nat :=
  let task := lnat h 8 4
  if imgHeaderBad h then some 2
  else if s.imageFits die x (lnat h 4 4) = false then some 6
  else if s.taskHere die task = false ∨ (s.trec die (taskIdx task)).st ≠ 3 then some 5
  else none

/-- The clusters of CLMAP that the die does not present or the virtual device does not own. -/
def State.clmapBad (s : State) (die vd clmap : Nat) : Bool :=
  (List.range 16).any fun c => clmap.testBit c && !s.ownsClus die vd c

/-- The sections loaded onto runs of rows and semaphores; a refused image leaves the context free. -/
def State.loadSections (s : State) (core k : Nat) (x : CopyCmd) (l : List Byte) (vb sb : Nat) : State :=
  let len := lnat l 4 4
  let nl := lnat l 32 2
  let nn := lnat l 34 2
  let body := l.drop 2176
  let parts := match imgLatches vb nl body, notStarteds nn (body.drop (304 * nl)),
      imgTiles (lnat l 20 1) (lnat l 36 2) (body.drop (304 * nl + 48 * nn)) with
    | some a, some b, some c => some (a, b, c)
    | _, _, _ => none
  if l.length < 2176 + 304 * nl + 48 * nn ∨ imgZeros l = false then s.imageEnd core x (some len) 2
  else
    match parts with
    | none => s.imageEnd core x (some len) 2
    | some (latches, cmds, tiles) =>
      let c := { imgCtx l vb sb latches with task := taskOn (dieOf k) (lnat l 8 4), synced := s.clock,
                                              vwSeq := (s.trec (dieOf k) (taskIdx (lnat l 8 4))).vwSeq }
      let s1 := (s.setCtx k c).modCore (coreOf k) fun y => y.restore l vb sb tiles
      let s2 := cmds.foldl (fun t y => t.enter k y) s1
      let idx := taskIdx c.task
      let s3 := (s2.redirect k c.task (s.requestsOf (dieOf k) c.task)).setRec (dieOf k) idx { s2.trec (dieOf k) idx with at_ := .onCtx k }
      s3.imageEnd core x (some len) 0

/-- CTXLD of a context. -/
def State.loadCtx (s : State) (core q : Nat) (x : CopyCmd) : State :=
  let die := core / 64
  let k := 256 * die + x.a.toNat % 256
  if (s.ctx k).st ≠ .free then s.imageEnd core x none 1
  else
    match s.imageRead core q x 64 with
    | .stay t => t
    | .bytes h t =>
      let len := lnat h 4 4
      match t.loadCode die x h with
      | some st => t.imageEnd core x (some len) st
      | none =>
        let clmap := lnat h 18 2
        if t.clmapBad die x.vd clmap then
          (t.nonFatal die (topoRec k x.b.toNat clmap (t.vdClus die x.vd) (lnat h 8 4) (t.cycle die))).imageEnd core x (some len) 3
        else
          match t.rowRun (coreOf k) (lnat h 20 1), t.semRun (coreOf k) (lnat h 22 2) with
          | some vb, some sb =>
            (match t.imageRead core q x len with
             | .stay t' => t'
             | .bytes l t' => t'.loadSections core k x l vb sb)
          | _, _ => t.imageEnd core x (some len) 4

/-! ## The copy engine in a cycle -/

/-- The end of a cycle for a queue: the head's last write completes it, and an image command ends or loads. -/
def State.queueEnd (s : State) (core q : Nat) : State :=
  match s.headCmd core q with
  | none => s
  | some x =>
    match imageJob x.op with
    | none => s.copyEnd core q
    | some job =>
      if !x.live (s.die (core / 64)).halted then s
      else
        if x.rd = 0 then
          match job with
          | .load => s.loadCtx core q x
          | .loadPad unit => s.loadPad core q x unit
          | _ => s.saveBegin core q x job
        else if x.rd = 3 then
          match job with
          | .savePad unit => s.savePadImage core q x unit
          | _ => s
        else if x.wr < x.row || (s.core core).log.any (fun b => b.id == x.id) then s
        else if x.rd = 2 then s.endCmd core x 0 0
        else
          match job with
          | .loadPad unit => s.padLoaded core x unit
          | _ => s.saveEnd core q x job

/-- A queue's work within a cycle: at most `n` reads, and the engine's beat when it is the queue's. -/
def State.queueWork (s : State) (core q n : Nat) : Host.Outcome State Fault Refusal :=
  match s.headCmd core q with
  | none => .next s
  | some x =>
    match imageJob x.op with
    | none => (s.copyWork core q n).outcome (core / 64)
    | some _ =>
      .next (if s.mayBeat core q then
        (if x.rd = 3 then s.saveRead core q x else s.imageWrite core q x).beaten core q else s)

/-- COPY_COMPLETE: the work of the copy engine on a queue, and at the end of a cycle (`turn` is empty) the completion of its
head. -/
def stepCopyComplete (core q n : Nat) (s : State) : Host.Outcome State Fault Refusal :=
  if s.turn.isEmpty then .next ((s.queueEnd core q).joins core 64) else s.queueWork core q n

/-- The meaning of `copyComplete`: the step `stepCopyComplete` on the operands that the state holds. -/
def execCopyComplete (s : State) : Host.Outcome State Fault Refusal := stepCopyComplete (s.arg 0) (s.arg 1) (s.arg 2) s

/-! ## The stop at a safe point (R334) -/

/-- The request that the service processor or the host makes through control space: it acts as a PREEMPT that nothing waits
for (R333). -/
def State.preRequest (s : State) (k : Nat) : State :=
  if (s.ctx k).preNow.isSome then s
  else s.modCtx k fun c => { c with pre := some ⟨s.preemptLim (dieOf k) (s.vdOf k), s.clock, none⟩ }

/-- PREEMPT_STOP: a context with a request pending stops at its safe point, before a bundle that is ready or blocked; a
stopped one answers its request once it has come to rest; and PREEMPT.self stops its own context. Asked with 1, it is the
request of the service processor or the host that is made. -/
def stepPreemptStop (k ask : Nat) (s : State) : State :=
  if ask = 1 then s.preRequest k
  else if !s.stopMoves k then s
  else
    match (s.ctx k).st with
    | .ending => (s.stopSelf k).preAnswer k 0
    | .stopped _ => s.preAnswer k 0
    | _ => s.stop k ((s.ctx k).held.isNone && (s.judgeHdr k).eligible)

/-- The meaning of `preemptStop`: the step `stepPreemptStop` on the operands that the state holds. -/
def execPreemptStop (s : State) : Host.Outcome State Fault Refusal :=
  .next (stepPreemptStop (s.arg 0) (s.arg 1) s)


end Sys2Proof.Machine
end

