-- ==== Sys2Proof/Machine/Dispatch.lean ====
section
/-! DEFINITION. The dispatch: one arm for each instruction, each a call of its meaning. -/

namespace Sys2Proof.Machine

def exec (i : Instr) (s : State) : Host.Outcome State Fault Refusal :=
  match i with
  | .add d a b g => Sys2Proof.Machine.execAdd d a b g s
  | .sub d a b g => Sys2Proof.Machine.execSub d a b g s
  | .mul d a b g => Sys2Proof.Machine.execMul d a b g s
  | .mulh d a b g => Sys2Proof.Machine.execMulh d a b g s
  | .mulhn d a b g => Sys2Proof.Machine.execMulhn d a b g s
  | .div d a b g => Sys2Proof.Machine.execDiv d a b g s
  | .divn d a b g => Sys2Proof.Machine.execDivn d a b g s
  | .rem d a b g => Sys2Proof.Machine.execRem d a b g s
  | .remn d a b g => Sys2Proof.Machine.execRemn d a b g s
  | .and d a b g => Sys2Proof.Machine.execAnd d a b g s
  | .or d a b g => Sys2Proof.Machine.execOr d a b g s
  | .xor d a b g => Sys2Proof.Machine.execXor d a b g s
  | .shl d a b g => Sys2Proof.Machine.execShl d a b g s
  | .shr d a b g => Sys2Proof.Machine.execShr d a b g s
  | .sra d a b g => Sys2Proof.Machine.execSra d a b g s
  | .min d a b g => Sys2Proof.Machine.execMin d a b g s
  | .minn d a b g => Sys2Proof.Machine.execMinn d a b g s
  | .max d a b g => Sys2Proof.Machine.execMax d a b g s
  | .maxn d a b g => Sys2Proof.Machine.execMaxn d a b g s
  | .addsh d a b n g => Sys2Proof.Machine.execAddsh d a b n g s
  | .sel d a b g => Sys2Proof.Machine.execSel d a b g s
  | .clz d a g => Sys2Proof.Machine.execClz d a g s
  | .popc d a g => Sys2Proof.Machine.execPopc d a g s
  | .sext d a w g => Sys2Proof.Machine.execSext d a w g s
  | .zext d a w g => Sys2Proof.Machine.execZext d a w g s
  | .cmpeq d a b g => Sys2Proof.Machine.execCmpeq d a b g s
  | .cmpne d a b g => Sys2Proof.Machine.execCmpne d a b g s
  | .cmplt d a b g => Sys2Proof.Machine.execCmplt d a b g s
  | .cmple d a b g => Sys2Proof.Machine.execCmple d a b g s
  | .cmpltn d a b g => Sys2Proof.Machine.execCmpltn d a b g s
  | .cmplen d a b g => Sys2Proof.Machine.execCmplen d a b g s
  | .addi d a imm => Sys2Proof.Machine.execAddi d a imm s
  | .andi d a imm => Sys2Proof.Machine.execAndi d a imm s
  | .ori d a imm => Sys2Proof.Machine.execOri d a imm s
  | .xori d a imm => Sys2Proof.Machine.execXori d a imm s
  | .shli d a n => Sys2Proof.Machine.execShli d a n s
  | .shri d a n => Sys2Proof.Machine.execShri d a n s
  | .srai d a n => Sys2Proof.Machine.execSrai d a n s
  | .cmpeqi d a imm => Sys2Proof.Machine.execCmpeqi d a imm s
  | .cmplti d a imm => Sys2Proof.Machine.execCmplti d a imm s
  | .cmpltni d a imm => Sys2Proof.Machine.execCmpltni d a imm s
  | .sethi d imm => Sys2Proof.Machine.execSethi d imm s
  | .kand d a b g => Sys2Proof.Machine.execKand d a b g s
  | .kandn d a b g => Sys2Proof.Machine.execKandn d a b g s
  | .kor d a b g => Sys2Proof.Machine.execKor d a b g s
  | .kxor d a b g => Sys2Proof.Machine.execKxor d a b g s
  | .knot d a g => Sys2Proof.Machine.execKnot d a g s
  | .kmov d a g => Sys2Proof.Machine.execKmov d a g s
  | .kmovB d sr g => Sys2Proof.Machine.execKmovB d sr g s
  | .kmovLo d sr g => Sys2Proof.Machine.execKmovLo d sr g s
  | .krd sr a q g => Sys2Proof.Machine.execKrd sr a q g s
  | .kfirst sr a g => Sys2Proof.Machine.execKfirst sr a g s
  | .br g off => Sys2Proof.Machine.execBr g off s
  | .jmp g off => Sys2Proof.Machine.execJmp g off s
  | .jr a g => Sys2Proof.Machine.execJr a g s
  | .call g off => Sys2Proof.Machine.execCall g off s
  | .callr d a g => Sys2Proof.Machine.execCallr d a g s
  | .ret a g => Sys2Proof.Machine.execRet a g s
  | .loop lc n fin => Sys2Proof.Machine.execLoop lc n fin s
  | .lbrk g off => Sys2Proof.Machine.execLbrk g off s
  | .mfs d n => Sys2Proof.Machine.execMfs d n s
  | .mts a n => Sys2Proof.Machine.execMts a n s
  | .trapi code => Sys2Proof.Machine.execTrapi code s
  | .tfence g => Sys2Proof.Machine.execTfence g s
  | .eret => Sys2Proof.Machine.execEret s
  | .nop e sp => Sys2Proof.Machine.execNop e sp s
  | .vadd t d a b g m => Sys2Proof.Machine.execVadd t d a b g m s
  | .vsub t d a b g m => Sys2Proof.Machine.execVsub t d a b g m s
  | .vmul t d a b g m => Sys2Proof.Machine.execVmul t d a b g m s
  | .vfma t d a b g m => Sys2Proof.Machine.execVfma t d a b g m s
  | .vfms t d a b g m => Sys2Proof.Machine.execVfms t d a b g m s
  | .vmin t d a b g m => Sys2Proof.Machine.execVmin t d a b g m s
  | .vmax t d a b g m => Sys2Proof.Machine.execVmax t d a b g m s
  | .vabs t d a g m => Sys2Proof.Machine.execVabs t d a g m s
  | .vneg t d a g m => Sys2Proof.Machine.execVneg t d a g m s
  | .vdot4 t d a b g m => Sys2Proof.Machine.execVdot4 t d a b g m s
  | .vdot2 t d a b g m => Sys2Proof.Machine.execVdot2 t d a b g m s
  | .vand t d a b g => Sys2Proof.Machine.execVand t d a b g s
  | .vor t d a b g => Sys2Proof.Machine.execVor t d a b g s
  | .vxor t d a b g => Sys2Proof.Machine.execVxor t d a b g s
  | .vnot t d a g => Sys2Proof.Machine.execVnot t d a g s
  | .vshl t d a b g => Sys2Proof.Machine.execVshl t d a b g s
  | .vshlImm t d a n g => Sys2Proof.Machine.execVshlImm t d a n g s
  | .vshr t d a b g => Sys2Proof.Machine.execVshr t d a b g s
  | .vshrImm t d a n g => Sys2Proof.Machine.execVshrImm t d a n g s
  | .vsra t d a b g => Sys2Proof.Machine.execVsra t d a b g s
  | .vsraImm t d a n g => Sys2Proof.Machine.execVsraImm t d a n g s
  | .vcmpeq t kd a b g => Sys2Proof.Machine.execVcmpeq t kd a b g s
  | .vcmpne t kd a b g => Sys2Proof.Machine.execVcmpne t kd a b g s
  | .vcmplt t kd a b g => Sys2Proof.Machine.execVcmplt t kd a b g s
  | .vcmple t kd a b g => Sys2Proof.Machine.execVcmple t kd a b g s
  | .vsel t d a b g => Sys2Proof.Machine.execVsel t d a b g s
  | .vmov t d a g => Sys2Proof.Machine.execVmov t d a g s
  | .vbcast t d a c g => Sys2Proof.Machine.execVbcast t d a c g s
  | .vbcastScalar t d sa g => Sys2Proof.Machine.execVbcastScalar t d sa g s
  | .vlaneInsert t d sa c g => Sys2Proof.Machine.execVlaneInsert t d sa c g s
  | .vlaneExtract t sd a c g => Sys2Proof.Machine.execVlaneExtract t sd a c g s
  | .vperm t d a b g m => Sys2Proof.Machine.execVperm t d a b g m s
  | .vrot t d a c g m => Sys2Proof.Machine.execVrot t d a c g m s
  | .vcvt dt st mode p d a g m => Sys2Proof.Machine.execVcvt dt st mode p d a g m s
  | .vscl t d a b g => Sys2Proof.Machine.execVscl t d a b g s
  | .vredadd t d a g m => Sys2Proof.Machine.execVredadd t d a g m s
  | .vredmax t d a g m => Sys2Proof.Machine.execVredmax t d a g m s
  | .vredmin t d a g m => Sys2Proof.Machine.execVredmin t d a g m s
  | .vscan t d a ex g m => Sys2Proof.Machine.execVscan t d a ex g m s
  | .vcnt t d a g => Sys2Proof.Machine.execVcnt t d a g s
  | .vcntLz t d a g => Sys2Proof.Machine.execVcntLz t d a g s
  | .vtop2 t d a g => Sys2Proof.Machine.execVtop2 t d a g s
  | .vquant t d a p g => Sys2Proof.Machine.execVquant t d a p g s
  | .vquantScale t d a p g => Sys2Proof.Machine.execVquantScale t d a p g s
  | .vdeq t d a b g => Sys2Proof.Machine.execVdeq t d a b g s
  | .vcor t f n d a g => Sys2Proof.Machine.execVcor t f n d a g s
  | .mcfg f sr y => Sys2Proof.Machine.execMcfg f sr y s
  | .mcfgi f imm y => Sys2Proof.Machine.execMcfgi f imm y s
  | .mma tile src e acc y => Sys2Proof.Machine.execMma tile src e acc y s
  | .mmas tile src e acc y => Sys2Proof.Machine.execMmas tile src e acc y s
  | .mmac tile src e acc y => Sys2Proof.Machine.execMmac tile src e acc y s
  | .mzero tile y => Sys2Proof.Machine.execMzero tile y s
  | .mrestart off y => Sys2Proof.Machine.execMrestart off y s
  | .mrestartOff y => Sys2Proof.Machine.execMrestartOff y s
  | .mkeep mask y => Sys2Proof.Machine.execMkeep mask y s
  | .mdrop mask y => Sys2Proof.Machine.execMdrop mask y s
  | .mfmt src e sr y => Sys2Proof.Machine.execMfmt src e sr y s
  | .mshad y => Sys2Proof.Machine.execMshad y s
  | .ld t d x => Sys2Proof.Machine.execLd t d x s
  | .ldv t d x => Sys2Proof.Machine.execLdv t d x s
  | .ldvh t hi d x => Sys2Proof.Machine.execLdvh t hi d x s
  | .ldk d x => Sys2Proof.Machine.execLdk d x s
  | .ldg t d vx x => Sys2Proof.Machine.execLdg t d vx x s
  | .st t d x => Sys2Proof.Machine.execSt t d x s
  | .stv t d x => Sys2Proof.Machine.execStv t d x s
  | .stvh t hi d x => Sys2Proof.Machine.execStvh t hi d x s
  | .stk d x => Sys2Proof.Machine.execStk d x s
  | .sts t d vx x => Sys2Proof.Machine.execSts t d vx x s
  | .aadd t d x => Sys2Proof.Machine.execAadd t d x s
  | .amin t d x => Sys2Proof.Machine.execAmin t d x s
  | .amax t d x => Sys2Proof.Machine.execAmax t d x s
  | .aand t d x => Sys2Proof.Machine.execAand t d x s
  | .aor t d x => Sys2Proof.Machine.execAor t d x s
  | .axch t d x => Sys2Proof.Machine.execAxch t d x s
  | .acas t d x => Sys2Proof.Machine.execAcas t d x s
  | .afadd t d x => Sys2Proof.Machine.execAfadd t d x s
  | .fenceAcq scope => Sys2Proof.Machine.execFenceAcq scope s
  | .fenceRel scope => Sys2Proof.Machine.execFenceRel scope s
  | .fenceAr scope => Sys2Proof.Machine.execFenceAr scope s
  | .tmov a b c e x => Sys2Proof.Machine.execTmov a b c e x s
  | .tmov2 a b c e x => Sys2Proof.Machine.execTmov2 a b c e x s
  | .tmcast a b c e mask x => Sys2Proof.Machine.execTmcast a b c e mask x s
  | .tgath a b c e x => Sys2Proof.Machine.execTgath a b c e x s
  | .tscat a b c e x => Sys2Proof.Machine.execTscat a b c e x s
  | .tfill a b c e x => Sys2Proof.Machine.execTfill a b c e x s
  | .camo op t a b c e x => Sys2Proof.Machine.execCamo op t a b c e x s
  | .qjoin mask y => Sys2Proof.Machine.execQjoin mask y s
  | .migr a b c tier hnd y => Sys2Proof.Machine.execMigr a b c tier hnd y s
  | .tlbinv a b y => Sys2Proof.Machine.execTlbinv a b y s
  | .tlbinvAll y => Sys2Proof.Machine.execTlbinvAll y s
  | .dirty a b c y => Sys2Proof.Machine.execDirty a b c y s
  | .dirtyKeep a b c y => Sys2Proof.Machine.execDirtyKeep a b c y s
  | .semadd n gl c imm y => Sys2Proof.Machine.execSemadd n gl c imm y s
  | .semset n gl c y => Sys2Proof.Machine.execSemset n gl c y s
  | .semwait n gl c imm y => Sys2Proof.Machine.execSemwait n gl c imm y s
  | .semrd n gl c y => Sys2Proof.Machine.execSemrd n gl c y s
  | .barinit a b y => Sys2Proof.Machine.execBarinit a b y s
  | .bararr a b imm y => Sys2Proof.Machine.execBararr a b imm y s
  | .barexp a b y => Sys2Proof.Machine.execBarexp a b y s
  | .barwait a b y => Sys2Proof.Machine.execBarwait a b y s
  | .barwaitT a b c y => Sys2Proof.Machine.execBarwaitT a b c y s
  | .hwaitL h y => Sys2Proof.Machine.execHwaitL h y s
  | .hwaitR h y => Sys2Proof.Machine.execHwaitR h y s
  | .hstat h c sel y => Sys2Proof.Machine.execHstat h c sel y s
  | .hrel h y => Sys2Proof.Machine.execHrel h y s
  | .tspawn c a y => Sys2Proof.Machine.execTspawn c a y s
  | .tspawnR c a b y => Sys2Proof.Machine.execTspawnR c a b y s
  | .tdep a imm y => Sys2Proof.Machine.execTdep a imm y s
  | .tsuspL h a b y => Sys2Proof.Machine.execTsuspL h a b y s
  | .tsuspR h a b y => Sys2Proof.Machine.execTsuspR h a b y s
  | .tsuspM c a b y => Sys2Proof.Machine.execTsuspM c a b y s
  | .texit y => Sys2Proof.Machine.execTexit y s
  | .tmatch a b c y => Sys2Proof.Machine.execTmatch a b c y s
  | .tmatchS a b c y => Sys2Proof.Machine.execTmatchS a b c y s
  | .tcancel a y => Sys2Proof.Machine.execTcancel a y s
  | .tjobq c a y => Sys2Proof.Machine.execTjobq c a y s
  | .vwnew c b y => Sys2Proof.Machine.execVwnew c b y s
  | .vwdup c a b y => Sys2Proof.Machine.execVwdup c a b y s
  | .vwnar a b y => Sys2Proof.Machine.execVwnar a b y s
  | .vwdrop a y => Sys2Proof.Machine.execVwdrop a y s
  | .vwq c a sel y => Sys2Proof.Machine.execVwq c a sel y s
  | .vwsync y => Sys2Proof.Machine.execVwsync y s
  | .wcreate w c a y => Sys2Proof.Machine.execWcreate w c a y s
  | .wfree w y => Sys2Proof.Machine.execWfree w y s
  | .wfence w c y => Sys2Proof.Machine.execWfence w c y s
  | .wfenceClose w c y => Sys2Proof.Machine.execWfenceClose w c y s
  | .wpost w c y => Sys2Proof.Machine.execWpost w c y s
  | .wstart w c y => Sys2Proof.Machine.execWstart w c y s
  | .wcompl w c y => Sys2Proof.Machine.execWcompl w c y s
  | .wwait w c y => Sys2Proof.Machine.execWwait w c y s
  | .wlockSh w c y => Sys2Proof.Machine.execWlockSh w c y s
  | .wlockEx w c y => Sys2Proof.Machine.execWlockEx w c y s
  | .wunlock w c y => Sys2Proof.Machine.execWunlock w c y s
  | .xget a b c e x => Sys2Proof.Machine.execXget a b c e x s
  | .xput a b c e tag x => Sys2Proof.Machine.execXput a b c e tag x s
  | .xputRel a b c e tag x => Sys2Proof.Machine.execXputRel a b c e tag x s
  | .xacc op t a b c e tag x => Sys2Proof.Machine.execXacc op t a b c e tag x s
  | .xamo op t a b c e x => Sys2Proof.Machine.execXamo op t a b c e x s
  | .flowcfg a b y => Sys2Proof.Machine.execFlowcfg a b y s
  | .csend q a b x => Sys2Proof.Machine.execCsend q a b x s
  | .crecv c a y => Sys2Proof.Machine.execCrecv c a y s
  | .cret c a y => Sys2Proof.Machine.execCret c a y s
  | .xred op t a b c tag x => Sys2Proof.Machine.execXred op t a b c tag x s
  | .preempt a c y => Sys2Proof.Machine.execPreempt a c y s
  | .preemptSelf y => Sys2Proof.Machine.execPreemptSelf y s
  | .ctxsv q a b e y => Sys2Proof.Machine.execCtxsv q a b e y s
  | .ctxsvUpad q a b e y => Sys2Proof.Machine.execCtxsvUpad q a b e y s
  | .ctxsvCpad q a b e y => Sys2Proof.Machine.execCtxsvCpad q a b e y s
  | .ctxld q a b e y => Sys2Proof.Machine.execCtxld q a b e y s
  | .ctxldUpad q a b e y => Sys2Proof.Machine.execCtxldUpad q a b e y s
  | .ctxldCpad q a b e y => Sys2Proof.Machine.execCtxldCpad q a b e y s
  | .acfg f a y => Sys2Proof.Machine.execAcfg f a y s
  | .ago a b hnd y => Sys2Proof.Machine.execAgo a b hnd y s
  | .aq c sel y => Sys2Proof.Machine.execAq c sel y s
  | .event a b code y => Sys2Proof.Machine.execEvent a b code y s
  | .shadnWrite => Sys2Proof.Machine.execShadnWrite s
  | .resultWriteback => Sys2Proof.Machine.execResultWriteback s
  | .lateAccessPerform => Sys2Proof.Machine.execLateAccessPerform s
  | .agingDue => Sys2Proof.Machine.execAgingDue s
  | .matrixStart => Sys2Proof.Machine.execMatrixStart s
  | .matrixComplete => Sys2Proof.Machine.execMatrixComplete s
  | .shadowRecord => Sys2Proof.Machine.execShadowRecord s
  | .copyComplete => Sys2Proof.Machine.execCopyComplete s
  | .pageWalk => Sys2Proof.Machine.execPageWalk s
  | .fltreplay => Sys2Proof.Machine.execFltreplay s
  | .frpush => Sys2Proof.Machine.execFrpush s
  | .trgWrite => Sys2Proof.Machine.execTrgWrite s
  | .migrationMove => Sys2Proof.Machine.execMigrationMove s
  | .rcntDecay => Sys2Proof.Machine.execRcntDecay s
  | .barrierUpdate => Sys2Proof.Machine.execBarrierUpdate s
  | .barrierAutoPhase => Sys2Proof.Machine.execBarrierAutoPhase s
  | .remoteSpawnArrival => Sys2Proof.Machine.execRemoteSpawnArrival s
  | .spawnAckArrival => Sys2Proof.Machine.execSpawnAckArrival s
  | .tdepArrival => Sys2Proof.Machine.execTdepArrival s
  | .cancelArrival => Sys2Proof.Machine.execCancelArrival s
  | .tjobqAnswer => Sys2Proof.Machine.execTjobqAnswer s
  | .jobJoinNotice => Sys2Proof.Machine.execJobJoinNotice s
  | .jobWave => Sys2Proof.Machine.execJobWave s
  | .jobDoneNotice => Sys2Proof.Machine.execJobDoneNotice s
  | .taskDispatch => Sys2Proof.Machine.execTaskDispatch s
  | .taskPriorityRise => Sys2Proof.Machine.execTaskPriorityRise s
  | .chordDeltaApply => Sys2Proof.Machine.execChordDeltaApply s
  | .fenceAnnounce => Sys2Proof.Machine.execFenceAnnounce s
  | .wfenceComplete => Sys2Proof.Machine.execWfenceComplete s
  | .postArrival => Sys2Proof.Machine.execPostArrival s
  | .completeArrival => Sys2Proof.Machine.execCompleteArrival s
  | .lockRequestArrival => Sys2Proof.Machine.execLockRequestArrival s
  | .lockReleaseArrival => Sys2Proof.Machine.execLockReleaseArrival s
  | .lockGrantArrival => Sys2Proof.Machine.execLockGrantArrival s
  | .lockRetry => Sys2Proof.Machine.execLockRetry s
  | .remoteRequest => Sys2Proof.Machine.execRemoteRequest s
  | .remoteAck => Sys2Proof.Machine.execRemoteAck s
  | .getDataLand => Sys2Proof.Machine.execGetDataLand s
  | .flowRetry => Sys2Proof.Machine.execFlowRetry s
  | .portArbitration => Sys2Proof.Machine.execPortArbitration s
  | .vdcapWindow => Sys2Proof.Machine.execVdcapWindow s
  | .placeDown => Sys2Proof.Machine.execPlaceDown s
  | .placeUp => Sys2Proof.Machine.execPlaceUp s
  | .csendSend => Sys2Proof.Machine.execCsendSend s
  | .cretPermitSend => Sys2Proof.Machine.execCretPermitSend s
  | .permitArrival => Sys2Proof.Machine.execPermitArrival s
  | .chanStall => Sys2Proof.Machine.execChanStall s
  | .chaudit => Sys2Proof.Machine.execChaudit s
  | .auditMark => Sys2Proof.Machine.execAuditMark s
  | .auditBack => Sys2Proof.Machine.execAuditBack s
  | .auditTimeout => Sys2Proof.Machine.execAuditTimeout s
  | .reduceResultArrival => Sys2Proof.Machine.execReduceResultArrival s
  | .reduceTimeout => Sys2Proof.Machine.execReduceTimeout s
  | .reduceKeyAbort => Sys2Proof.Machine.execReduceKeyAbort s
  | .preemptStop => Sys2Proof.Machine.execPreemptStop s
  | .preemptTimeoutKill => Sys2Proof.Machine.execPreemptTimeoutKill s
  | .killFinish => Sys2Proof.Machine.execKillFinish s
  | .machineCheck => Sys2Proof.Machine.execMachineCheck s
  | .faultRecordDrain => Sys2Proof.Machine.execFaultRecordDrain s
  | .fqtail => Sys2Proof.Machine.execFqtail s
  | .apexStart => Sys2Proof.Machine.execApexStart s
  | .apexEnd => Sys2Proof.Machine.execApexEnd s
  | .eventDeliver => Sys2Proof.Machine.execEventDeliver s
  | .launch => Sys2Proof.Machine.execLaunch s
  | .resetContext => Sys2Proof.Machine.execResetContext s
  | .resetCore => Sys2Proof.Machine.execResetCore s
  | .resetCluster => Sys2Proof.Machine.execResetCluster s
  | .resetVd => Sys2Proof.Machine.execResetVd s
  | .resetDie => Sys2Proof.Machine.execResetDie s
  | .resetPackage => Sys2Proof.Machine.execResetPackage s
  | .chantabWrite => Sys2Proof.Machine.execChantabWrite s
  | .vdfreeze => Sys2Proof.Machine.execVdfreeze s
  | .vdexport => Sys2Proof.Machine.execVdexport s
  | .vdimport => Sys2Proof.Machine.execVdimport s
  | .attgo => Sys2Proof.Machine.execAttgo s
  | .attestQuoteDone => Sys2Proof.Machine.execAttestQuoteDone s
  | .powerOn => Sys2Proof.Machine.execPowerOn s
  | .registerWrite => Sys2Proof.Machine.execRegisterWrite s
  | .releaseAcknowledgement => Sys2Proof.Machine.execReleaseAcknowledgement s

end Sys2Proof.Machine
end

