-- ==== Sys2Proof/Machine/Cycle.lean ====
section
/-! DEFINITION. A cycle: each core's merge stage in turn (R71 to R73), the freeze line (R78, R79), and between two cycles
what ends one and begins the next. -/

namespace Sys2Proof.Machine

/-- Messages that other packages, the host and the service processor send, by clock. -/
opaque Config.arrivals : Nat → List Msg

/-! ## A context's bundle run -/

/-- An outcome carried on by what follows a next state. -/
def andThen (o : Host.Outcome State Fault Refusal) (f : State → Host.Outcome State Fault Refusal) :
    Host.Outcome State Fault Refusal :=
  match o with
  | .next s => f s
  | .fault r => .fault r
  | .refused r => .refused r

/-- The context moved on when its bundle has issued; a bundle that trapped or stays blocked leaves it where that put it. -/
def State.moveOn (s0 : State) (k : Nat) (s : State) : State := if s.last = .issued then s.advance s0 k else s

/-- The state in which a context's bundle acts: its latches are delivered from this cycle on (R326). -/
def State.acting (s : State) (k : Nat) (sl : Slot) : State := { (s.redeliver k) with cur := k, slot := sl, last := .issued, mark := s.bids }

/-- The header's bundle at a context's pc. A bundle of one decoded slot, or of none, is that instruction alone. -/
def State.runHdr (s : State) (k : Nat) : Host.Outcome State Fault Refusal :=
  let pc := (s.ctx k).pc
  let d := dieOf k
  if (s.hdr d pc.toNat).mask = 0 then
    match decodeHdr (s.fetchNat d pc.toNat 4) with
    | .ok i => exec i (s.acting k .hdr)
    | .error r => .next (issue [Op.bad .hdr (rejectCause r)] (s.acting k .hdr))
  else
    match s.slotsAt d pc with
    | [(sl, .ok i)] => exec i (s.acting k sl)
    | l => .next (issue (l.map slotOp) (s.acting k .hdr))

/-- A context's next bundle issued: an idle one, or the one at its pc. -/
def State.runBundle (s : State) (k : Nat) : Host.Outcome State Fault Refusal :=
  if 0 < (s.ctx k).idle then .next ((s.acting k .hdr).advance (s.acting k .hdr) k)
  else andThen (s.runHdr k) fun t => .next ((s.acting k .hdr).moveOn k t)

/-! ## The merge stage (R72) -/

/-- The first trap a header's bundle takes apart from its operations' own: at its header, or as a loop's end. -/
def State.barred (s : State) (k : Nat) : Option Trap :=
  let c := s.ctx k
  if 0 < c.idle then none
  else
    match s.headTrap (dieOf k) c.pc with
    | some t => some t
    | none => if (decodeTrap (s.opsAt (dieOf k) c.pc) (s.at_ k)).isSome then none else c.endTrap (s.hdr (dieOf k) c.pc.toNat).ct

/-- A context that is primary: its trap is taken, or its bundle issues. -/
def State.runPrimary (s : State) (k : Nat) : Host.Outcome State Fault Refusal :=
  match s.barred k with
  | some t => .next ((s.at_ k).trap t)
  | none => s.runBundle k

/-- The presence mask of a context's next bundle; an idle one's is empty. -/
def State.nextHdr (s : State) (k : Nat) : Hdr :=
  let c := s.ctx k
  if 0 < c.idle then ⟨0, 0, false, false, 0⟩ else s.hdr (dieOf k) c.pc.toNat

/-- The conditions of R72 on two headers. -/
def mergeable (p q : Hdr) : Bool := Nat.land p.mask q.mask == 0 && !p.ct && !q.ct && !p.sp && !q.sp

/-- Whether a judgement is a trap. -/
def Judge.isTrap : Judge → Bool
  | .trap _ => true
  | _ => false

/-- The candidate secondary: the lowest eligible context other than the primary. -/
def secondOf (l : List (Nat × Judge)) (p : Nat) : Option (Nat × Judge) := l.find? fun e => e.1 != p

/-- Whether the candidate issues beside the primary: alone when the primary traps, and else merged. Every trap counts here like
a decode check that fails (log entry 131). -/
def State.goesWith (s : State) (p : Nat × Judge) (q : Nat × Judge) : Bool :=
  !q.2.isTrap && (p.2.isTrap || mergeable (s.nextHdr p.1) (s.nextHdr q.1))

/-- The candidate secondary's bundle, when nothing blocks it after the primary's. -/
def State.runSecond (s : State) (k : Nat) : Host.Outcome State Fault Refusal :=
  match s.judge k with
  | .ready => s.runBundle k
  | _ => .next { s with last := .blocked }

/-- The eligible context that is primary (R72): the lowest one due by aging, else the lowest. -/
def State.primaryOf (s : State) (l : List (Nat × Judge)) : Option (Nat × Judge) :=
  match l.find? fun e => (s.ctx e.1).due with
  | some e => some e
  | none => l.head?

/-! ## Before and after the issue of a core -/

/-- A blocked context's bundle examined again (R74). -/
def State.lookAt (s : State) (k : Nat) : State :=
  let c := s.ctx k
  let t := s.acting k .hdr
  if 0 < c.idle || c.acqBlock then { t with cur := s.cur } else { (examine (t.opsAt (dieOf k) c.pc) t) with last := .blocked }

/-- Aging (R73): an eligible context that issues nothing counts one more cycle. -/
def State.age (s : State) (l : List (Nat × Judge)) (ran : Nat → Bool) : State :=
  l.foldl (fun t e => if ran e.1 then t else t.modCtx e.1 fun c => { c with aging := c.aging + 1 }) s

/-- The channel stall counts of a core's contexts in an unfrozen cycle (R283), in which the bundles of `blocked` were
blocked: one that comes to its limit traps at once. A count returns to 0 when the bundle issues, and a CHANSTALL of 0 disables
it. -/
def State.stalls (s : State) (core : Nat) (blocked : List Nat) : State :=
  (ctxsOf core).foldl (fun t k =>
    if !blocked.contains k || (t.chanWait k).isNone || t.stallLim k == 0 then t
    else if t.stallDue k then { t with agenda := t.agenda ++ [⟨.chanStall, [k]⟩] }
    else t.modCtx k fun c => { c with stall := c.stall + 1 }) s

/-- What a context's judgement leaves of whether it is blocked. -/
def State.noteBlocked (s : State) (k : Nat) (b : Bool) : State :=
  if (s.ctx k).blocked = b then s else s.modCtx k fun c => { c with blocked := b }

/-- The issue of a core in an unfrozen cycle. A context that a table fault has killed meanwhile does not issue (R224). -/
def State.coreIssue (s : State) (core : Nat) : Host.Outcome State Fault Refusal :=
  let js := (ctxsOf core).map fun k => (k, s.judge k)
  let s0 := js.foldl (fun t e => t.noteBlocked e.1 (e.2 == .blocked)) s
  let s1 := (js.filter fun e => e.2 == .blocked).foldl (fun t e => t.lookAt e.1) s0
  let el := js.filter fun e => e.2.eligible && (s1.ctx e.1).st == .running
  let bl := (js.filter fun e => e.2 == .blocked).map fun e => e.1
  match s1.primaryOf el with
  | none => .next (s1.stalls core bl)
  | some p =>
    andThen (s1.runPrimary p.1) fun t =>
      let first := fun k : Nat => k == p.1 && t.last == .issued
      match secondOf el p.1 with
      | some q =>
        if s1.goesWith p q then
          andThen (t.runSecond q.1) fun u =>
            .next ((u.age el fun k => first k || (k == q.1 && u.last == .issued)).stalls core bl)
        else .next ((t.age el first).stalls core bl)
      | none => .next ((t.age el first).stalls core bl)

/-- Whether a core has late accesses: memory operations, vector reads, or row writes that wait for a matrix operation. -/
def State.lateHere (s : State) (core : Nat) : Bool :=
  !(s.core core).late.isEmpty || (ctxsOf core).any fun k => (s.ctx k).inflight.any fun r => r.left == 0

/-- A core's turn (R78, R79): while it has late accesses the freeze line is high, nothing issues and they are performed
when they can be. -/
def State.coreTurn (s : State) (core : Nat) : Host.Outcome State Fault Refusal :=
  let c := s.core core
  if !s.lateHere core then
    (if c.freeze then s.modCore core fun x => { x with freeze := false } else s).coreIssue core
  else .next { (s.modCore core fun x => { x with freeze := true }) with agenda := s.agenda ++ [⟨.lateAccessPerform, [core]⟩] }

/-! ## The end of a cycle -/

/-- The number after the cores in `turn`: the end of the cycle's issue. -/
def endOfTurn : Nat := 1024

/-- Whether a core's matrix operation completes as this cycle ends. -/
def State.matDue (s : State) (e : Core) : Bool :=
  match e.act with
  | some m => match m.start with
    | some t => decide (t + m.stream + 11 ≤ s.clock)
    | none => false
  | none => false

/-- The steps that end a cycle: the results of the contexts of unfrozen cores, matrix results, whose flags stand over an
MTS to FLAGS (R56), and completions of the copy queues. -/
def State.endEvents (s : State) : List Ev :=
  ((s.ctxs.filter fun e => !e.2.inflight.isEmpty && !(s.core (coreOf e.1)).freeze).map fun e => ⟨.resultWriteback, [e.1]⟩) ++
    ((s.cores.filter fun e => s.matDue e.2).map fun e => ⟨.matrixComplete, [e.1]⟩) ++
    (s.cores.map fun e => (e.2.q.filter fun q => !q.2.isEmpty).map fun q => (⟨.copyComplete, [e.1, q.1, 0]⟩ : Ev)).flatten

/-- The end of the cores' turns. -/
def State.endTurns (s : State) : State := { s with agenda := s.agenda ++ s.endEvents, turn := [] }

/-! ### Contexts -/

/-- A context as a cycle ends (R192, R330, R22): one that leaves its task goes once its results are written and its matrix
operations are complete, copies and remote commands of its last bundle going on (log entry 154), a killed one
has none, and a pending request comes one unfrozen cycle nearer to its limit, its own cycle not counted (log entry 79). -/
def State.ctxEnd (s : State) (k : Nat) : State :=
  let c := s.ctx k
  match c.st with
  | .free => s
  | .leaving _ => if s.atRest k && !s.matBusy k then (s.preAnswer k 2).leave k else s
  | .dying _ => (s.modCtx k fun x => { x with inflight := [] }).preAnswer k 1
  | .stopped _ => s.settleUnlock k
  | .running | .ending =>
    let s1 := (s.settleUnlock k).handOver k
    match (s1.ctx k).pre with
    | some p =>
      if (s.core (coreOf k)).freeze || s.clock == p.since then s1
      else s1.modCtx k fun x => { x with pre := some { p with left := p.left - 1 } }
    | none => s1

/-- The matrix operations of a core that stream keep the writes of the cycle (R134). -/
def State.lookMat (s : State) (core : Nat) : State :=
  let c := s.core core
  if c.act.isNone && c.pend.isNone then s
  else s.setCore core { c with act := c.act.map fun m => m.look s.clock s.writes, pend := c.pend.map fun m => m.look s.clock s.writes }

/-- What a die settles as a cycle ends. -/
def State.dieEnd (s : State) (die : Nat) : State := ((((s.reserve die).csendPermits die).tellAll die).settleCompl die).resetsEnd die

/-- The end of a cycle. -/
def State.cycleEnd (s : State) : State :=
  let s0 := (s.dies.foldl (fun t e => t.apexFree e.1) s).countsEnd
  let s1 := s0.cores.foldl (fun t e => (t.semsEnd e.1).lookMat e.1) s0
  let s2 := s1.ctxs.foldl (fun t e => t.ctxEnd e.1) s1
  s2.dies.foldl (fun t e => t.dieEnd e.1) s2

/-! ## The beginning of a cycle -/

/-- The cores that have their turn: those with a context that holds a task, or with late accesses. -/
def State.turns (s : State) : List Nat :=
  nub ((s.ctxs.filter fun e => e.2.st != .free).map fun e => coreOf e.1) ++ [endOfTurn]

/-- The steps due for a context: a stop, a kill's end, the limit of a request, aging. -/
def State.ctxDue (s : State) (e : Nat × Ctx) : List Ev :=
  (if s.killMoves e.1 then [⟨.killFinish, [e.1]⟩] else []) ++ (match e.2.pre with | some p => if p.left = 0 then [⟨.preemptTimeoutKill, [e.1]⟩] else [] | none => []) ++
    (if s.stopMoves e.1 then [⟨.preemptStop, [e.1]⟩] else []) ++
    (if decide (256 ≤ e.2.aging) && !e.2.due then [⟨.agingDue, [e.1]⟩] else [])

/-- The steps due for a core: a matrix operation that may start, a record of the shadow checker that is due. -/
def State.coreDue (s : State) (e : Nat × Core) : List Ev :=
  (if e.2.act.isSome then [⟨.matrixStart, [e.1]⟩] else []) ++
    (match e.2.shadq with | r :: _ => if r.1 ≤ s.clock then [⟨.shadowRecord, [e.1]⟩] else [] | [] => [])

/-- Whether the clock stands at a multiple of a period. -/
def State.every (s : State) (n : Nat) : Bool := s.clock % n == 0

/-- The steps due for a die by its clocks and tables. -/
def State.dieDue (s : State) (e : Nat × Die) : List Ev :=
  let die := e.1
  let d := e.2
  ((s.fencesMet die).map fun w => ⟨.wfenceComplete, [die, w]⟩) ++
    (if s.every 4096 then ((d.jobs.filter fun j => jobHome j.num == die).map fun j => (⟨.jobWave, [die, j.num]⟩ : Ev)) else []) ++
    ((d.recs.filter fun r => r.2.st == 2 && decide (r.2.level < 3) && decide (65536 ≤ s.clock - r.2.waited)).map
      fun r => ⟨.taskPriorityRise, [die, r.1]⟩) ++
    (if (s.dreg die 2 0x50).toNat ≠ 0 ∧ s.every (2 ^ (s.dreg die 2 0x50).toNat) = true then [⟨.rcntDecay, [die]⟩] else []) ++
    (if s.every 1400 && !d.used.isEmpty then [⟨.vdcapWindow, [die]⟩] else []) ++
    (if d.auditAt.isSome then [⟨.auditTimeout, [die]⟩] else []) ++
    (((List.range d.outst.length).reverse).map fun i => ⟨.reduceTimeout, [die, i]⟩) ++
    ((s.replays die).map fun e => ⟨.fltreplay, [die, e.2]⟩) ++
    (if d.heldRecs.isEmpty then [] else [⟨.faultRecordDrain, [die]⟩])

/-- Every step that the state makes due at the beginning of a cycle. -/
def State.due (s : State) : List Ev :=
  (s.ctxs.map s.ctxDue).flatten ++ (s.cores.map s.coreDue).flatten ++ (s.dies.map s.dieDue).flatten

/-- Whether numbers name a die, a core, a place or nothing bounded: the operands of the steps of engines and of the
outside. -/
def dieArg (e : Ev) : Bool := decide (e.args.getD 0 0 < 16)
def coreArg (e : Ev) : Bool := decide (e.args.getD 0 0 < 1024)
def queueArg (e : Ev) : Bool := coreArg e && decide (e.args.getD 1 0 < 4)

/-- The steps that engines, ports, supervisors and the outside take in their own time. The others come when the state
makes them due. -/
def Ev.own (e : Ev) : Bool :=
  match e.op with
  | .pageWalk => coreArg e && decide (e.args.getD 1 0 < 5)
  | .shadowRecord => coreArg e
  | .copyComplete => queueArg e
  | .jobWave => dieArg e && e.args.getD 2 0 == 1
  | .preemptStop => decide (e.args.getD 0 0 < 4096) && e.args.getD 1 0 == 1
  | .csendSend => queueArg e
  | .migrationMove | .barrierUpdate | .taskDispatch | .chordDeltaApply | .portArbitration | .placeDown
  | .placeUp | .cretPermitSend | .apexStart | .apexEnd | .eventDeliver | .machineCheck | .attestQuoteDone | .chantabWrite
  | .registerWrite | .resetDie => dieArg e
  | .remoteSpawnArrival | .spawnAckArrival | .tdepArrival | .cancelArrival | .tjobqAnswer | .jobJoinNotice | .jobDoneNotice
  | .fenceAnnounce | .postArrival | .completeArrival | .lockRequestArrival | .lockReleaseArrival | .lockGrantArrival
  | .lockRetry | .releaseAcknowledgement | .remoteRequest | .remoteAck | .getDataLand | .flowRetry | .permitArrival
  | .auditMark | .auditBack | .reduceResultArrival | .reduceKeyAbort | .launch | .resetPackage => true
  | _ => false

/-- A message as it comes from outside: no request has begun at its target. -/
def Msg.fresh (m : Msg) : Msg :=
  match m.body with
  | .req r => { m with body := .req { r with prog := none, vd := 0, pins := [] } }
  | _ => m

/-- What the switches send a member comes from the tree as this state keeps it, and from nowhere else. -/
def Body.ofTree : Body → Bool
  | .req r => r.kind == .result
  | .redFail _ _ _ => true
  | _ => false

/-- Messages from outside for this package. -/
def State.arriving (s : State) : List Msg :=
  ((Config.arrivals s.clock).filter fun m => m.src / 16 != s.epid && m.dst / 16 == s.epid && !m.body.ofTree).map Msg.fresh

/-- What a member in another package, or one that gives a key up, tells the tree (R289, R291). -/
def State.treeTake (s : State) (m : Msg) : State :=
  match m.body with
  | .contrib grp off tag op ty count data =>
    if (s.redGroup grp).contains m.src then s.contribute m.src grp off tag (redOfNum op) (redTyOf ty) count data else s
  | .redFail grp off tag => s.redAbandon m.src grp off tag
  | _ => s

/-- The contributions of other packages' members that reach the tree in a cycle. -/
def State.treeArrivals (s : State) : State :=
  ((Config.arrivals s.clock).filter fun m => m.src / 16 != s.epid && m.dst == noPlace).foldl (fun t m => t.treeTake m) s

/-- Whether start-up has not run, or has failed (R362). -/
def State.inService (s : State) : Bool := decide (s.stage < 5) || (s.fail != 0 && s.fail != 0x80)

/-- A tick: the cycle ends and the next begins. Until start-up has run, the service processor's next stage is all there
is (R362). -/
def State.tick (s : State) : State :=
  let t := s.cycleEnd
  let u := { t with clock := t.clock + 1, banks := [], mem0 := t.mem, writes := [] }
  if u.inService then { u with turn := [], agenda := if u.fail = 0 then [⟨.powerOn, []⟩] else [] }
  else
    let v := { u with wire := u.wire ++ u.arriving }.treeArrivals
    { v with turn := v.turns, agenda := v.agenda ++ v.due ++ (Config.events v.clock).filter Ev.own }

end Sys2Proof.Machine
end

