-- ==== Sys2Proof/Machine/Step.lean ====
section
/-! DEFINITION. The step: the first event of the agenda, else a core's turn, else the end of the cycle. -/

namespace Sys2Proof.Machine

/-- One step of the package. -/
def step (s : State) : Host.Outcome State Fault Refusal :=
  match s.agenda with
  | e :: rest => exec e.op { s with agenda := rest, sel := e.args }
  | [] =>
    match s.turn with
    | [] => .next s.tick
    | n :: l =>
      if n = endOfTurn then .next { s with turn := l }.endTurns
      else { s with turn := l }.coreTurn n

/-- The header before a table word: the word itself when it is one, else the presence mask of its slot, with CT set for a
control transfer (R25, R29). -/
def tableHdr (nbits w : Nat) : List Nat :=
  match tableKind nbits w with
  | .hdr => []
  | .v => wordBytes 4 (0x40 * 2 ^ 24)
  | .c => wordBytes 4 (0x02 * 2 ^ 24)
  | _ => wordBytes 4 (0x80 * 2 ^ 24 + (if isTransfer w then 2 ^ 18 else 0))

/-- The state with an instruction stored in a bundle of its own at the pc of context 0, which holds a task, with the turn of
its core next. -/
def State.withFetchWord (s : State) (nbits w : Nat) : State :=
  let l := tableHdr nbits w ++ wordBytes ((tableKind nbits w).bits / 8) w
  { (s.modCtx 0 fun c => { c with st := .running, idle := 0, held := none }) with
    code := memPuts s.code (codeKey 0 (s.ctx 0).pc.toNat) (l.map fun b => BitVec.ofNat 8 b)
    agenda := []
    turn := [0] }

end Sys2Proof.Machine
end

