-- ==== Sys2Proof/Laws/Encoding.lean ====
section
/-! SUPPORT. The fields of the encoder's words, layout by layout, and what the decoder's shared forms read from them. -/

namespace Sys2Proof.Laws

open Sys2Proof Sys2Proof.Machine

/-! ## Guards, bits and signed fields -/

theorem gBits_spec {g : Guard} (h : g.wf = true) :
    gBits g < 32 ∧ gBits g % 16 < 12 ∧ guardOf (gBits g) = g := by
  obtain ⟨n, k⟩ := g
  simp only [Guard.wf, rk, decide_eq_true_eq] at h
  cases n <;> simp [gBits, guardOf, bit] <;> omega

theorem chkG_rt {v : Nat} {g : Guard} {k : Guard → Dec} (hv : v = gBits g) (h : g.wf = true) : chkG v k = k g := by
  subst hv
  obtain ⟨-, h2, h3⟩ := gBits_spec h
  simp [chkG, h2, h3]

theorem ofCode_code (t : Ty) : Ty.ofCode t.code = some t := by cases t <;> rfl
theorem code_lt (t : Ty) : t.code < 16 := by cases t <;> decide
theorem rnd_ofCode (r : Rnd) : Rnd.ofCode r.code = some r := by cases r <;> rfl
theorem rnd_lt (r : Rnd) : r.code < 8 := by cases r <;> decide
theorem bit_lt (b : Bool) : bit b < 2 := by cases b <;> decide
theorem bit_eq_one (b : Bool) : (bit b == 1) = b := by cases b <;> rfl

theorem amoOf_code (f : AmoOp) : amoOf (amoCode f) = some f := by cases f <;> rfl
theorem amoCode_lt (f : AmoOp) : amoCode f < 8 := by cases f <;> decide
theorem accOf_code (f : AccOp) : accOf (accCode f) = some f := by cases f <;> rfl
theorem accCode_lt (f : AccOp) : accCode f < 8 := by cases f <;> decide
theorem redOf_code (f : RedOp) : redOf (redCode f) = some f := by cases f <;> rfl
theorem redCode_lt (f : RedOp) : redCode f < 8 := by cases f <;> decide
theorem corOf_code (f : CorFn) : corOf (corCode f) = some f := by cases f <;> rfl
theorem corCode_lt (f : CorFn) : corCode f < 16 := by cases f <;> decide
theorem afOf_code (f : AField) : afOf (afCode f) = some f := by cases f <;> rfl
theorem afCode_lt (f : AField) : afCode f < 64 := by cases f <;> decide

theorem chkT_rt {v : Nat} {t : Ty} {ok : Ty → Bool} {k : Ty → Dec} (hv : v = t.code) (h : ok t = true) :
    chkT ok v k = k t := by
  subst hv
  simp [chkT, ofCode_code, h]

theorem chkK_rt {v : Nat} {k : Dec} (h : v < 12) : chkK v k = k := by simp [chkK, h]
theorem chk_rt {b : Bool} {r : Reject} {k : Dec} (h : b = true) : chk b r k = k := by simp [chk, h]
theorem tyIn_rt {v : Nat} {t : Ty} {ok : Ty → Bool} (hv : v = t.code) : tyIn ok v = ok t := by
  subst hv; simp [tyIn, ofCode_code]
theorem chkTd_rt {v : Nat} {t : Ty} {ok p : Ty → Bool} {k : Dec} (hv : v = t.code) (h : p t = true) :
    chkTd ok v p k = k := by
  subst hv; simp [chkTd, ofCode_code, h]

theorem ofS_spec {n : Nat} {i : Int} (hn : 1 ≤ n) (h : sfits n i = true) : ofS n i < 2 ^ n ∧ sfld n (ofS n i) = i := by
  obtain ⟨m, rfl⟩ : ∃ m, n = m + 1 := ⟨n - 1, by omega⟩
  simp only [sfits, Bool.and_eq_true, decide_eq_true_eq, Nat.add_sub_cancel] at h
  obtain ⟨h1, h2⟩ := h
  have e : ((2 : Int) ^ (m + 1)) = 2 * 2 ^ m := by rw [Int.pow_succ, Int.mul_comm]
  have e' : ((2 : Nat) ^ (m + 1)) = 2 * 2 ^ m := by rw [Nat.pow_succ, Nat.mul_comm]
  have c : ((2 ^ m : Nat) : Int) = 2 ^ m := by simp
  have p : (0 : Int) < 2 ^ m := Int.pow_pos (by decide)
  simp only [ofS, sfld, Nat.add_sub_cancel, e, e']
  generalize (2 : Int) ^ m = P at *
  generalize (2 : Nat) ^ m = N at *
  subst c
  by_cases hi : 0 ≤ i
  · have : i % (2 * (N : Int)) = i := Int.emod_eq_of_lt hi (by omega)
    rw [this]
    refine ⟨by omega, ?_⟩
    rw [if_pos (by omega)]; omega
  · have : i % (2 * (N : Int)) = i + 2 * N := by
      rw [← Int.add_emod_right]; exact Int.emod_eq_of_lt (by omega) (by omega)
    rw [this]
    refine ⟨by omega, ?_⟩
    rw [if_neg (by omega)]; push_cast; omega

/-! ## Words of each kind: what the constructor lemmas close with -/

theorem rtX {i : Instr} (op : Nat) (k : Nat → Dec) (hk : i.kind = .x) (hop : encode i / 2 ^ 25 = op) (hlt : op < 128)
    (hd : ∀ w, w / 2 ^ 25 = op → decodeX w = k w) (he : k (encode i) = .ok i) :
    decode i.kind (encode i) = .ok i ∧ encode i < 2 ^ i.kind.bits := by
  rw [hk]
  exact ⟨(hd _ hop).trans he, by simp only [WordKind.bits]; omega⟩

theorem rtV {i : Instr} (op : Nat) (k : Nat → Dec) (hk : i.kind = .v) (hop : encode i / 2 ^ 40 = op) (hlt : op < 256)
    (hd : ∀ w, w / 2 ^ 40 = op → decodeV w = k w) (he : k (encode i) = .ok i) :
    decode i.kind (encode i) = .ok i ∧ encode i < 2 ^ i.kind.bits := by
  rw [hk]
  exact ⟨(hd _ hop).trans he, by simp only [WordKind.bits]; omega⟩

theorem rtM {i : Instr} (op : Nat) (k : Nat → Dec) (hk : i.kind = .m) (hop : encode i / 2 ^ 56 = op) (hlt : op < 256)
    (hd : ∀ w, w / 2 ^ 56 = op → decodeM w = k w) (he : k (encode i) = .ok i) :
    decode i.kind (encode i) = .ok i ∧ encode i < 2 ^ i.kind.bits := by
  rw [hk]
  exact ⟨(hd _ hop).trans he, by simp only [WordKind.bits]; omega⟩

theorem rtL {i : Instr} (op : Nat) (k : Nat → Dec) (hk : i.kind = .l) (hop : encode i / 2 ^ 56 = op) (hlt : op < 256)
    (hd : ∀ w, w / 2 ^ 56 = op → decodeL w = k w) (he : k (encode i) = .ok i) :
    decode i.kind (encode i) = .ok i ∧ encode i < 2 ^ i.kind.bits := by
  rw [hk]
  exact ⟨(hd _ hop).trans he, by simp only [WordKind.bits]; omega⟩

theorem rtS {i : Instr} (op : Nat) (k : Nat → Dec) (hk : i.kind = .s) (hop : encode i / 2 ^ 56 = op) (hlt : op < 256)
    (hd : ∀ w, w / 2 ^ 56 = op → decodeS w = k w) (he : k (encode i) = .ok i) :
    decode i.kind (encode i) = .ok i ∧ encode i < 2 ^ i.kind.bits := by
  rw [hk]
  exact ⟨(hd _ hop).trans he, by simp only [WordKind.bits]; omega⟩

theorem rtC {i : Instr} (op : Nat) (k : Nat → Dec) (hk : i.kind = .c) (hop : encode i / 2 ^ 88 = op) (hlt : op < 256)
    (hd : ∀ w, w / 2 ^ 88 = op → decodeC w = k w) (he : k (encode i) = .ok i) :
    decode i.kind (encode i) = .ok i ∧ encode i < 2 ^ i.kind.bits := by
  rw [hk]
  exact ⟨(hd _ hop).trans he, by simp only [WordKind.bits]; omega⟩

theorem rtY {i : Instr} (op : Nat) (k : Nat → Dec) (hk : i.kind = .y) (hop : encode i / 2 ^ 56 = op) (hlt : op < 256)
    (hd : ∀ w, w / 2 ^ 56 = op → decodeY w = k w) (he : k (encode i) = .ok i) :
    decode i.kind (encode i) = .ok i ∧ encode i < 2 ^ i.kind.bits := by
  rw [hk]
  exact ⟨(hd _ hop).trans he, by simp only [WordKind.bits]; omega⟩

/-! ## The X slot -/

/-- The fields of an XR word. -/
theorem eXr_spec {op d a b s : Nat} {g : Guard} (hd : d < 64) (ha : a < 64) (hb : b < 64) (hg : g.wf = true)
    (hs : s < 4) : eXr op d a b g s / 2 ^ 25 = op ∧ xd (eXr op d a b g s) = d ∧ xa (eXr op d a b g s) = a ∧
      xb (eXr op d a b g s) = b ∧ xg (eXr op d a b g s) = gBits g ∧ xsub (eXr op d a b g s) = s := by
  obtain ⟨hv, -, -⟩ := gBits_spec hg
  simp only [eXr, xd, xa, xb, xg, xsub, fld]
  generalize gBits g = v at *
  omega

theorem dXr3_rt {op d a b : Nat} {g : Guard} {f : Nat → Nat → Nat → Guard → Instr} (h : wXr3 d a b g = true) :
    eXr op d a b g 0 / 2 ^ 25 = op ∧ dXr3 (eXr op d a b g 0) f = .ok (f d a b g) := by
  simp only [wXr3, r6, Bool.and_eq_true, decide_eq_true_eq] at h
  obtain ⟨⟨⟨hd, ha⟩, hb⟩, hg⟩ := h
  obtain ⟨e1, e2, e3, e4, e5, e6⟩ := eXr_spec (op := op) hd ha hb hg (by decide : 0 < 4)
  exact ⟨e1, by simp [dXr3, e2, e3, e4, e6, chk, chkG_rt e5 hg]⟩

theorem dXr2_rt {op d a : Nat} {g : Guard} {f : Nat → Nat → Guard → Instr} (h : wXr2 d a g = true) :
    eXr op d a 0 g 0 / 2 ^ 25 = op ∧ dXr2 (eXr op d a 0 g 0) f = .ok (f d a g) := by
  simp only [wXr2, r6, Bool.and_eq_true, decide_eq_true_eq] at h
  obtain ⟨⟨hd, ha⟩, hg⟩ := h
  obtain ⟨e1, e2, e3, e4, e5, e6⟩ := eXr_spec (op := op) hd ha (by decide : 0 < 64) hg (by decide : 0 < 4)
  exact ⟨e1, by simp [dXr2, e2, e3, e4, e6, chk, chkG_rt e5 hg]⟩

theorem dExt_rt {op d a s : Nat} {g : Guard} {f : Nat → Nat → Nat → Guard → Instr}
    (h : (wXr2 d a g && decide (s < 3)) = true) :
    eXr op d a 0 g s / 2 ^ 25 = op ∧ dExt (eXr op d a 0 g s) f = .ok (f d a s g) := by
  simp only [wXr2, r6, Bool.and_eq_true, decide_eq_true_eq] at h
  obtain ⟨⟨⟨hd, ha⟩, hg⟩, hs⟩ := h
  obtain ⟨e1, e2, e3, e4, e5, e6⟩ := eXr_spec (op := op) hd ha (by decide : 0 < 64) hg (by omega : s < 4)
  exact ⟨e1, by
    have : (s != 3) = true := by simp; omega
    simp [dExt, e2, e3, e4, e6, chk, chkG_rt e5 hg, this]⟩

theorem dJr_rt {op a : Nat} {g : Guard} {f : Nat → Guard → Instr} (h : (r6 a && g.wf) = true) :
    eXr op 0 a 0 g 0 / 2 ^ 25 = op ∧ dJr (eXr op 0 a 0 g 0) f = .ok (f a g) := by
  simp only [r6, Bool.and_eq_true, decide_eq_true_eq] at h
  obtain ⟨ha, hg⟩ := h
  obtain ⟨e1, e2, e3, e4, e5, e6⟩ := eXr_spec (op := op) (by decide : 0 < 64) ha (by decide : 0 < 64) hg (by decide : 0 < 4)
  exact ⟨e1, by simp [dJr, e2, e3, e4, e6, chk, chkG_rt e5 hg]⟩

/-- The fields of an XI word. -/
theorem eXn_spec {op d a n : Nat} (hd : d < 64) (ha : a < 64) (hn : n < 8192) :
    eXn op d a n / 2 ^ 25 = op ∧ xd (eXn op d a n) = d ∧ xa (eXn op d a n) = a ∧ fld (eXn op d a n) 12 0 = n := by
  simp only [eXn, xd, xa, fld]
  omega

theorem dXi_rt {op d a : Nat} {imm : Int} {f : Nat → Nat → Int → Instr} (h : wXi d a imm = true) :
    eXi op d a imm / 2 ^ 25 = op ∧ dXi (eXi op d a imm) f = .ok (f d a imm) := by
  simp only [wXi, r6, Bool.and_eq_true, decide_eq_true_eq] at h
  obtain ⟨⟨hd, ha⟩, hi⟩ := h
  obtain ⟨h1, h2⟩ := ofS_spec (by decide) hi
  obtain ⟨e1, e2, e3, e4⟩ := eXn_spec (op := op) hd ha (show ofS 13 imm < 8192 from h1)
  change eXn op d a (ofS 13 imm) / 2 ^ 25 = op ∧ dXi (eXn op d a (ofS 13 imm)) f = _
  exact ⟨e1, by simp [dXi, ximm, e2, e3, e4, h2]⟩

theorem dXsh_rt {op d a n : Nat} {f : Nat → Nat → Nat → Instr} (h : wXsh d a n = true) :
    eXn op d a n / 2 ^ 25 = op ∧ dXsh (eXn op d a n) f = .ok (f d a n) := by
  simp only [wXsh, r6, Bool.and_eq_true, decide_eq_true_eq] at h
  obtain ⟨⟨hd, ha⟩, hi⟩ := h
  obtain ⟨e1, e2, e3, e4⟩ := eXn_spec (op := op) hd ha (show n < 8192 by omega)
  have e5 : fld (eXn op d a n) 12 6 = 0 ∧ fld (eXn op d a n) 5 0 = n := by simp only [fld] at *; omega
  exact ⟨e1, by simp [dXsh, e2, e3, e5, chk]⟩

/-- The fields of a predicate-form word. -/
theorem eP_spec {op d a b r s : Nat} {g : Guard} (hd : d < 16) (ha : a < 16) (hb : b < 16) (hr : r < 64)
    (hg : g.wf = true) (hs : s < 4) : eP op d a b r g s / 2 ^ 25 = op ∧ pkd (eP op d a b r g s) = d ∧
      pka (eP op d a b r g s) = a ∧ pkb (eP op d a b r g s) = b ∧ xb (eP op d a b r g s) = r ∧
      xg (eP op d a b r g s) = gBits g ∧ xsub (eP op d a b r g s) = s := by
  obtain ⟨hv, -, -⟩ := gBits_spec hg
  simp only [eP, pkd, pka, pkb, xb, xg, xsub, fld]
  generalize gBits g = v at *
  omega

theorem dK3_rt {op d a b s : Nat} {g : Guard} {f : Nat → Nat → Nat → Guard → Instr} (hs : s < 4)
    (h : wK3 d a b g = true) : eP op d a b 0 g s / 2 ^ 25 = op ∧ xsub (eP op d a b 0 g s) = s ∧
      dK3 (eP op d a b 0 g s) f = .ok (f d a b g) := by
  simp only [wK3, rk, Bool.and_eq_true, decide_eq_true_eq] at h
  obtain ⟨⟨⟨hd, ha⟩, hb⟩, hg⟩ := h
  obtain ⟨e1, e2, e3, e4, e5, e6, e7⟩ := eP_spec (op := op) (by omega : d < 16) (by omega : a < 16)
    (by omega : b < 16) (by decide : 0 < 64) hg hs
  exact ⟨e1, e7, by simp [dK3, e2, e3, e4, e5, chk, chkG_rt e6 hg, chkK, hd, ha, hb]⟩

theorem dK2_rt {op d a : Nat} {g : Guard} {f : Nat → Nat → Guard → Instr} (h : (rk d && rk a && g.wf) = true) :
    eP op d a 0 0 g 0 / 2 ^ 25 = op ∧ xsub (eP op d a 0 0 g 0) = 0 ∧ dK2 (eP op d a 0 0 g 0) f = .ok (f d a g) := by
  simp only [rk, Bool.and_eq_true, decide_eq_true_eq] at h
  obtain ⟨⟨hd, ha⟩, hg⟩ := h
  obtain ⟨e1, e2, e3, e4, e5, e6, e7⟩ := eP_spec (op := op) (by omega : d < 16) (by omega : a < 16)
    (by decide : 0 < 16) (by decide : 0 < 64) hg (by decide : 0 < 4)
  exact ⟨e1, e7, by simp [dK2, e2, e3, e4, e5, chk, chkG_rt e6 hg, chkK, hd, ha]⟩

theorem dKs_rt {op d r s : Nat} {g : Guard} {f : Nat → Nat → Guard → Instr} (hs : s < 4)
    (h : (rk d && r6 r && g.wf) = true) :
    eP op d 0 0 r g s / 2 ^ 25 = op ∧ xsub (eP op d 0 0 r g s) = s ∧ dKs (eP op d 0 0 r g s) f = .ok (f d r g) := by
  simp only [rk, r6, Bool.and_eq_true, decide_eq_true_eq] at h
  obtain ⟨⟨hd, hr⟩, hg⟩ := h
  obtain ⟨e1, e2, e3, e4, e5, e6, e7⟩ := eP_spec (op := op) (by omega : d < 16) (by decide : 0 < 16)
    (by decide : 0 < 16) hr hg hs
  exact ⟨e1, e7, by simp [dKs, e2, e3, e4, e5, chk, chkG_rt e6 hg, chkK, hd]⟩

theorem dSk_rt {op a r s : Nat} {g : Guard} {f : Nat → Nat → Guard → Instr} (hs : s < 4) (hr : r < 64) (ha : a < 12)
    (hg : g.wf = true) :
    eP op 0 a 0 r g s / 2 ^ 25 = op ∧ xsub (eP op 0 a 0 r g s) = s ∧ dSk (eP op 0 a 0 r g s) f = .ok (f r a g) := by
  obtain ⟨e1, e2, e3, e4, e5, e6, e7⟩ := eP_spec (op := op) (by decide : 0 < 16) (by omega : a < 16)
    (by decide : 0 < 16) hr hg hs
  exact ⟨e1, e7, by simp [dSk, e2, e3, e4, e5, chk, chkG_rt e6 hg, chkK, ha]⟩

/-- The fields of an XB word. -/
theorem eXb_spec {op n : Nat} {g : Guard} (hg : g.wf = true) (hn : n < 2 ^ 20) :
    eXb op g n / 2 ^ 25 = op ∧ fld (eXb op g n) 24 20 = gBits g ∧ fld (eXb op g n) 19 0 = n := by
  obtain ⟨hv, -, -⟩ := gBits_spec hg
  simp only [eXb, fld]
  generalize gBits g = v at *
  omega

theorem dXb_rt {op : Nat} {g : Guard} {off : Int} {f : Guard → Int → Instr} (h : (g.wf && sfits 20 off) = true) :
    eXb op g (ofS 20 off) / 2 ^ 25 = op ∧ dXb (eXb op g (ofS 20 off)) f = .ok (f g off) := by
  simp only [Bool.and_eq_true] at h
  obtain ⟨hg, ho⟩ := h
  obtain ⟨h1, h2⟩ := ofS_spec (by decide) ho
  obtain ⟨e1, e2, e3⟩ := eXb_spec (op := op) hg h1
  exact ⟨e1, by simp [dXb, chkG_rt e2 hg, e3, h2]⟩

/-! ## The V slots -/

/-- The fields of a V word. -/
theorem eV_spec {op d a b : Nat} {t : Ty} {g : Guard} {m : Bool} (hd : d < 1024) (ha : a < 1024) (hb : b < 1024)
    (hg : g.wf = true) : eV op t.code d a b g m / 2 ^ 40 = op ∧ vt (eV op t.code d a b g m) = t.code ∧
      vd (eV op t.code d a b g m) = d ∧ va (eV op t.code d a b g m) = a ∧ vb (eV op t.code d a b g m) = b ∧
      vg (eV op t.code d a b g m) = gBits g ∧ vm (eV op t.code d a b g m) = m := by
  obtain ⟨hv, -, -⟩ := gBits_spec hg
  have ht := code_lt t
  have hm := bit_lt m
  have hmm := bit_eq_one m
  simp only [eV, vt, vd, va, vb, vg, vm, fld]
  generalize gBits g = v at *
  generalize t.code = c at *
  generalize bit m = n at *
  refine ⟨by omega, by omega, by omega, by omega, by omega, by omega, ?_⟩
  rw [← hmm]
  congr 1
  omega

/-- Parts of a V word's fields. -/
theorem vb_parts (w : Nat) : fld w 15 12 = vb w / 64 ∧ fld w 11 6 = vb w % 64 ∧ fld w 15 11 = vb w / 32 ∧
    fld w 10 6 = vb w % 32 ∧ fld w 15 7 = vb w / 2 ∧ fld w 6 6 = vb w % 2 ∧ fld w 11 9 = vb w / 8 % 8 ∧
    fld w 8 6 = vb w % 8 := by
  simp only [vb, fld]; omega

theorem vda_parts (w : Nat) : fld w 35 30 = vd w / 16 ∧ fld w 29 26 = vd w % 16 ∧ fld w 35 32 = vd w / 64 ∧
    fld w 31 26 = vd w % 64 ∧ fld w 25 22 = va w / 64 ∧ fld w 21 16 = va w % 64 := by
  simp only [vd, va, fld]; omega

theorem dV3m_rt {op d a b : Nat} {t : Ty} {g : Guard} {m : Bool} {ms ok : Ty → Bool}
    {f : Ty → Nat → Nat → Nat → Guard → Bool → Instr} (h : (wV3 ok t d a b g && mOk ms t m) = true) :
    eV op t.code d a b g m / 2 ^ 40 = op ∧ dV3m (eV op t.code d a b g m) ms ok f = .ok (f t d a b g m) := by
  simp only [wV3, r10, mOk, Bool.and_eq_true, decide_eq_true_eq] at h
  obtain ⟨⟨⟨⟨⟨ht, hd⟩, ha⟩, hb⟩, hg⟩, hm⟩ := h
  obtain ⟨e1, e2, e3, e4, e5, e6, e7⟩ := eV_spec (op := op) (t := t) (m := m) hd ha hb hg
  exact ⟨e1, by simp [dV3m, dGT, chkG_rt e6 hg, chkT_rt e2 ht, tyIn_rt e2, e3, e4, e5, e7, chk, hm]⟩

theorem dV2m_rt {op d a : Nat} {t : Ty} {g : Guard} {m : Bool} {ms ok : Ty → Bool}
    {f : Ty → Nat → Nat → Guard → Bool → Instr} (h : (wV2 ok t d a g && mOk ms t m) = true) :
    eV op t.code d a 0 g m / 2 ^ 40 = op ∧ dV2m (eV op t.code d a 0 g m) ms ok f = .ok (f t d a g m) := by
  simp only [wV2, r10, mOk, Bool.and_eq_true, decide_eq_true_eq] at h
  obtain ⟨⟨⟨⟨ht, hd⟩, ha⟩, hg⟩, hm⟩ := h
  obtain ⟨e1, e2, e3, e4, e5, e6, e7⟩ := eV_spec (op := op) (t := t) (m := m) hd ha (by decide : 0 < 1024) hg
  exact ⟨e1, by simp [dV2m, dGT, chkG_rt e6 hg, chkT_rt e2 ht, tyIn_rt e2, e3, e4, e5, e7, chk, hm]⟩

theorem dV3_rt {op d a b : Nat} {t : Ty} {g : Guard} {ok : Ty → Bool} {f : Ty → Nat → Nat → Nat → Guard → Instr}
    (h : wV3 ok t d a b g = true) : eV op t.code d a b g false / 2 ^ 40 = op ∧
      dV3 (eV op t.code d a b g false) ok f = .ok (f t d a b g) := by
  simp only [wV3, r10, Bool.and_eq_true, decide_eq_true_eq] at h
  obtain ⟨⟨⟨⟨ht, hd⟩, ha⟩, hb⟩, hg⟩ := h
  obtain ⟨e1, e2, e3, e4, e5, e6, e7⟩ := eV_spec (op := op) (t := t) (m := false) hd ha hb hg
  exact ⟨e1, by simp [dV3, dGT, chkG_rt e6 hg, chkT_rt e2 ht, e3, e4, e5, e7, chk]⟩

theorem dV2_rt {op d a : Nat} {t : Ty} {g : Guard} {ok : Ty → Bool} {f : Ty → Nat → Nat → Guard → Instr}
    (h : wV2 ok t d a g = true) : eV op t.code d a 0 g false / 2 ^ 40 = op ∧
      dV2 (eV op t.code d a 0 g false) ok f = .ok (f t d a g) := by
  simp only [wV2, r10, Bool.and_eq_true, decide_eq_true_eq] at h
  obtain ⟨⟨⟨ht, hd⟩, ha⟩, hg⟩ := h
  obtain ⟨e1, e2, e3, e4, e5, e6, e7⟩ := eV_spec (op := op) (t := t) (m := false) hd ha (by decide : 0 < 1024) hg
  exact ⟨e1, by simp [dV2, dGT, chkG_rt e6 hg, chkT_rt e2 ht, e3, e4, e5, e7, chk]⟩

theorem dVsh_rt {op d a b : Nat} {t : Ty} {g : Guard} {f fi : Ty → Nat → Nat → Nat → Guard → Instr}
    (h : wV3 Ty.isInt t d a b g = true) : eV op t.code d a b g false / 2 ^ 40 = op ∧
      dVsh (eV op t.code d a b g false) f fi = .ok (f t d a b g) := by
  simp only [wV3, r10, Bool.and_eq_true, decide_eq_true_eq] at h
  obtain ⟨⟨⟨⟨ht, hd⟩, ha⟩, hb⟩, hg⟩ := h
  obtain ⟨e1, e2, e3, e4, e5, e6, e7⟩ := eV_spec (op := op) (t := t) (m := false) hd ha hb hg
  exact ⟨e1, by simp [dVsh, dGT, chkG_rt e6 hg, chkT_rt e2 ht, e3, e4, e5, e7]⟩

theorem bits_le (t : Ty) : t.bits ≤ 64 := by cases t <;> decide

theorem dVshImm_rt {op d a n : Nat} {t : Ty} {g : Guard} {f fi : Ty → Nat → Nat → Nat → Guard → Instr}
    (h : wVsh t d a n g = true) : eV op t.code d a n g true / 2 ^ 40 = op ∧
      dVsh (eV op t.code d a n g true) f fi = .ok (fi t d a n g) := by
  simp only [wVsh, wV2, r10, Bool.and_eq_true, decide_eq_true_eq] at h
  obtain ⟨⟨⟨⟨ht, hd⟩, ha⟩, hg⟩, hn⟩ := h
  have hb := bits_le t
  obtain ⟨e1, e2, e3, e4, e5, e6, e7⟩ := eV_spec (op := op) (t := t) (m := true) hd ha (by omega : n < 1024) hg
  have e8 : n % 64 = n := by omega
  have e9 : n < 64 := by omega
  exact ⟨e1, by
    simp [dVsh, dGT, chkG_rt e6 hg, chkT_rt e2 ht, e3, e4, e5, e7, vb_parts, chk, e8, chkTd_rt e2, hn, e9]⟩

theorem dVc_rt {op d a b : Nat} {t : Ty} {g : Guard} {f : Ty → Nat → Nat → Nat → Guard → Instr}
    (h : wVc t d a b g = true) : eV op t.code d a b g false / 2 ^ 40 = op ∧
      dVc (eV op t.code d a b g false) f = .ok (f t d a b g) := by
  simp only [wVc, rk, r10, Bool.and_eq_true, decide_eq_true_eq] at h
  obtain ⟨⟨⟨⟨ht, hd⟩, ha⟩, hb⟩, hg⟩ := h
  obtain ⟨e1, e2, e3, e4, e5, e6, e7⟩ := eV_spec (op := op) (t := t) (m := false) (by omega : d < 1024) ha hb hg
  have e8 : d % 16 = d := by omega
  have e9 : d < 16 := by omega
  exact ⟨e1, by simp [dVc, dGT, chkG_rt e6 hg, chkT_rt e2 ht, e3, e4, e5, e7, vda_parts, chk, chkK, e8, hd, e9]⟩

theorem quant_le (t : Ty) (s : Bool) : tyQ t = true → quantParts t s ≤ 32 := by cases t <;> cases s <;> decide

theorem cvt_lt8 {d s : Ty} {p : Nat} (h : cvtPair d s = true) (hp : p < cvtParts d s) : p < 8 := by
  have : cvtPair d s = true → cvtParts d s ≤ 8 := by cases d <;> cases s <;> decide
  have := this h
  omega

theorem vcvt_rt {dt st : Ty} {mode : Rnd} {p d a : Nat} {g : Guard} {m : Bool} (hp : cvtPair dt st = true)
    (hq : p < cvtParts dt st) (hp8 : p < 8) (hd : d < 1024) (ha : a < 1024) (hg : g.wf = true) (hm : mOk cvtSat dt m = true) :
    eV 0x1D dt.code d a (st.code * 2 ^ 6 + mode.code * 2 ^ 3 + p) g m / 2 ^ 40 = 0x1D ∧
      dVcvt (eV 0x1D dt.code d a (st.code * 2 ^ 6 + mode.code * 2 ^ 3 + p) g m) = .ok (.vcvt dt st mode p d a g m) := by
  have hs := code_lt st
  have hr := rnd_lt mode
  obtain ⟨e1, e2, e3, e4, e5, e6, e7⟩ := eV_spec (op := 0x1D) (t := dt) (m := m) hd ha
    (by omega : st.code * 2 ^ 6 + mode.code * 2 ^ 3 + p < 1024) hg
  refine ⟨e1, ?_⟩
  generalize eV 0x1D dt.code d a (st.code * 2 ^ 6 + mode.code * 2 ^ 3 + p) g m = w at *
  obtain ⟨q1, -, -, -, -, -, q7, q8⟩ := vb_parts w
  replace q1 : fld w 15 12 = st.code := by omega
  replace q7 : fld w 11 9 = mode.code := by omega
  replace q8 : fld w 8 6 = p := by omega
  have hm' : (!m || tyIn cvtSat dt.code) = true := by rw [tyIn_rt rfl]; exact hm
  simp only [dVcvt, e2, e3, e4, e7, q1, q7, q8, ofCode_code, rnd_ofCode, hp, if_true]
  rw [chk_rt hm', chk_rt (by simpa using hq), chkG_rt e6 hg]

theorem dVcor_of {w : Nat} {t : Ty} {f : CorFn} {n d a : Nat} {g : Guard} (ht : tyQ t = true) (h1 : 4 ≤ n) (h2 : n ≤ 28)
    (hg : g.wf = true) (q1 : fld w 15 12 = corCode f) (q2 : fld w 11 6 = n) (e2 : vt w = t.code) (e3 : vd w = d)
    (e4 : va w = a) (e6 : vg w = gBits g) (e7 : vm w = false) : dVcor w = .ok (.vcor t f n d a g) := by
  simp only [dVcor, q1, q2, corOf_code, e7]
  rw [chk_rt (by simp [h1, h2]), dGT, chkG_rt e6 hg, chkT_rt e2 ht, e3, e4]

theorem lanes_le (t : Ty) : tyB t = true → t.lanes ≤ 256 := by cases t <;> decide

/-! ## The sync pair -/

theorem sync_spec {y : Sync} (h : y.wf = true) :
    syncBits y < 2 ^ 32 ∧ ∀ w, w % 2 ^ 32 = syncBits y → syncOf w = y ∧ syncOk w = true := by
  obtain ⟨a, b, c, d, p⟩ := y
  simp only [Sync.wf, Bool.and_eq_true, Bool.or_eq_true, decide_eq_true_eq, Bool.not_eq_true'] at h
  obtain ⟨⟨⟨⟨⟨ha, hb⟩, hc⟩, hd⟩, h1⟩, h2⟩ := h
  have hp := bit_lt p
  have hpp := bit_eq_one p
  constructor
  · simp only [syncBits]; omega
  · intro w hw
    simp only [syncBits] at hw
    have e1 : fld w 31 24 = a := by simp only [fld]; omega
    have e2 : fld w 23 16 = b := by simp only [fld]; omega
    have e3 : fld w 15 8 = c := by simp only [fld]; omega
    have e4 : fld w 7 4 = d := by simp only [fld]; omega
    have e5 : fld w 3 3 = bit p := by simp only [fld]; omega
    have e6 : fld w 2 0 = 0 := by simp only [fld]; omega
    refine ⟨by simp [syncOf, e1, e2, e3, e4, e5, hpp], ?_⟩
    simp only [syncOk, e1, e2, e3, e4, e5, e6]
    rcases h1 with h1 | h1 <;> rcases h2 with h2 | h2
    · simp [h1, h2]
    · simp [h1, h2.1, h2.2, bit]
    · simp [h1, h2]
    · simp [h1, h2.1, h2.2, bit]

theorem chkY_rt {ok : Bool} {w : Nat} {y : Sync} {i : Instr} (hy : y.wf = true) (hw : w % 2 ^ 32 = syncBits y)
    (h : ok = true) : chkY ok w i = .ok i := by
  simp [chkY, h, ((sync_spec hy).2 w hw).2]

theorem syncOf_rt {w : Nat} {y : Sync} (hy : y.wf = true) (hw : w % 2 ^ 32 = syncBits y) : syncOf w = y :=
  ((sync_spec hy).2 w hw).1

theorem syncOk_rt {w : Nat} {y : Sync} (hy : y.wf = true) (hw : w % 2 ^ 32 = syncBits y) : syncOk w = true :=
  ((sync_spec hy).2 w hw).2

/-! ## The M slot -/

theorem mfOf_code (f : MField) : mfOf (mfCode f) = some f := by cases f <;> rfl
theorem mfCode_lt (f : MField) : mfCode f < 256 := by cases f <;> decide
theorem srcOf_code (f : FmtSrc) : srcOf (srcCode f) = some f := by cases f <;> rfl
theorem srcCode_lt (f : FmtSrc) : srcCode f < 4 := by cases f <;> decide

/-- The fields of an M word. -/
theorem eM_spec {op hi lo : Nat} {y : Sync} (hh : hi < 256) (hl : lo < 65536) (hy : y.wf = true) :
    eM op hi lo y / 2 ^ 56 = op ∧ fld (eM op hi lo y) 55 48 = hi ∧ fld (eM op hi lo y) 47 32 = lo ∧
      eM op hi lo y % 2 ^ 32 = syncBits y := by
  have hs := (sync_spec hy).1
  simp only [eM, fld]
  generalize syncBits y = v at *
  omega

/-- Parts of an M word's fields. -/
theorem m_parts (w : Nat) : fld w 47 38 = fld w 47 32 / 64 ∧ fld w 37 32 = fld w 47 32 % 64 ∧
    fld w 51 32 = fld w 55 48 % 16 * 65536 + fld w 47 32 ∧ fld w 55 52 = fld w 55 48 / 16 ∧
    fld w 55 55 = fld w 55 48 / 128 ∧ fld w 54 32 = fld w 55 48 % 128 * 65536 + fld w 47 32 ∧
    fld w 51 50 = fld w 55 48 / 4 % 4 ∧ fld w 49 46 = fld w 55 48 % 4 * 4 + fld w 47 32 / 16384 ∧
    fld w 45 38 = fld w 47 32 / 64 % 256 ∧ fld w 55 32 = fld w 55 48 * 65536 + fld w 47 32 := by
  simp only [fld]; omega

/-- The fields of a commit's word. -/
theorem eMma_spec {op tile e : Nat} {src : FmtSrc} {acc : Bool} {y : Sync} (ht : tile < 16) (he : e < 16)
    (hy : y.wf = true) : eMma op tile src e acc y / 2 ^ 56 = op ∧ fld (eMma op tile src e acc y) 55 52 = tile ∧
      fld (eMma op tile src e acc y) 51 50 = srcCode src ∧ fld (eMma op tile src e acc y) 49 46 = e ∧
      fld (eMma op tile src e acc y) 45 45 = bit acc ∧ fld (eMma op tile src e acc y) 44 32 = 0 ∧
      eMma op tile src e acc y % 2 ^ 32 = syncBits y := by
  have hv := (sync_spec hy).1
  have hc := srcCode_lt src
  have ha := bit_lt acc
  simp only [eMma, fld]
  generalize syncBits y = v at *
  generalize srcCode src = c at *
  generalize bit acc = b at *
  omega

theorem dMma_of {w tile e : Nat} {src : FmtSrc} {acc : Bool} {y : Sync} {f : Nat → FmtSrc → Nat → Bool → Sync → Instr}
    (e2 : fld w 55 52 = tile) (e3 : fld w 51 50 = srcCode src) (e4 : fld w 49 46 = e) (e5 : fld w 45 45 = bit acc)
    (e6 : fld w 44 32 = 0) (e7 : w % 2 ^ 32 = syncBits y) (hy : y.wf = true) (hs : (src == .entry) = true ∨ e = 0) :
    dMma w f = .ok (f tile src e acc y) := by
  simp only [dMma, e2, e3, e4, e5, e6, srcOf_code, bit_eq_one, syncOf_rt hy e7]
  exact chkY_rt hy e7 (by rcases hs with hs | hs <;> simp [hs])

theorem dMma_rt {op tile e : Nat} {src : FmtSrc} {acc : Bool} {y : Sync} {f : Nat → FmtSrc → Nat → Bool → Sync → Instr}
    (h : wMma tile src e y = true) : eMma op tile src e acc y / 2 ^ 56 = op ∧
      dMma (eMma op tile src e acc y) f = .ok (f tile src e acc y) := by
  simp only [wMma, Bool.and_eq_true, Bool.or_eq_true, decide_eq_true_eq] at h
  obtain ⟨⟨⟨ht, he⟩, hs⟩, hy⟩ := h
  obtain ⟨e1, e2, e3, e4, e5, e6, e7⟩ := eMma_spec (op := op) (src := src) (acc := acc) ht he hy
  exact ⟨e1, dMma_of e2 e3 e4 e5 e6 e7 hy hs⟩

/-- The fields of an MFMT word. -/
theorem eMfmt_spec {e sr : Nat} {src : FmtSrc} {y : Sync} (he : e < 16) (hr : sr < 64) (hy : y.wf = true) :
    eM 0x0A 0 (srcCode src * 2 ^ 18 + e * 2 ^ 14 + sr) y / 2 ^ 56 = 0x0A ∧
      fld (eM 0x0A 0 (srcCode src * 2 ^ 18 + e * 2 ^ 14 + sr) y) 51 50 = srcCode src ∧
      fld (eM 0x0A 0 (srcCode src * 2 ^ 18 + e * 2 ^ 14 + sr) y) 49 46 = e ∧
      fld (eM 0x0A 0 (srcCode src * 2 ^ 18 + e * 2 ^ 14 + sr) y) 37 32 = sr ∧
      fld (eM 0x0A 0 (srcCode src * 2 ^ 18 + e * 2 ^ 14 + sr) y) 55 52 = 0 ∧
      fld (eM 0x0A 0 (srcCode src * 2 ^ 18 + e * 2 ^ 14 + sr) y) 45 38 = 0 ∧
      eM 0x0A 0 (srcCode src * 2 ^ 18 + e * 2 ^ 14 + sr) y % 2 ^ 32 = syncBits y := by
  have hv := (sync_spec hy).1
  have hc := srcCode_lt src
  simp only [eM, fld]
  generalize syncBits y = v at *
  generalize srcCode src = c at *
  omega

theorem mfmt_of {w e sr : Nat} {src : FmtSrc} {y : Sync} (e2 : fld w 51 50 = srcCode src) (e3 : fld w 49 46 = e)
    (e4 : fld w 37 32 = sr) (e5 : fld w 55 52 = 0) (e6 : fld w 45 38 = 0) (e7 : w % 2 ^ 32 = syncBits y)
    (hy : y.wf = true) (hs : (src == .entry) = true ∨ e = 0) :
    (match srcOf (fld w 51 50) with
      | none => .error .illegalBundle
      | some src =>
        chkY (fld w 55 52 == 0 && fld w 45 38 == 0 && (src == .entry || fld w 49 46 == 0)) w
          (.mfmt src (fld w 49 46) (fld w 37 32) (syncOf w))) = Except.ok (.mfmt src e sr y) := by
  simp only [e2, e3, e4, e5, e6, srcOf_code, syncOf_rt hy e7]
  exact chkY_rt hy e7 (by rcases hs with hs | hs <;> simp [hs])

theorem mrestartOff_of {w : Nat} {y : Sync} (hy : y.wf = true) (e4 : w % 2 ^ 32 = syncBits y)
    (p5 : fld w 55 55 = 0) (p6 : fld w 54 32 = 0) :
    (if fld w 55 55 = 1 then chkY true w (.mrestart (sfld 23 (fld w 54 32)) (syncOf w))
      else chkY (fld w 54 32 == 0) w (.mrestartOff (syncOf w))) = Except.ok (.mrestartOff y) := by
  rw [p5, if_neg (by decide), p6, syncOf_rt hy e4]
  exact chkY_rt hy e4 rfl

/-! ## The L and S slots -/

theorem scopeOf_code (s : Scope) : scopeOf (scopeCode s) = some s := by cases s <;> rfl
theorem scopeCode_lt (s : Scope) : scopeCode s < 8 := by cases s <;> decide

/-- The fields of an L or S word. -/
theorem eLs_spec {op data ty off : Nat} {x : LSArgs} (hb : x.base < 64) (hd : data < 1024) (ht : ty < 16)
    (hi : x.idx < 64) (ho : off < 2 ^ 21) (hg : x.g.wf = true) :
    eLs op data ty x off / 2 ^ 56 = op ∧ lsBase (eLs op data ty x off) = x.base ∧
      lsData (eLs op data ty x off) = data ∧ lsG (eLs op data ty x off) = gBits x.g ∧
      lsT (eLs op data ty x off) = ty ∧ fld (eLs op data ty x off) 30 30 = bit x.ord ∧
      fld (eLs op data ty x off) 29 27 = scopeCode x.scope ∧ lsIdx (eLs op data ty x off) = x.idx ∧
      fld (eLs op data ty x off) 20 0 = off := by
  obtain ⟨hv, -, -⟩ := gBits_spec hg
  have hs := scopeCode_lt x.scope
  have hr := bit_lt x.ord
  simp only [eLs, lsBase, lsData, lsG, lsT, lsIdx, fld]
  generalize gBits x.g = v at *
  generalize scopeCode x.scope = c at *
  generalize bit x.ord = b at *
  omega

/-- Parts of an L or S word's fields. -/
theorem ls_parts (w : Nat) : fld w 49 46 = lsData w / 64 ∧ fld w 45 40 = lsData w % 64 ∧ fld w 49 44 = lsData w / 16 ∧
    fld w 43 40 = lsData w % 16 ∧ fld w 5 1 = fld w 20 0 / 2 % 32 ∧ fld w 0 0 = fld w 20 0 % 2 ∧
    fld w 20 6 = fld w 20 0 / 64 ∧ fld w 10 0 = fld w 20 0 % 2048 ∧ fld w 20 11 = fld w 20 0 / 2048 := by
  simp only [lsData, fld]; omega

theorem dLs_rt {w : Nat} {ok : Bool} {tys : Ty → Bool} {idx : Nat} {off : Int} {k : Ty → LSArgs → Dec} {t : Ty}
    {x : LSArgs} (h1 : lsBase w = x.base) (h2 : lsG w = gBits x.g) (h3 : lsT w = t.code) (h4 : fld w 30 30 = bit x.ord)
    (h5 : fld w 29 27 = scopeCode x.scope) (hok : ok = true) (ht : tys t = true) (hg : x.g.wf = true)
    (hx : (x.ord || x.scope == .ctx) = true) (hi : idx = x.idx) (ho : off = x.off) :
    dLs w ok tys idx off k = k t x := by
  subst hi ho
  simp only [dLs, h5, scopeOf_code, hok, h4, bit_eq_one, Bool.true_and, hx, chk_rt]
  rw [chkG_rt h2 hg, chkT_rt h3 ht, h1]

theorem wLs_spec {dat idx : Bool} {x : LSArgs} (h : wLs dat idx x = true) : dat = true ∧ x.base < 64 ∧
    (if idx then x.idx < 64 else x.idx = 0) ∧ x.g.wf = true ∧ sfits 21 x.off = true ∧
    (x.ord || x.scope == .ctx) = true := by
  simp only [wLs, r6, Bool.and_eq_true, decide_eq_true_eq] at h
  obtain ⟨⟨⟨⟨⟨h1, h2⟩, h3⟩, h4⟩, h5⟩, h6⟩ := h
  refine ⟨h1, h2, ?_, h4, h5, h6⟩
  cases idx <;> simpa using h3

theorem dScal_rt {op d : Nat} {t : Ty} {x : LSArgs} {tys : Ty → Bool} {f : Ty → Nat → LSArgs → Instr}
    (h : (tys t && wLs (r6 d) true x) = true) : eLs op d t.code x (ofS 21 x.off) / 2 ^ 56 = op ∧
      dScal (eLs op d t.code x (ofS 21 x.off)) tys f = .ok (f t d x) := by
  rw [Bool.and_eq_true] at h
  obtain ⟨ht, h⟩ := h
  obtain ⟨hd, hb, hi, hg, ho, hx⟩ := wLs_spec h
  simp only [r6, decide_eq_true_eq, if_true] at hd hi
  obtain ⟨o1, o2⟩ := ofS_spec (by decide) ho
  obtain ⟨e1, e2, e3, e4, e5, e6, e7, e8, e9⟩ := eLs_spec (op := op) hb (by omega : d < 1024) (code_lt t) hi o1 hg
  refine ⟨e1, ?_⟩
  obtain ⟨p1, p2, -⟩ := ls_parts (eLs op d t.code x (ofS 21 x.off))
  rw [dScal, dLs_rt (t := t) (x := x) e2 e4 e5 e6 e7 (by rw [p1, e3]; simp; omega) ht hg hx e8 (by rw [e9, o2])]
  rw [p2, e3, Nat.mod_eq_of_lt hd]

theorem dRow_rt {op d : Nat} {t : Ty} {x : LSArgs} {f : Ty → Nat → LSArgs → Instr}
    (h : (tyB t && wLs (r10 d) true x) = true) : eLs op d t.code x (ofS 21 x.off) / 2 ^ 56 = op ∧
      dRow (eLs op d t.code x (ofS 21 x.off)) f = .ok (f t d x) := by
  rw [Bool.and_eq_true] at h
  obtain ⟨ht, h⟩ := h
  obtain ⟨hd, hb, hi, hg, ho, hx⟩ := wLs_spec h
  simp only [r10, decide_eq_true_eq, if_true] at hd hi
  obtain ⟨o1, o2⟩ := ofS_spec (by decide) ho
  obtain ⟨e1, e2, e3, e4, e5, e6, e7, e8, e9⟩ := eLs_spec (op := op) hb hd (code_lt t) hi o1 hg
  refine ⟨e1, ?_⟩
  rw [dRow, dLs_rt (t := t) (x := x) e2 e4 e5 e6 e7 rfl ht hg hx e8 (by rw [e9, o2]), e3]

theorem half_spec {i : Int} {hi : Bool} (h : sfits 21 i = true) (h64 : i % 64 = 0) :
    ofS 21 i + bit hi < 2 ^ 21 ∧ (ofS 21 i + bit hi) / 2 % 32 = 0 ∧ (ofS 21 i + bit hi) % 2 = bit hi ∧
      (ofS 21 i + bit hi) / 64 * 64 = ofS 21 i := by
  have hb := bit_lt hi
  obtain ⟨o1, -⟩ := ofS_spec (by decide) h
  simp only [ofS] at *
  generalize bit hi = b at *
  omega

theorem dHalf_rt {op d : Nat} {t : Ty} {hf : Bool} {x : LSArgs} {f : Ty → Bool → Nat → LSArgs → Instr}
    (h : wHalf t d x = true) : eLs op d t.code x (ofS 21 x.off + bit hf) / 2 ^ 56 = op ∧
      dHalf (eLs op d t.code x (ofS 21 x.off + bit hf)) f = .ok (f t hf d x) := by
  simp only [wHalf, Bool.and_eq_true, decide_eq_true_eq] at h
  obtain ⟨⟨ht, h64⟩, h⟩ := h
  obtain ⟨hd, hb, hi, hg, ho, hx⟩ := wLs_spec h
  simp only [r10, decide_eq_true_eq, if_true] at hd hi
  obtain ⟨-, o2⟩ := ofS_spec (by decide) ho
  obtain ⟨q1, q2, q3, q4⟩ := half_spec (hi := hf) ho h64
  obtain ⟨e1, e2, e3, e4, e5, e6, e7, e8, e9⟩ := eLs_spec (op := op) hb hd (code_lt t) hi q1 hg
  refine ⟨e1, ?_⟩
  obtain ⟨-, -, -, -, p5, p6, p7, -⟩ := ls_parts (eLs op d t.code x (ofS 21 x.off + bit hf))
  rw [dHalf, dLs_rt (t := t) (x := x) e2 e4 e5 e6 e7 (by rw [p5, e9, q2]; rfl) ht hg hx e8 (by rw [p7, e9, q4, o2])]
  rw [p6, e9, q3, bit_eq_one, e3]

theorem dPred_rt {op d : Nat} {x : LSArgs} {f : Nat → LSArgs → Instr} (h : wLs (rk d) true x = true) :
    eLs op d 0 x (ofS 21 x.off) / 2 ^ 56 = op ∧ dPred (eLs op d 0 x (ofS 21 x.off)) f = .ok (f d x) := by
  obtain ⟨hd, hb, hi, hg, ho, hx⟩ := wLs_spec h
  simp only [rk, decide_eq_true_eq, if_true] at hd hi
  obtain ⟨o1, o2⟩ := ofS_spec (by decide) ho
  obtain ⟨e1, e2, e3, e4, e5, e6, e7, e8, e9⟩ := eLs_spec (op := op) hb (by omega : d < 1024) (by decide : 0 < 16) hi o1 hg
  refine ⟨e1, ?_⟩
  obtain ⟨-, -, p3, p4, -⟩ := ls_parts (eLs op d 0 x (ofS 21 x.off))
  have e5' : lsT (eLs op d 0 x (ofS 21 x.off)) = Ty.code .i8 := e5
  rw [dPred, dLs_rt (t := .i8) (x := x) e2 e4 e5' e6 e7 (by rw [p3, e3, e5]; simp; omega) rfl hg hx e8 (by rw [e9, o2])]
  rw [p4, e3, Nat.mod_eq_of_lt (by omega), chkK_rt hd]

theorem dGs_rt {op d vx : Nat} {t : Ty} {x : LSArgs} {f : Ty → Nat → Nat → LSArgs → Instr} (h : wGs t d vx x = true) :
    eLs op d t.code x (vx * 2 ^ 11) / 2 ^ 56 = op ∧ dGs (eLs op d t.code x (vx * 2 ^ 11)) f = .ok (f t d vx x) := by
  simp only [wGs, r10, Bool.and_eq_true, decide_eq_true_eq] at h
  obtain ⟨⟨⟨ht, hv⟩, h0⟩, h⟩ := h
  obtain ⟨hd, hb, hi, hg, ho, hx⟩ := wLs_spec h
  simp only [decide_eq_true_eq, Bool.false_eq_true, if_false] at hd hi
  obtain ⟨e1, e2, e3, e4, e5, e6, e7, e8, e9⟩ := eLs_spec (op := op) (off := vx * 2 ^ 11) hb hd (code_lt t)
    (by omega : x.idx < 64) (by omega) hg
  refine ⟨e1, ?_⟩
  obtain ⟨-, -, -, -, -, -, -, p8, p9⟩ := ls_parts (eLs op d t.code x (vx * 2 ^ 11))
  rw [dGs, dLs_rt (t := t) (x := x) e2 e4 e5 e6 e7 (by rw [e8, hi, p8, e9]; simp) ht hg hx hi.symm h0.symm]
  rw [p9, e9, e3]
  show Except.ok (f t d (vx * 2 ^ 11 / 2 ^ 11) x) = _
  rw [Nat.mul_div_cancel vx (by decide : 0 < 2 ^ 11)]

theorem dFence_rt (n : Nat) (sc : Scope) (hn : 1 ≤ n) (hn' : n ≤ 3) : eFence n sc / 2 ^ 56 = 0x0E ∧
    dFence (eFence n sc) = .ok (if n = 1 then .fenceAcq sc else if n = 2 then .fenceRel sc else .fenceAr sc) := by
  have hs := scopeCode_lt sc
  have hp : eFence n sc / 2 ^ 56 = 0x0E ∧ fld (eFence n sc) 34 31 = n ∧ fld (eFence n sc) 29 27 = scopeCode sc ∧
      fld (eFence n sc) 55 35 = 0 ∧ fld (eFence n sc) 30 30 = 0 ∧ fld (eFence n sc) 26 0 = 0 := by
    simp only [eFence, fld]
    generalize scopeCode sc = c at *
    omega
  obtain ⟨e1, e2, e3, e4, e5, e6⟩ := hp
  refine ⟨e1, ?_⟩
  have h0 : ¬(n = 0 ∨ 3 < n) := by omega
  simp only [dFence, e2, e3, e4, e5, e6, h0, if_false, scopeOf_code]
  rfl

/-! ## The C slot -/

/-- The fields of a C word. -/
theorem eC_spec {op a b c e q mid : Nat} {y : Sync} (ha : a < 64) (hb : b < 64) (hc : c < 64) (he : e < 64) (hq : q < 4)
    (hm : mid < 2 ^ 30) (hy : y.wf = true) : eC op a b c e q mid y / 2 ^ 88 = op ∧ ca (eC op a b c e q mid y) = a ∧
      cb (eC op a b c e q mid y) = b ∧ cc (eC op a b c e q mid y) = c ∧ ce (eC op a b c e q mid y) = e ∧
      cq (eC op a b c e q mid y) = q ∧ fld (eC op a b c e q mid y) 61 32 = mid ∧
      eC op a b c e q mid y % 2 ^ 32 = syncBits y := by
  have hv := (sync_spec hy).1
  simp only [eC, ca, cb, cc, ce, cq, fld]
  generalize syncBits y = v at *
  omega

/-- Parts of a C word's middle field. -/
theorem c_parts (w : Nat) : fld w 61 58 = fld w 61 32 / 2 ^ 26 ∧ fld w 32 32 = fld w 61 32 % 2 ∧
    fld w 51 46 = fld w 61 32 / 2 ^ 14 % 64 ∧ fld w 61 52 = fld w 61 32 / 2 ^ 20 ∧ fld w 35 32 = fld w 61 32 % 16 ∧
    fld w 45 40 = fld w 61 32 / 256 % 64 ∧ fld w 39 36 = fld w 61 32 / 16 % 16 ∧ fld w 57 54 = fld w 61 32 / 2 ^ 22 % 16 ∧
    fld w 53 52 = fld w 61 32 / 2 ^ 20 % 4 ∧ fld w 39 37 = fld w 61 32 / 32 % 8 ∧ fld w 36 33 = fld w 61 32 / 2 % 16 ∧
    fld w 51 40 = fld w 61 32 / 256 % 4096 ∧ fld w 39 32 = fld w 61 32 % 256 ∧ fld w 43 40 = fld w 61 32 / 256 % 16 := by
  simp only [fld]; omega

theorem c_parts' (w : Nat) : fld w 39 33 = fld w 61 32 / 2 % 128 ∧ fld w 33 33 = fld w 61 32 / 2 % 2 ∧
    fld w 39 34 = fld w 61 32 / 4 % 64 ∧ fld w 51 33 = fld w 61 32 / 2 % 2 ^ 19 ∧ fld w 57 33 = fld w 61 32 / 2 % 2 ^ 25 ∧
    fld w 75 62 = cc w * 2 ^ 8 + ce w * 2 ^ 2 + cq w ∧ fld w 69 62 = ce w * 4 + cq w ∧
    fld w 57 42 = fld w 61 32 / 1024 % 65536 ∧ fld w 41 40 = fld w 61 32 / 256 % 4 ∧
    fld w 87 44 = ca w * 2 ^ 38 + cb w * 2 ^ 32 + cc w * 2 ^ 26 + ce w * 2 ^ 20 + cq w * 2 ^ 18 + fld w 61 32 / 4096 := by
  simp only [fld, ca, cb, cc, ce, cq]; omega

/-- What a local copy's word holds. -/
theorem eCp_spec {op a b c e sub fl : Nat} {x : CopyArgs} (h : wCp a b c e x = true) (hs : sub < 64) (hf : fl < 16) :
    eCp op a b c e sub fl x / 2 ^ 88 = op ∧ ca (eCp op a b c e sub fl x) = a ∧ cb (eCp op a b c e sub fl x) = b ∧
      cc (eCp op a b c e sub fl x) = c ∧ ce (eCp op a b c e sub fl x) = e ∧ cpArgs (eCp op a b c e sub fl x) = x ∧
      cpZero (eCp op a b c e sub fl x) = true ∧ fld (eCp op a b c e sub fl x) 45 40 = sub ∧
      fld (eCp op a b c e sub fl x) 39 36 = fl ∧ eCp op a b c e sub fl x % 2 ^ 32 = syncBits x.y ∧ x.y.wf = true := by
  simp only [wCp, r6, Bool.and_eq_true, decide_eq_true_eq] at h
  obtain ⟨⟨⟨⟨⟨⟨ha, hb⟩, hc⟩, he⟩, hq⟩, hr⟩, hy⟩ := h
  simp only [eCp]
  obtain ⟨e1, e2, e3, e4, e5, e6, e7, e8⟩ := eC_spec (op := op)
    (mid := x.bar * 2 ^ 14 + sub * 2 ^ 8 + fl * 2 ^ 4) ha hb hc he hq (by omega) hy
  generalize eC op a b c e x.q (x.bar * 2 ^ 14 + sub * 2 ^ 8 + fl * 2 ^ 4) x.y = w at *
  obtain ⟨-, -, p3, p4, p5, p6, p7, -⟩ := c_parts w
  refine ⟨e1, e2, e3, e4, e5, ?_, ?_, by omega, by omega, e8, hy⟩
  · have : fld w 51 46 = x.bar := by omega
    simp [cpArgs, e6, this, syncOf_rt hy e8]
  · have h1 : fld w 61 52 = 0 := by omega
    have h2 : fld w 35 32 = 0 := by omega
    simp [cpZero, h1, h2]

theorem dCp_rt {op a b c e : Nat} {x : CopyArgs} {f : Nat → Nat → Nat → Nat → CopyArgs → Instr}
    (h : wCp a b c e x = true) : eCp op a b c e 0 0 x / 2 ^ 88 = op ∧ dCp (eCp op a b c e 0 0 x) f = .ok (f a b c e x) := by
  obtain ⟨e1, e2, e3, e4, e5, e6, e7, e8, e9, e10, hy⟩ := eCp_spec (op := op) h (by decide : 0 < 64) (by decide : 0 < 16)
  refine ⟨e1, ?_⟩
  rw [dCp, chkY_rt hy e10 (by simp [e7, e8, e9]), e2, e3, e4, e5, e6]

theorem dCamo_of {w a b c e : Nat} {op : AmoOp} {t : Ty} {x : CopyArgs} (e2 : ca w = a) (e3 : cb w = b) (e4 : cc w = c)
    (e5 : ce w = e) (e6 : cpArgs w = x) (e7 : cpZero w = true) (e8 : fld w 45 40 = amoCode op)
    (e9 : fld w 39 36 = t.code) (e10 : w % 2 ^ 32 = syncBits x.y) (hy : x.y.wf = true) (ht : camoTy op t = true) :
    dCamo w = .ok (.camo op t a b c e x) := by
  simp only [dCamo, e2, e3, e4, e5, e6, e7, e8, amoOf_code, syncOk_rt hy e10]
  rw [chk_rt (by rfl), chkT_rt e9 ht]

theorem dXacc_of {w a b c e tag : Nat} {op : AccOp} {t : Ty} {x : XArgs} (e2 : ca w = a) (e3 : cb w = b) (e4 : cc w = c)
    (e5 : ce w = e) (e6 : cq w = 0) (e7 : xArgs w = x) (e8 : hndOk w = true) (e9 : fld w 51 40 = tag)
    (p1 : fld w 39 37 = accCode op) (p2 : fld w 36 33 = t.code) (e11 : w % 2 ^ 32 = syncBits x.y) (hy : x.y.wf = true)
    (ht : xaccTy op t = true) : dXacc w = .ok (.xacc op t a b c e tag x) := by
  simp only [dXacc, rcOk, p1, accOf_code, e2, e3, e4, e5, e6, e7, e8, e9, syncOk_rt hy e11]
  rw [chk_rt (by rfl), chkT_rt p2 ht]

theorem dXamo_of {w a b c e : Nat} {op : AmoOp} {t : Ty} {x : XArgs} (e2 : ca w = a) (e3 : cb w = b) (e4 : cc w = c)
    (e5 : ce w = e) (e6 : cq w = 0) (e7 : xArgs w = x) (e8 : hndOk w = true) (e9 : fld w 51 40 = 0)
    (p1 : fld w 39 37 = amoCode op) (p2 : fld w 36 33 = t.code) (e11 : w % 2 ^ 32 = syncBits x.y) (hy : x.y.wf = true)
    (ht : xamoTy op t = true) : dXamo w = .ok (.xamo op t a b c e x) := by
  simp only [dXamo, rcOk, p1, amoOf_code, e2, e3, e4, e5, e6, e7, e8, e9, syncOk_rt hy e11]
  rw [chk_rt (by rfl), chkT_rt p2 ht]

theorem dXred_of {w a b c tag : Nat} {op : RedOp} {t : Ty} {x : XArgs} (e2 : ca w = a) (e3 : cb w = b) (e4 : cc w = c)
    (e5 : ce w = 0) (e6 : cq w = 0) (e7 : xArgs w = x) (e8 : hndOk w = true) (e9 : fld w 51 40 = tag)
    (p1 : fld w 39 37 = redCode op) (p2 : fld w 36 33 = t.code) (e11 : w % 2 ^ 32 = syncBits x.y) (hy : x.y.wf = true)
    (hf : x.flow = 0) (ht : xredTy op t = true) : dXred w = .ok (.xred op t a b c tag x) := by
  have pf : fld w 57 54 = 0 := (congrArg XArgs.flow e7).trans hf
  simp only [dXred, rcOk, p1, redOf_code, e2, e3, e4, e5, e6, e7, e8, e9, pf, syncOk_rt hy e11]
  rw [chk_rt (by rfl), chkT_rt p2 ht]

theorem hBits_spec {hnd : Option Nat} (h : wH hnd = true) (lo : Nat) (hlo : lo < 2 ^ 26) (h2 : lo % 2 = 0) :
    hBits hnd + lo < 2 ^ 30 ∧ ∀ w, fld w 61 32 = hBits hnd + lo → hndOf w = hnd ∧ hndOk w = true := by
  cases hnd with
  | none =>
    simp only [hBits]
    refine ⟨by omega, fun w hw => ?_⟩
    obtain ⟨p1, p2, -⟩ := c_parts w
    have h1 : fld w 61 58 = 0 := by omega
    have h3 : fld w 32 32 = 0 := by omega
    simp [hndOf, hndOk, h1, h3]
  | some n =>
    simp only [wH, decide_eq_true_eq] at h
    simp only [hBits]
    refine ⟨by omega, fun w hw => ?_⟩
    obtain ⟨p1, p2, -⟩ := c_parts w
    have h1 : fld w 61 58 = n := by omega
    have h3 : fld w 32 32 = 1 := by omega
    simp [hndOf, hndOk, h1, h3]

/-- What a remote command's word holds. -/
theorem eX_spec {op a b c e q tag fl : Nat} {x : XArgs} (h : wRc a b c e x = true) (hq : q < 4) (ht : tag < 4096)
    (hf : fl < 128) : eX op a b c e q tag fl x / 2 ^ 88 = op ∧ ca (eX op a b c e q tag fl x) = a ∧
      cb (eX op a b c e q tag fl x) = b ∧ cc (eX op a b c e q tag fl x) = c ∧ ce (eX op a b c e q tag fl x) = e ∧
      cq (eX op a b c e q tag fl x) = q ∧ xArgs (eX op a b c e q tag fl x) = x ∧
      hndOk (eX op a b c e q tag fl x) = true ∧ fld (eX op a b c e q tag fl x) 51 40 = tag ∧
      fld (eX op a b c e q tag fl x) 39 33 = fl ∧ eX op a b c e q tag fl x % 2 ^ 32 = syncBits x.y ∧
      x.y.wf = true := by
  simp only [wRc, r6, Bool.and_eq_true, decide_eq_true_eq] at h
  obtain ⟨⟨⟨⟨⟨⟨⟨ha, hb⟩, hc⟩, he⟩, hh⟩, hw⟩, htc⟩, hy⟩ := h
  simp only [eX]
  obtain ⟨hm, hspec⟩ := hBits_spec hh (x.flow * 2 ^ 22 + x.tc * 2 ^ 20 + tag * 2 ^ 8 + fl * 2) (by omega) (by omega)
  have hassoc : hBits x.hnd + x.flow * 2 ^ 22 + x.tc * 2 ^ 20 + tag * 2 ^ 8 + fl * 2 =
    hBits x.hnd + (x.flow * 2 ^ 22 + x.tc * 2 ^ 20 + tag * 2 ^ 8 + fl * 2) := by omega
  rw [hassoc]
  obtain ⟨e1, e2, e3, e4, e5, e6, e7, e8⟩ := eC_spec (op := op) ha hb hc he hq hm hy
  obtain ⟨s1, s2⟩ := hspec _ e7
  have hbit : hBits x.hnd % 2 ^ 26 < 2 := by cases x.hnd <;> simp only [hBits] <;> omega
  generalize eC op a b c e q (hBits x.hnd + (x.flow * 2 ^ 22 + x.tc * 2 ^ 20 + tag * 2 ^ 8 + fl * 2)) x.y = w at *
  generalize hBits x.hnd = v at *
  obtain ⟨p1, p2, -, -, -, -, -, p8, p9, p10, p11, p12, -⟩ := c_parts w
  obtain ⟨r1, -⟩ := c_parts' w
  refine ⟨e1, e2, e3, e4, e5, e6, ?_, s2, by omega, by omega, e8, hy⟩
  have h1 : fld w 57 54 = x.flow := by omega
  have h2 : fld w 53 52 = x.tc := by omega
  simp [xArgs, s1, h1, h2, syncOf_rt hy e8]

/-- Parts of a remote command's flag field. -/
theorem fl_parts (w : Nat) : fld w 39 37 = fld w 39 33 / 16 ∧ fld w 36 33 = fld w 39 33 % 16 ∧
    fld w 33 33 = fld w 39 33 % 2 ∧ fld w 39 34 = fld w 39 33 / 2 ∧
    fld w 51 33 = fld w 51 40 * 128 + fld w 39 33 := by
  simp only [fld]; omega

theorem dImg_rt {op sub q a b e : Nat} {y : Sync} {f0 f1 f2 : Nat → Nat → Nat → Nat → Sync → Instr}
    (h : wImg q a b e y = true) (hs : sub < 3) : eImg op sub q a b e y / 2 ^ 88 = op ∧
      dImg (eImg op sub q a b e y) f0 f1 f2 =
        .ok ((if sub = 0 then f0 else if sub = 1 then f1 else f2) q a b e y) := by
  simp only [wImg, r6, Bool.and_eq_true, decide_eq_true_eq] at h
  obtain ⟨⟨⟨⟨hq, ha⟩, hb⟩, he⟩, hy⟩ := h
  simp only [eImg]
  obtain ⟨e1, e2, e3, e4, e5, e6, e7, e8⟩ := eC_spec (op := op) (mid := sub * 2 ^ 8) ha hb (by decide : 0 < 64) he hq
    (by omega) hy
  generalize eC op a b 0 e q (sub * 2 ^ 8) y = w at *
  obtain ⟨-, -, p3, p4, p5, p6, p7, -, -, -, -, -, p13, -⟩ := c_parts w
  have h1 : fld w 45 40 = sub := by omega
  have h2 : fld w 61 52 = 0 := by omega
  have h3 : fld w 51 46 = 0 := by omega
  have h4 : fld w 39 32 = 0 := by omega
  refine ⟨e1, ?_⟩
  simp only [dImg, h1, e2, e3, e5, e6, syncOf_rt hy e8]
  rw [chk_rt (by simpa using hs), chkY_rt hy e8 (by simp [e4, h2, h3, h4])]

/-! ## The Y slot -/

/-- The fields of a Y word. -/
theorem eY_spec {op a b c imm : Nat} {y : Sync} (ha : a < 64) (hb : b < 64) (hc : c < 64) (hi : imm < 64)
    (hy : y.wf = true) : eY op a b c imm y / 2 ^ 56 = op ∧ ya (eY op a b c imm y) = a ∧ yb (eY op a b c imm y) = b ∧
      yc (eY op a b c imm y) = c ∧ yi (eY op a b c imm y) = imm ∧ eY op a b c imm y % 2 ^ 32 = syncBits y := by
  have hv := (sync_spec hy).1
  simp only [eY, ya, yb, yc, yi, fld]
  generalize syncBits y = v at *
  omega

/-- Parts of a Y word's fields. -/
theorem y_parts (w : Nat) : fld w 37 33 = yi w / 2 ∧ fld w 33 32 = yi w % 4 ∧ fld w 37 34 = yi w / 4 ∧
    fld w 53 50 = ya w % 16 ∧ fld w 55 54 = ya w / 16 ∧ fld w 49 38 = yb w * 64 + yc w ∧
    fld w 49 32 = yb w * 4096 + yc w * 64 + yi w ∧ fld w 55 32 = ya w * 2 ^ 18 + yb w * 4096 + yc w * 64 + yi w ∧
    fld w 55 38 = ya w * 4096 + yb w * 64 + yc w := by
  simp only [ya, yb, yc, yi, fld]; omega

/-- The fields of a semaphore or window word. -/
theorem eSem_spec {op n c imm : Nat} {gl : Bool} {y : Sync} (hn : n < 256) (hc : c < 64) (hi : imm < 64)
    (hy : y.wf = true) : eSem op n gl c imm y / 2 ^ 56 = op ∧ ysem (eSem op n gl c imm y) = n ∧
      yg (eSem op n gl c imm y) = gl ∧ yc (eSem op n gl c imm y) = c ∧ yi (eSem op n gl c imm y) = imm ∧
      fld (eSem op n gl c imm y) 46 44 = 0 ∧ eSem op n gl c imm y % 2 ^ 32 = syncBits y := by
  have hv := (sync_spec hy).1
  have hb := bit_lt gl
  have hbb := bit_eq_one gl
  simp only [eSem, ysem, yg, yc, yi, fld]
  generalize syncBits y = v at *
  generalize bit gl = m at *
  refine ⟨by omega, by omega, ?_, by omega, by omega, by omega, by omega⟩
  rw [← hbb]
  congr 1
  omega

theorem dSemImm_rt {op n c imm : Nat} {gl : Bool} {y : Sync} {f : Nat → Bool → Nat → Nat → Sync → Instr}
    (h : wSemImm n c imm y = true) : eSem op n gl c imm y / 2 ^ 56 = op ∧
      dSemImm (eSem op n gl c imm y) f = .ok (f n gl c imm y) := by
  simp only [wSemImm, r6, Bool.and_eq_true, decide_eq_true_eq] at h
  obtain ⟨⟨⟨⟨hn, hc⟩, hi⟩, hx⟩, hy⟩ := h
  obtain ⟨e1, e2, e3, e4, e5, e6, e7⟩ := eSem_spec (op := op) (gl := gl) hn hc hi hy
  refine ⟨e1, ?_⟩
  rw [dSemImm, e2, e3, e4, e5, syncOf_rt hy e7, chkY_rt hy e7]
  rw [e6]
  split at hx <;> simp_all

theorem dSem_rt {op n c : Nat} {gl : Bool} {y : Sync} {f : Nat → Bool → Nat → Sync → Instr}
    (h : (decide (n < 256) && r6 c && y.wf) = true) : eSem op n gl c 0 y / 2 ^ 56 = op ∧
      dSem (eSem op n gl c 0 y) f = .ok (f n gl c y) := by
  simp only [r6, Bool.and_eq_true, decide_eq_true_eq] at h
  obtain ⟨⟨hn, hc⟩, hy⟩ := h
  obtain ⟨e1, e2, e3, e4, e5, e6, e7⟩ := eSem_spec (op := op) (gl := gl) hn hc (by decide : 0 < 64) hy
  refine ⟨e1, ?_⟩
  rw [dSem, e2, e3, e4, syncOf_rt hy e7, chkY_rt hy e7 (by simp [e5, e6])]

theorem w47_spec (w : Nat) (h : yg w = false) (h' : fld w 46 44 = 0) : fld w 47 44 = 0 := by
  simp only [yg, beq_eq_false_iff_ne, fld] at *
  omega

theorem dW_rt {op n c : Nat} {y : Sync} {f : Nat → Nat → Sync → Instr} (h : wW n c y = true) :
    eW op n c 0 y / 2 ^ 56 = op ∧ dW (eW op n c 0 y) f = .ok (f n c y) := by
  simp only [wW, r6, Bool.and_eq_true, decide_eq_true_eq] at h
  obtain ⟨⟨hn, hc⟩, hy⟩ := h
  obtain ⟨e1, e2, e3, e4, e5, e6, e7⟩ := eSem_spec (op := op) (gl := false) hn hc (by decide : 0 < 64) hy
  refine ⟨e1, ?_⟩
  rw [eW, dW, e2, e4, syncOf_rt hy e7, chkY_rt hy e7 (by simp [e5, w47_spec _ e3 e6])]

theorem dFlag_rt {w n : Nat} {ok0 ok1 : Bool} {i0 i1 : Instr} {y : Sync} (hy : y.wf = true)
    (hw : w % 2 ^ 32 = syncBits y) (hn : n < 2) (hi : yi w = n) (h : (if n = 0 then ok0 else ok1) = true) :
    dFlag w ok0 ok1 i0 i1 = .ok (if n = 0 then i0 else i1) := by
  have : fld w 37 33 = 0 := by rw [(y_parts w).1]; omega
  rw [dFlag, hi, chkY_rt hy hw (by simp [this, h])]

theorem dWf_rt {op n c b : Nat} {y : Sync} {f0 f1 : Nat → Nat → Sync → Instr} (h : wW n c y = true) (hb : b < 2) :
    eW op n c b y / 2 ^ 56 = op ∧ dWf (eW op n c b y) f0 f1 = .ok (if b = 0 then f0 n c y else f1 n c y) := by
  simp only [wW, r6, Bool.and_eq_true, decide_eq_true_eq] at h
  obtain ⟨⟨hn, hc⟩, hy⟩ := h
  obtain ⟨e1, e2, e3, e4, e5, e6, e7⟩ := eSem_spec (op := op) (gl := false) hn hc (by omega : b < 64) hy
  refine ⟨e1, ?_⟩
  rw [eW, dWf, dFlag_rt hy e7 hb e5 (by simp [w47_spec _ e3 e6]), e2, e4, syncOf_rt hy e7]

theorem dAb_rt {op a b : Nat} {y : Sync} {f : Nat → Nat → Sync → Instr} (h : w2 a b y = true) :
    eY op a b 0 0 y / 2 ^ 56 = op ∧ dAb (eY op a b 0 0 y) f = .ok (f a b y) := by
  simp only [w2, r6, Bool.and_eq_true, decide_eq_true_eq] at h
  obtain ⟨⟨ha, hb⟩, hy⟩ := h
  obtain ⟨e1, e2, e3, e4, e5, e6⟩ := eY_spec (op := op) ha hb (by decide : 0 < 64) (by decide : 0 < 64) hy
  exact ⟨e1, by rw [dAb, e2, e3, syncOf_rt hy e6, chkY_rt hy e6 (by simp [e4, e5])]⟩

theorem dA_rt {op a : Nat} {y : Sync} {f : Nat → Sync → Instr} (h : (r6 a && y.wf) = true) :
    eY op a 0 0 0 y / 2 ^ 56 = op ∧ dA (eY op a 0 0 0 y) f = .ok (f a y) := by
  simp only [r6, Bool.and_eq_true, decide_eq_true_eq] at h
  obtain ⟨ha, hy⟩ := h
  obtain ⟨e1, e2, e3, e4, e5, e6⟩ := eY_spec (op := op) ha (by decide : 0 < 64) (by decide : 0 < 64) (by decide : 0 < 64) hy
  exact ⟨e1, by rw [dA, e2, syncOf_rt hy e6, chkY_rt hy e6 (by simp [e3, e4, e5])]⟩

theorem dCa_rt {op c a : Nat} {y : Sync} {f : Nat → Nat → Sync → Instr} (h : w2 c a y = true) :
    eY op a 0 c 0 y / 2 ^ 56 = op ∧ dCa (eY op a 0 c 0 y) f = .ok (f c a y) := by
  simp only [w2, r6, Bool.and_eq_true, decide_eq_true_eq] at h
  obtain ⟨⟨hc, ha⟩, hy⟩ := h
  obtain ⟨e1, e2, e3, e4, e5, e6⟩ := eY_spec (op := op) ha (by decide : 0 < 64) hc (by decide : 0 < 64) hy
  exact ⟨e1, by rw [dCa, e2, e4, syncOf_rt hy e6, chkY_rt hy e6 (by simp [e3, e5])]⟩

end Sys2Proof.Laws
end

