-- ==== Sys2Proof/Laws/PerInstr.lean ====
section
/-! SUPPORT. Statements made for each instruction: decoding the word that encodes a well-formed operation gives the
operation back, and the word fits its slot. An event has no word. -/

namespace Sys2Proof.Laws.RoundTrip

open Sys2Proof Sys2Proof.Machine Sys2Proof.Laws

set_option Elab.async false

/-- The word of a well-formed operation fits its slot and decodes to the operation. -/
def Statement (i : Instr) : Prop :=
  i.wf = true → i.kind ≠ .event → decode i.kind (encode i) = .ok i ∧ encode i < 2 ^ i.kind.bits

theorem add (d : Nat) (a : Nat) (b : Nat) (g : Guard) : Statement (.add d a b g) := fun h _ =>
  rtX 0x01 (fun w => dXr3 w .add) rfl (dXr3_rt (f := .add) h).1 (by decide) (fun w hw => by unfold decodeX; rw [hw]; rfl) (dXr3_rt (f := .add) h).2

theorem sub (d : Nat) (a : Nat) (b : Nat) (g : Guard) : Statement (.sub d a b g) := fun h _ =>
  rtX 0x02 (fun w => dXr3 w .sub) rfl (dXr3_rt (f := .sub) h).1 (by decide) (fun w hw => by unfold decodeX; rw [hw]; rfl) (dXr3_rt (f := .sub) h).2

theorem mul (d : Nat) (a : Nat) (b : Nat) (g : Guard) : Statement (.mul d a b g) := fun h _ =>
  rtX 0x03 (fun w => dXr3 w .mul) rfl (dXr3_rt (f := .mul) h).1 (by decide) (fun w hw => by unfold decodeX; rw [hw]; rfl) (dXr3_rt (f := .mul) h).2

theorem mulh (d : Nat) (a : Nat) (b : Nat) (g : Guard) : Statement (.mulh d a b g) := fun h _ =>
  rtX 0x04 (fun w => dXr3 w .mulh) rfl (dXr3_rt (f := .mulh) h).1 (by decide) (fun w hw => by unfold decodeX; rw [hw]; rfl) (dXr3_rt (f := .mulh) h).2

theorem mulhn (d : Nat) (a : Nat) (b : Nat) (g : Guard) : Statement (.mulhn d a b g) := fun h _ =>
  rtX 0x05 (fun w => dXr3 w .mulhn) rfl (dXr3_rt (f := .mulhn) h).1 (by decide) (fun w hw => by unfold decodeX; rw [hw]; rfl) (dXr3_rt (f := .mulhn) h).2

theorem div (d : Nat) (a : Nat) (b : Nat) (g : Guard) : Statement (.div d a b g) := fun h _ =>
  rtX 0x06 (fun w => dXr3 w .div) rfl (dXr3_rt (f := .div) h).1 (by decide) (fun w hw => by unfold decodeX; rw [hw]; rfl) (dXr3_rt (f := .div) h).2

theorem divn (d : Nat) (a : Nat) (b : Nat) (g : Guard) : Statement (.divn d a b g) := fun h _ =>
  rtX 0x07 (fun w => dXr3 w .divn) rfl (dXr3_rt (f := .divn) h).1 (by decide) (fun w hw => by unfold decodeX; rw [hw]; rfl) (dXr3_rt (f := .divn) h).2

theorem rem (d : Nat) (a : Nat) (b : Nat) (g : Guard) : Statement (.rem d a b g) := fun h _ =>
  rtX 0x08 (fun w => dXr3 w .rem) rfl (dXr3_rt (f := .rem) h).1 (by decide) (fun w hw => by unfold decodeX; rw [hw]; rfl) (dXr3_rt (f := .rem) h).2

theorem remn (d : Nat) (a : Nat) (b : Nat) (g : Guard) : Statement (.remn d a b g) := fun h _ =>
  rtX 0x09 (fun w => dXr3 w .remn) rfl (dXr3_rt (f := .remn) h).1 (by decide) (fun w hw => by unfold decodeX; rw [hw]; rfl) (dXr3_rt (f := .remn) h).2

theorem and (d : Nat) (a : Nat) (b : Nat) (g : Guard) : Statement (.and d a b g) := fun h _ =>
  rtX 0x0A (fun w => dXr3 w .and) rfl (dXr3_rt (f := .and) h).1 (by decide) (fun w hw => by unfold decodeX; rw [hw]; rfl) (dXr3_rt (f := .and) h).2

theorem or (d : Nat) (a : Nat) (b : Nat) (g : Guard) : Statement (.or d a b g) := fun h _ =>
  rtX 0x0B (fun w => dXr3 w .or) rfl (dXr3_rt (f := .or) h).1 (by decide) (fun w hw => by unfold decodeX; rw [hw]; rfl) (dXr3_rt (f := .or) h).2

theorem xor (d : Nat) (a : Nat) (b : Nat) (g : Guard) : Statement (.xor d a b g) := fun h _ =>
  rtX 0x0C (fun w => dXr3 w .xor) rfl (dXr3_rt (f := .xor) h).1 (by decide) (fun w hw => by unfold decodeX; rw [hw]; rfl) (dXr3_rt (f := .xor) h).2

theorem shl (d : Nat) (a : Nat) (b : Nat) (g : Guard) : Statement (.shl d a b g) := fun h _ =>
  rtX 0x0D (fun w => dXr3 w .shl) rfl (dXr3_rt (f := .shl) h).1 (by decide) (fun w hw => by unfold decodeX; rw [hw]; rfl) (dXr3_rt (f := .shl) h).2

theorem shr (d : Nat) (a : Nat) (b : Nat) (g : Guard) : Statement (.shr d a b g) := fun h _ =>
  rtX 0x0E (fun w => dXr3 w .shr) rfl (dXr3_rt (f := .shr) h).1 (by decide) (fun w hw => by unfold decodeX; rw [hw]; rfl) (dXr3_rt (f := .shr) h).2

theorem sra (d : Nat) (a : Nat) (b : Nat) (g : Guard) : Statement (.sra d a b g) := fun h _ =>
  rtX 0x0F (fun w => dXr3 w .sra) rfl (dXr3_rt (f := .sra) h).1 (by decide) (fun w hw => by unfold decodeX; rw [hw]; rfl) (dXr3_rt (f := .sra) h).2

theorem min (d : Nat) (a : Nat) (b : Nat) (g : Guard) : Statement (.min d a b g) := fun h _ =>
  rtX 0x10 (fun w => dXr3 w .min) rfl (dXr3_rt (f := .min) h).1 (by decide) (fun w hw => by unfold decodeX; rw [hw]; rfl) (dXr3_rt (f := .min) h).2

theorem minn (d : Nat) (a : Nat) (b : Nat) (g : Guard) : Statement (.minn d a b g) := fun h _ =>
  rtX 0x11 (fun w => dXr3 w .minn) rfl (dXr3_rt (f := .minn) h).1 (by decide) (fun w hw => by unfold decodeX; rw [hw]; rfl) (dXr3_rt (f := .minn) h).2

theorem max (d : Nat) (a : Nat) (b : Nat) (g : Guard) : Statement (.max d a b g) := fun h _ =>
  rtX 0x12 (fun w => dXr3 w .max) rfl (dXr3_rt (f := .max) h).1 (by decide) (fun w hw => by unfold decodeX; rw [hw]; rfl) (dXr3_rt (f := .max) h).2

theorem maxn (d : Nat) (a : Nat) (b : Nat) (g : Guard) : Statement (.maxn d a b g) := fun h _ =>
  rtX 0x13 (fun w => dXr3 w .maxn) rfl (dXr3_rt (f := .maxn) h).1 (by decide) (fun w hw => by unfold decodeX; rw [hw]; rfl) (dXr3_rt (f := .maxn) h).2

theorem addsh (d : Nat) (a : Nat) (b : Nat) (n : Nat) (g : Guard) : Statement (.addsh d a b n g) := by
  intro h _
  replace h : (wXr3 d a b g && decide (1 ≤ n) && decide (n ≤ 4)) = true := h
  simp only [wXr3, r6, Bool.and_eq_true, decide_eq_true_eq] at h
  obtain ⟨⟨⟨⟨⟨hd, ha⟩, hb⟩, hg⟩, h1⟩, h4⟩ := h
  obtain ⟨e1, e2, e3, e4, e5, e6⟩ := eXr_spec (op := 0x14) hd ha hb hg (by omega : n - 1 < 4)
  refine rtX 0x14 (fun w => chkG (xg w) fun g => .ok (.addsh (xd w) (xa w) (xb w) (xsub w + 1) g)) rfl e1 (by decide) (fun w hw => by unfold decodeX; rw [hw]; rfl) ?_
  simp only [encode]
  rw [chkG_rt e5 hg, e2, e3, e4, e6, Nat.sub_add_cancel h1]

theorem sel (d : Nat) (a : Nat) (b : Nat) (g : Guard) : Statement (.sel d a b g) := fun h _ =>
  rtX 0x15 (fun w => dXr3 w .sel) rfl (dXr3_rt (f := .sel) h).1 (by decide) (fun w hw => by unfold decodeX; rw [hw]; rfl) (dXr3_rt (f := .sel) h).2

theorem clz (d : Nat) (a : Nat) (g : Guard) : Statement (.clz d a g) := fun h _ =>
  rtX 0x16 (fun w => dXr2 w .clz) rfl (dXr2_rt (f := .clz) h).1 (by decide) (fun w hw => by unfold decodeX; rw [hw]; rfl) (dXr2_rt (f := .clz) h).2

theorem popc (d : Nat) (a : Nat) (g : Guard) : Statement (.popc d a g) := fun h _ =>
  rtX 0x17 (fun w => dXr2 w .popc) rfl (dXr2_rt (f := .popc) h).1 (by decide) (fun w hw => by unfold decodeX; rw [hw]; rfl) (dXr2_rt (f := .popc) h).2

theorem sext (d : Nat) (a : Nat) (w : Nat) (g : Guard) : Statement (.sext d a w g) := fun h _ =>
  rtX 0x18 (fun w => dExt w .sext) rfl (dExt_rt (f := .sext) h).1 (by decide) (fun w hw => by unfold decodeX; rw [hw]; rfl) (dExt_rt (f := .sext) h).2

theorem zext (d : Nat) (a : Nat) (w : Nat) (g : Guard) : Statement (.zext d a w g) := fun h _ =>
  rtX 0x19 (fun w => dExt w .zext) rfl (dExt_rt (f := .zext) h).1 (by decide) (fun w hw => by unfold decodeX; rw [hw]; rfl) (dExt_rt (f := .zext) h).2

theorem cmpeq (d : Nat) (a : Nat) (b : Nat) (g : Guard) : Statement (.cmpeq d a b g) := fun h _ =>
  rtX 0x1A (fun w => dXr3 w .cmpeq) rfl (dXr3_rt (f := .cmpeq) h).1 (by decide) (fun w hw => by unfold decodeX; rw [hw]; rfl) (dXr3_rt (f := .cmpeq) h).2

theorem cmpne (d : Nat) (a : Nat) (b : Nat) (g : Guard) : Statement (.cmpne d a b g) := fun h _ =>
  rtX 0x1B (fun w => dXr3 w .cmpne) rfl (dXr3_rt (f := .cmpne) h).1 (by decide) (fun w hw => by unfold decodeX; rw [hw]; rfl) (dXr3_rt (f := .cmpne) h).2

theorem cmplt (d : Nat) (a : Nat) (b : Nat) (g : Guard) : Statement (.cmplt d a b g) := fun h _ =>
  rtX 0x1C (fun w => dXr3 w .cmplt) rfl (dXr3_rt (f := .cmplt) h).1 (by decide) (fun w hw => by unfold decodeX; rw [hw]; rfl) (dXr3_rt (f := .cmplt) h).2

theorem cmple (d : Nat) (a : Nat) (b : Nat) (g : Guard) : Statement (.cmple d a b g) := fun h _ =>
  rtX 0x1D (fun w => dXr3 w .cmple) rfl (dXr3_rt (f := .cmple) h).1 (by decide) (fun w hw => by unfold decodeX; rw [hw]; rfl) (dXr3_rt (f := .cmple) h).2

theorem cmpltn (d : Nat) (a : Nat) (b : Nat) (g : Guard) : Statement (.cmpltn d a b g) := fun h _ =>
  rtX 0x1E (fun w => dXr3 w .cmpltn) rfl (dXr3_rt (f := .cmpltn) h).1 (by decide) (fun w hw => by unfold decodeX; rw [hw]; rfl) (dXr3_rt (f := .cmpltn) h).2

theorem cmplen (d : Nat) (a : Nat) (b : Nat) (g : Guard) : Statement (.cmplen d a b g) := fun h _ =>
  rtX 0x1F (fun w => dXr3 w .cmplen) rfl (dXr3_rt (f := .cmplen) h).1 (by decide) (fun w hw => by unfold decodeX; rw [hw]; rfl) (dXr3_rt (f := .cmplen) h).2

theorem addi (d : Nat) (a : Nat) (imm : Int) : Statement (.addi d a imm) := fun h _ =>
  rtX 0x20 (fun w => dXi w .addi) rfl (dXi_rt (f := .addi) h).1 (by decide) (fun w hw => by unfold decodeX; rw [hw]; rfl) (dXi_rt (f := .addi) h).2

theorem andi (d : Nat) (a : Nat) (imm : Int) : Statement (.andi d a imm) := fun h _ =>
  rtX 0x21 (fun w => dXi w .andi) rfl (dXi_rt (f := .andi) h).1 (by decide) (fun w hw => by unfold decodeX; rw [hw]; rfl) (dXi_rt (f := .andi) h).2

theorem ori (d : Nat) (a : Nat) (imm : Int) : Statement (.ori d a imm) := fun h _ =>
  rtX 0x22 (fun w => dXi w .ori) rfl (dXi_rt (f := .ori) h).1 (by decide) (fun w hw => by unfold decodeX; rw [hw]; rfl) (dXi_rt (f := .ori) h).2

theorem xori (d : Nat) (a : Nat) (imm : Int) : Statement (.xori d a imm) := fun h _ =>
  rtX 0x23 (fun w => dXi w .xori) rfl (dXi_rt (f := .xori) h).1 (by decide) (fun w hw => by unfold decodeX; rw [hw]; rfl) (dXi_rt (f := .xori) h).2

theorem shli (d : Nat) (a : Nat) (n : Nat) : Statement (.shli d a n) := fun h _ =>
  rtX 0x24 (fun w => dXsh w .shli) rfl (dXsh_rt (f := .shli) h).1 (by decide) (fun w hw => by unfold decodeX; rw [hw]; rfl) (dXsh_rt (f := .shli) h).2

theorem shri (d : Nat) (a : Nat) (n : Nat) : Statement (.shri d a n) := fun h _ =>
  rtX 0x25 (fun w => dXsh w .shri) rfl (dXsh_rt (f := .shri) h).1 (by decide) (fun w hw => by unfold decodeX; rw [hw]; rfl) (dXsh_rt (f := .shri) h).2

theorem srai (d : Nat) (a : Nat) (n : Nat) : Statement (.srai d a n) := fun h _ =>
  rtX 0x26 (fun w => dXsh w .srai) rfl (dXsh_rt (f := .srai) h).1 (by decide) (fun w hw => by unfold decodeX; rw [hw]; rfl) (dXsh_rt (f := .srai) h).2

theorem cmpeqi (d : Nat) (a : Nat) (imm : Int) : Statement (.cmpeqi d a imm) := fun h _ =>
  rtX 0x27 (fun w => dXi w .cmpeqi) rfl (dXi_rt (f := .cmpeqi) h).1 (by decide) (fun w hw => by unfold decodeX; rw [hw]; rfl) (dXi_rt (f := .cmpeqi) h).2

theorem cmplti (d : Nat) (a : Nat) (imm : Int) : Statement (.cmplti d a imm) := fun h _ =>
  rtX 0x28 (fun w => dXi w .cmplti) rfl (dXi_rt (f := .cmplti) h).1 (by decide) (fun w hw => by unfold decodeX; rw [hw]; rfl) (dXi_rt (f := .cmplti) h).2

theorem cmpltni (d : Nat) (a : Nat) (imm : Int) : Statement (.cmpltni d a imm) := fun h _ =>
  rtX 0x29 (fun w => dXi w .cmpltni) rfl (dXi_rt (f := .cmpltni) h).1 (by decide) (fun w hw => by unfold decodeX; rw [hw]; rfl) (dXi_rt (f := .cmpltni) h).2

theorem sethi (d : Nat) (imm : Int) : Statement (.sethi d imm) := by
  intro h _
  replace h : (r6 d && sfits 19 imm) = true := h
  simp only [r6, Bool.and_eq_true, decide_eq_true_eq] at h
  obtain ⟨o1, o2⟩ := ofS_spec (by decide) h.2
  have e1 : eXn 0x2A d 0 (ofS 19 imm) / 2 ^ 25 = 0x2A ∧ xd (eXn 0x2A d 0 (ofS 19 imm)) = d ∧
      fld (eXn 0x2A d 0 (ofS 19 imm)) 18 0 = ofS 19 imm := by simp only [eXn, xd, fld]; omega
  refine rtX 0x2A (fun w => .ok (.sethi (xd w) (sfld 19 (fld w 18 0)))) rfl e1.1 (by decide) (fun w hw => by unfold decodeX; rw [hw]; rfl) ?_
  change Except.ok (Instr.sethi (xd (eXn 0x2A d 0 (ofS 19 imm))) (sfld 19 (fld (eXn 0x2A d 0 (ofS 19 imm)) 18 0))) = _
  rw [e1.2.1, e1.2.2, o2]

theorem kand (d : Nat) (a : Nat) (b : Nat) (g : Guard) : Statement (.kand d a b g) := by
  intro h _
  obtain ⟨e1, e2, e3⟩ := dK3_rt (op := 0x30) (f := .kand) (by decide : 0 < 4) h
  refine rtX 0x30 (fun w =>
      match xsub w with
      | 0 => dK3 w .kand
      | 1 => dK3 w .kandn
      | _ => .error .illegalOpcode) rfl e1 (by decide) (fun w hw => by unfold decodeX; rw [hw]; rfl) ?_
  exact (show ∀ w, xsub w = 0 → dK3 w .kand = .ok (.kand d a b g) → (fun w =>
        match xsub w with
        | 0 => dK3 w .kand
        | 1 => dK3 w .kandn
        | _ => .error .illegalOpcode) w = .ok (.kand d a b g) from
    fun w p q => by simp only [p]; exact q) _ e2 e3

theorem kandn (d : Nat) (a : Nat) (b : Nat) (g : Guard) : Statement (.kandn d a b g) := by
  intro h _
  obtain ⟨e1, e2, e3⟩ := dK3_rt (op := 0x30) (f := .kandn) (by decide : 1 < 4) h
  refine rtX 0x30 (fun w =>
      match xsub w with
      | 0 => dK3 w .kand
      | 1 => dK3 w .kandn
      | _ => .error .illegalOpcode) rfl e1 (by decide) (fun w hw => by unfold decodeX; rw [hw]; rfl) ?_
  exact (show ∀ w, xsub w = 1 → dK3 w .kandn = .ok (.kandn d a b g) → (fun w =>
        match xsub w with
        | 0 => dK3 w .kand
        | 1 => dK3 w .kandn
        | _ => .error .illegalOpcode) w = .ok (.kandn d a b g) from
    fun w p q => by simp only [p]; exact q) _ e2 e3

theorem kor (d : Nat) (a : Nat) (b : Nat) (g : Guard) : Statement (.kor d a b g) := by
  intro h _
  obtain ⟨e1, e2, e3⟩ := dK3_rt (op := 0x31) (f := .kor) (by decide : 0 < 4) h
  refine rtX 0x31 (fun w => chk (xsub w == 0) .illegalOpcode <| dK3 w .kor) rfl e1 (by decide) (fun w hw => by unfold decodeX; rw [hw]; rfl) ?_
  exact (show ∀ w, xsub w = 0 → dK3 w .kor = .ok (.kor d a b g) → (fun w => chk (xsub w == 0) .illegalOpcode <| dK3 w .kor) w = .ok (.kor d a b g) from
    fun w p q => by simp only [p]; exact q) _ e2 e3

theorem kxor (d : Nat) (a : Nat) (b : Nat) (g : Guard) : Statement (.kxor d a b g) := by
  intro h _
  obtain ⟨e1, e2, e3⟩ := dK3_rt (op := 0x32) (f := .kxor) (by decide : 0 < 4) h
  refine rtX 0x32 (fun w => chk (xsub w == 0) .illegalOpcode <| dK3 w .kxor) rfl e1 (by decide) (fun w hw => by unfold decodeX; rw [hw]; rfl) ?_
  exact (show ∀ w, xsub w = 0 → dK3 w .kxor = .ok (.kxor d a b g) → (fun w => chk (xsub w == 0) .illegalOpcode <| dK3 w .kxor) w = .ok (.kxor d a b g) from
    fun w p q => by simp only [p]; exact q) _ e2 e3

theorem knot (d : Nat) (a : Nat) (g : Guard) : Statement (.knot d a g) := by
  intro h _
  obtain ⟨e1, e2, e3⟩ := dK2_rt (op := 0x33) (f := .knot) h
  refine rtX 0x33 (fun w => chk (xsub w == 0) .illegalOpcode <| dK2 w .knot) rfl e1 (by decide) (fun w hw => by unfold decodeX; rw [hw]; rfl) ?_
  exact (show ∀ w, xsub w = 0 → dK2 w .knot = .ok (.knot d a g) → (fun w => chk (xsub w == 0) .illegalOpcode <| dK2 w .knot) w = .ok (.knot d a g) from
    fun w p q => by simp only [p]; exact q) _ e2 e3

theorem kmov (d : Nat) (a : Nat) (g : Guard) : Statement (.kmov d a g) := by
  intro h _
  obtain ⟨e1, e2, e3⟩ := dK2_rt (op := 0x34) (f := .kmov) h
  refine rtX 0x34 (fun w =>
      match xsub w with
      | 0 => dK2 w .kmov
      | 1 => dKs w .kmovB
      | 2 => dKs w .kmovLo
      | _ => .error .illegalOpcode) rfl e1 (by decide) (fun w hw => by unfold decodeX; rw [hw]; rfl) ?_
  exact (show ∀ w, xsub w = 0 → dK2 w .kmov = .ok (.kmov d a g) → (fun w =>
        match xsub w with
        | 0 => dK2 w .kmov
        | 1 => dKs w .kmovB
        | 2 => dKs w .kmovLo
        | _ => .error .illegalOpcode) w = .ok (.kmov d a g) from
    fun w p q => by simp only [p]; exact q) _ e2 e3

theorem kmovB (d : Nat) (sr : Nat) (g : Guard) : Statement (.kmovB d sr g) := by
  intro h _
  obtain ⟨e1, e2, e3⟩ := dKs_rt (op := 0x34) (f := .kmovB) (by decide : 1 < 4) h
  refine rtX 0x34 (fun w =>
      match xsub w with
      | 0 => dK2 w .kmov
      | 1 => dKs w .kmovB
      | 2 => dKs w .kmovLo
      | _ => .error .illegalOpcode) rfl e1 (by decide) (fun w hw => by unfold decodeX; rw [hw]; rfl) ?_
  exact (show ∀ w, xsub w = 1 → dKs w .kmovB = .ok (.kmovB d sr g) → (fun w =>
        match xsub w with
        | 0 => dK2 w .kmov
        | 1 => dKs w .kmovB
        | 2 => dKs w .kmovLo
        | _ => .error .illegalOpcode) w = .ok (.kmovB d sr g) from
    fun w p q => by simp only [p]; exact q) _ e2 e3

theorem kmovLo (d : Nat) (sr : Nat) (g : Guard) : Statement (.kmovLo d sr g) := by
  intro h _
  obtain ⟨e1, e2, e3⟩ := dKs_rt (op := 0x34) (f := .kmovLo) (by decide : 2 < 4) h
  refine rtX 0x34 (fun w =>
      match xsub w with
      | 0 => dK2 w .kmov
      | 1 => dKs w .kmovB
      | 2 => dKs w .kmovLo
      | _ => .error .illegalOpcode) rfl e1 (by decide) (fun w hw => by unfold decodeX; rw [hw]; rfl) ?_
  exact (show ∀ w, xsub w = 2 → dKs w .kmovLo = .ok (.kmovLo d sr g) → (fun w =>
        match xsub w with
        | 0 => dK2 w .kmov
        | 1 => dKs w .kmovB
        | 2 => dKs w .kmovLo
        | _ => .error .illegalOpcode) w = .ok (.kmovLo d sr g) from
    fun w p q => by simp only [p]; exact q) _ e2 e3

theorem krd (sr : Nat) (a : Nat) (q : Nat) (g : Guard) : Statement (.krd sr a q g) := by
  intro h _
  replace h : (r6 sr && rk a && decide (q < 4) && g.wf) = true := h
  simp only [r6, rk, Bool.and_eq_true, decide_eq_true_eq] at h
  obtain ⟨⟨⟨hr, ha⟩, hq⟩, hg⟩ := h
  obtain ⟨e1, e2, e3⟩ := dSk_rt (op := 0x35) (f := fun d a g => .krd d a q g) (hq) hr ha hg
  refine rtX 0x35 (fun w => dSk w fun d a g => .krd d a (xsub w) g) rfl e1 (by decide) (fun w hw => by unfold decodeX; rw [hw]; rfl) ?_
  simp only [encode, e2]
  exact e3

theorem kfirst (sr : Nat) (a : Nat) (g : Guard) : Statement (.kfirst sr a g) := by
  intro h _
  replace h : (r6 sr && rk a && g.wf) = true := h
  simp only [r6, rk, Bool.and_eq_true, decide_eq_true_eq] at h
  obtain ⟨⟨hr, ha⟩, hg⟩ := h
  obtain ⟨e1, e2, e3⟩ := dSk_rt (op := 0x36) (f := .kfirst) (by decide : 0 < 4) hr ha hg
  refine rtX 0x36 (fun w => chk (xsub w == 0) .illegalOpcode <| dSk w .kfirst) rfl e1 (by decide) (fun w hw => by unfold decodeX; rw [hw]; rfl) ?_
  simp only [encode, e2]
  exact e3

theorem br (g : Guard) (off : Int) : Statement (.br g off) := fun h _ =>
  rtX 0x40 (fun w => dXb w .br) rfl (dXb_rt (f := .br) h).1 (by decide) (fun w hw => by unfold decodeX; rw [hw]; rfl) (dXb_rt (f := .br) h).2

theorem jmp (g : Guard) (off : Nat) : Statement (.jmp g off) := by
  intro h _
  replace h : (g.wf && decide (off < 2 ^ 20)) = true := h
  simp only [Bool.and_eq_true, decide_eq_true_eq] at h
  obtain ⟨e1, e2, e3⟩ := eXb_spec (op := 0x41) h.1 h.2
  refine rtX 0x41 (fun w => chkG (fld w 24 20) fun g => .ok (.jmp g (fld w 19 0))) rfl e1 (by decide) (fun w hw => by unfold decodeX; rw [hw]; rfl) ?_
  simp only [encode]
  rw [chkG_rt e2 h.1, e3]

theorem jr (a : Nat) (g : Guard) : Statement (.jr a g) := fun h _ =>
  rtX 0x42 (fun w => dJr w .jr) rfl (dJr_rt (f := .jr) h).1 (by decide) (fun w hw => by unfold decodeX; rw [hw]; rfl) (dJr_rt (f := .jr) h).2

theorem call (g : Guard) (off : Int) : Statement (.call g off) := fun h _ =>
  rtX 0x43 (fun w => dXb w .call) rfl (dXb_rt (f := .call) h).1 (by decide) (fun w hw => by unfold decodeX; rw [hw]; rfl) (dXb_rt (f := .call) h).2

theorem callr (d : Nat) (a : Nat) (g : Guard) : Statement (.callr d a g) := fun h _ =>
  rtX 0x44 (fun w => dXr2 w .callr) rfl (dXr2_rt (f := .callr) h).1 (by decide) (fun w hw => by unfold decodeX; rw [hw]; rfl) (dXr2_rt (f := .callr) h).2

theorem ret (a : Nat) (g : Guard) : Statement (.ret a g) := fun h _ =>
  rtX 0x45 (fun w => dJr w .ret) rfl (dJr_rt (f := .ret) h).1 (by decide) (fun w hw => by unfold decodeX; rw [hw]; rfl) (dJr_rt (f := .ret) h).2

theorem loop (lc : Nat) (n : Nat) (fin : Nat) : Statement (.loop lc n fin) := by
  intro h _
  replace h : (decide (lc < 2) && r6 n && decide (fin < 2 ^ 18)) = true := h
  simp only [r6, Bool.and_eq_true, decide_eq_true_eq] at h
  obtain ⟨⟨h1, h2⟩, h3⟩ := h
  have e : (0x46 * 2 ^ 25 + lc * 2 ^ 24 + n * 2 ^ 18 + fin) / 2 ^ 25 = 0x46 ∧
      fld (0x46 * 2 ^ 25 + lc * 2 ^ 24 + n * 2 ^ 18 + fin) 24 24 = lc ∧
      fld (0x46 * 2 ^ 25 + lc * 2 ^ 24 + n * 2 ^ 18 + fin) 23 18 = n ∧
      fld (0x46 * 2 ^ 25 + lc * 2 ^ 24 + n * 2 ^ 18 + fin) 17 0 = fin := by simp only [fld]; omega
  refine rtX 0x46 (fun w => .ok (.loop (fld w 24 24) (fld w 23 18) (fld w 17 0))) rfl e.1 (by decide) (fun w hw => by unfold decodeX; rw [hw]; rfl) ?_
  simp only [encode]
  generalize 0x46 * 2 ^ 25 + lc * 2 ^ 24 + n * 2 ^ 18 + fin = w at *
  rw [e.2.1, e.2.2.1, e.2.2.2]

theorem lbrk (g : Guard) (off : Int) : Statement (.lbrk g off) := fun h _ =>
  rtX 0x47 (fun w => dXb w .lbrk) rfl (dXb_rt (f := .lbrk) h).1 (by decide) (fun w hw => by unfold decodeX; rw [hw]; rfl) (dXb_rt (f := .lbrk) h).2

theorem mfs (d : Nat) (n : Nat) : Statement (.mfs d n) := by
  intro h _
  replace h : (r6 d && decide (n < 8192)) = true := h
  simp only [r6, Bool.and_eq_true, decide_eq_true_eq] at h
  obtain ⟨e1, e2, e3, e4⟩ := eXn_spec (op := 0x50) h.1 (by decide : 0 < 64) h.2
  refine rtX 0x50 (fun w =>
      if xa w = 0 then .ok (.mfs (xd w) (fld w 12 0))
      else .error (if specKnown (fld w 12 0) then .illegalBundle else .illegalOpcode)) rfl e1 (by decide) (fun w hw => by unfold decodeX; rw [hw]; rfl) ?_
  simp only [encode, e3, if_true, e2, e4]

theorem mts (a : Nat) (n : Nat) : Statement (.mts a n) := by
  intro h _
  replace h : (r6 a && decide (n < 8192)) = true := h
  simp only [r6, Bool.and_eq_true, decide_eq_true_eq] at h
  obtain ⟨e1, e2, e3, e4⟩ := eXn_spec (op := 0x51) (by decide : 0 < 64) h.1 h.2
  refine rtX 0x51 (fun w =>
      if xd w = 0 then .ok (.mts (xa w) (fld w 12 0))
      else .error (if specWritable (fld w 12 0) then .illegalBundle else .illegalOpcode)) rfl e1 (by decide) (fun w hw => by unfold decodeX; rw [hw]; rfl) ?_
  simp only [encode, e2, if_true, e3, e4]

theorem trapi (code : Nat) : Statement (.trapi code) := by
  intro h _
  replace h : decide (code < 8192) = true := h
  simp only [decide_eq_true_eq] at h
  obtain ⟨e1, e2, e3, e4⟩ := eXn_spec (op := 0x52) (by decide : 0 < 64) (by decide : 0 < 64) h
  refine rtX 0x52 (fun w => chk (xd w == 0 && xa w == 0) .illegalBundle <| .ok (.trapi (fld w 12 0))) rfl e1 (by decide) (fun w hw => by unfold decodeX; rw [hw]; rfl) ?_
  simp only [encode, e2, e3, e4]
  rfl

theorem tfence (g : Guard) : Statement (.tfence g) := by
  intro h _
  replace h : g.wf = true := h
  obtain ⟨e1, e2, e3, e4, e5, e6⟩ := eXr_spec (op := 0x53) (by decide : 0 < 64) (by decide : 0 < 64) (by decide : 0 < 64) h
    (by decide : 0 < 4)
  refine rtX 0x53 (fun w =>
      chk (xsub w == 0) .illegalOpcode <| chk (xd w == 0 && xa w == 0 && xb w == 0) .illegalBundle <|
        chkG (xg w) fun g => .ok (.tfence g)) rfl e1 (by decide) (fun w hw => by unfold decodeX; rw [hw]; rfl) ?_
  simp only [encode, e2, e3, e4, e6, chkG_rt e5 h]
  rfl

theorem eret : Statement .eret := by
  intro h _
  refine rtX 0x54 (fun w => chk (xsub w == 0) .illegalOpcode <| chk (fld w 24 2 == 0) .illegalBundle <| .ok .eret) rfl rfl (by decide) (fun w hw => by unfold decodeX; rw [hw]; rfl) ?_
  rfl

theorem nop (e : Nat) (sp : Bool) : Statement (.nop e sp) := by
  intro h _
  have h' : (decide (1 ≤ e) && decide (e < 16)) = true := h
  simp only [Bool.and_eq_true, decide_eq_true_eq] at h'
  have hb := bit_lt sp
  have hbb := bit_eq_one sp
  have e1 : fld (e * 2 ^ 20 + bit sp * 2 ^ 19) 31 24 = 0 := by simp only [fld]; omega
  have e2 : fld (e * 2 ^ 20 + bit sp * 2 ^ 19) 18 0 = 0 := by simp only [fld]; omega
  have e3 : fld (e * 2 ^ 20 + bit sp * 2 ^ 19) 23 20 = e := by simp only [fld]; omega
  have e4 : fld (e * 2 ^ 20 + bit sp * 2 ^ 19) 19 19 = bit sp := by simp only [fld]; omega
  refine ⟨?_, show e * 2 ^ 20 + bit sp * 2 ^ 19 < 2 ^ 32 by omega⟩
  change decodeHdr (e * 2 ^ 20 + bit sp * 2 ^ 19) = _
  generalize e * 2 ^ 20 + bit sp * 2 ^ 19 = w at *
  have h0 : (e != 0) = true := by simp; omega
  simp only [decodeHdr, e1, e2, e3, e4, h0, hbb]
  rfl

theorem vadd (t : Ty) (d : Nat) (a : Nat) (b : Nat) (g : Guard) (m : Bool) : Statement (.vadd t d a b g m) := fun h _ =>
  rtV 0x01 (fun w => dV3m w Ty.isInt tyIF .vadd) rfl (dV3m_rt (f := .vadd) h).1 (by decide) (fun w hw => by unfold decodeV; rw [hw]; rfl) (dV3m_rt (f := .vadd) h).2

theorem vsub (t : Ty) (d : Nat) (a : Nat) (b : Nat) (g : Guard) (m : Bool) : Statement (.vsub t d a b g m) := fun h _ =>
  rtV 0x02 (fun w => dV3m w Ty.isInt tyIF .vsub) rfl (dV3m_rt (f := .vsub) h).1 (by decide) (fun w hw => by unfold decodeV; rw [hw]; rfl) (dV3m_rt (f := .vsub) h).2

theorem vmul (t : Ty) (d : Nat) (a : Nat) (b : Nat) (g : Guard) (m : Bool) : Statement (.vmul t d a b g m) := fun h _ =>
  rtV 0x03 (fun w => dV3m w Ty.isInt tyIF .vmul) rfl (dV3m_rt (f := .vmul) h).1 (by decide) (fun w hw => by unfold decodeV; rw [hw]; rfl) (dV3m_rt (f := .vmul) h).2

theorem vfma (t : Ty) (d : Nat) (a : Nat) (b : Nat) (g : Guard) (m : Bool) : Statement (.vfma t d a b g m) := fun h _ =>
  rtV 0x04 (fun w => dV3m w Ty.isInt tyIF .vfma) rfl (dV3m_rt (f := .vfma) h).1 (by decide) (fun w hw => by unfold decodeV; rw [hw]; rfl) (dV3m_rt (f := .vfma) h).2

theorem vfms (t : Ty) (d : Nat) (a : Nat) (b : Nat) (g : Guard) (m : Bool) : Statement (.vfms t d a b g m) := fun h _ =>
  rtV 0x05 (fun w => dV3m w Ty.isInt tyIF .vfms) rfl (dV3m_rt (f := .vfms) h).1 (by decide) (fun w hw => by unfold decodeV; rw [hw]; rfl) (dV3m_rt (f := .vfms) h).2

theorem vmin (t : Ty) (d : Nat) (a : Nat) (b : Nat) (g : Guard) (m : Bool) : Statement (.vmin t d a b g m) := fun h _ =>
  rtV 0x06 (fun w => dV3m w Ty.isF tyIF .vmin) rfl (dV3m_rt (f := .vmin) h).1 (by decide) (fun w hw => by unfold decodeV; rw [hw]; rfl) (dV3m_rt (f := .vmin) h).2

theorem vmax (t : Ty) (d : Nat) (a : Nat) (b : Nat) (g : Guard) (m : Bool) : Statement (.vmax t d a b g m) := fun h _ =>
  rtV 0x07 (fun w => dV3m w Ty.isF tyIF .vmax) rfl (dV3m_rt (f := .vmax) h).1 (by decide) (fun w hw => by unfold decodeV; rw [hw]; rfl) (dV3m_rt (f := .vmax) h).2

theorem vabs (t : Ty) (d : Nat) (a : Nat) (g : Guard) (m : Bool) : Statement (.vabs t d a g m) := fun h _ =>
  rtV 0x08 (fun w => dV2m w Ty.isSigned tyIF .vabs) rfl (dV2m_rt (f := .vabs) h).1 (by decide) (fun w hw => by unfold decodeV; rw [hw]; rfl) (dV2m_rt (f := .vabs) h).2

theorem vneg (t : Ty) (d : Nat) (a : Nat) (g : Guard) (m : Bool) : Statement (.vneg t d a g m) := fun h _ =>
  rtV 0x09 (fun w => dV2m w Ty.isInt tyIF .vneg) rfl (dV2m_rt (f := .vneg) h).1 (by decide) (fun w hw => by unfold decodeV; rw [hw]; rfl) (dV2m_rt (f := .vneg) h).2

theorem vdot4 (t : Ty) (d : Nat) (a : Nat) (b : Nat) (g : Guard) (m : Bool) : Statement (.vdot4 t d a b g m) := by
  intro h _
  have h2 : (wV3 tyDot4 t d a b g && mOk (fun t => t == .i8 || t == .n8) t m) = true := by
    replace h : (wV3 tyDot4 t d a b g && mOk Ty.isInt t m) = true := h
    rw [Bool.and_eq_true] at h ⊢
    refine ⟨h.1, ?_⟩
    have h1 : tyDot4 t = true := by
      have := h.1
      simp only [wV3, Bool.and_eq_true] at this
      exact this.1.1.1.1
    have h3 := h.2
    clear h
    revert h1 h3
    cases t <;> cases m <;> decide
  obtain ⟨e1, e2⟩ := dV3m_rt (op := 0x0A) (f := .vdot4) h2
  refine rtV 0x0A (fun w => dV3m w (fun t => t == .i8 || t == .n8) tyDot4 .vdot4) rfl e1 (by decide) (fun w hw => by unfold decodeV; rw [hw]; rfl) ?_
  exact e2

theorem vdot2 (t : Ty) (d : Nat) (a : Nat) (b : Nat) (g : Guard) (m : Bool) : Statement (.vdot2 t d a b g m) := by
  intro h _
  have h2 : (wV3 tyDot2 t d a b g && mOk (fun t => t == .i16 || t == .n16) t m) = true := by
    replace h : (wV3 tyDot2 t d a b g && mOk Ty.isInt t m) = true := h
    rw [Bool.and_eq_true] at h ⊢
    refine ⟨h.1, ?_⟩
    have h1 : tyDot2 t = true := by
      have := h.1
      simp only [wV3, Bool.and_eq_true] at this
      exact this.1.1.1.1
    have h3 := h.2
    clear h
    revert h1 h3
    cases t <;> cases m <;> decide
  obtain ⟨e1, e2⟩ := dV3m_rt (op := 0x0B) (f := .vdot2) h2
  refine rtV 0x0B (fun w => dV3m w (fun t => t == .i16 || t == .n16) tyDot2 .vdot2) rfl e1 (by decide) (fun w hw => by unfold decodeV; rw [hw]; rfl) ?_
  exact e2

theorem vand (t : Ty) (d : Nat) (a : Nat) (b : Nat) (g : Guard) : Statement (.vand t d a b g) := fun h _ =>
  rtV 0x0C (fun w => dV3 w Ty.isInt .vand) rfl (dV3_rt (f := .vand) h).1 (by decide) (fun w hw => by unfold decodeV; rw [hw]; rfl) (dV3_rt (f := .vand) h).2

theorem vor (t : Ty) (d : Nat) (a : Nat) (b : Nat) (g : Guard) : Statement (.vor t d a b g) := fun h _ =>
  rtV 0x0D (fun w => dV3 w Ty.isInt .vor) rfl (dV3_rt (f := .vor) h).1 (by decide) (fun w hw => by unfold decodeV; rw [hw]; rfl) (dV3_rt (f := .vor) h).2

theorem vxor (t : Ty) (d : Nat) (a : Nat) (b : Nat) (g : Guard) : Statement (.vxor t d a b g) := fun h _ =>
  rtV 0x0E (fun w => dV3 w Ty.isInt .vxor) rfl (dV3_rt (f := .vxor) h).1 (by decide) (fun w hw => by unfold decodeV; rw [hw]; rfl) (dV3_rt (f := .vxor) h).2

theorem vnot (t : Ty) (d : Nat) (a : Nat) (g : Guard) : Statement (.vnot t d a g) := fun h _ =>
  rtV 0x0F (fun w => dV2 w Ty.isInt .vnot) rfl (dV2_rt (f := .vnot) h).1 (by decide) (fun w hw => by unfold decodeV; rw [hw]; rfl) (dV2_rt (f := .vnot) h).2

theorem vshl (t : Ty) (d : Nat) (a : Nat) (b : Nat) (g : Guard) : Statement (.vshl t d a b g) := fun h _ =>
  rtV 0x10 (fun w => dVsh w .vshl .vshlImm) rfl (dVsh_rt (f := .vshl) (fi := .vshlImm) h).1 (by decide) (fun w hw => by unfold decodeV; rw [hw]; rfl) (dVsh_rt (f := .vshl) (fi := .vshlImm) h).2

theorem vshlImm (t : Ty) (d : Nat) (a : Nat) (n : Nat) (g : Guard) : Statement (.vshlImm t d a n g) := fun h _ =>
  rtV 0x10 (fun w => dVsh w .vshl .vshlImm) rfl (dVshImm_rt (f := .vshl) (fi := .vshlImm) h).1 (by decide) (fun w hw => by unfold decodeV; rw [hw]; rfl) (dVshImm_rt (f := .vshl) (fi := .vshlImm) h).2

theorem vshr (t : Ty) (d : Nat) (a : Nat) (b : Nat) (g : Guard) : Statement (.vshr t d a b g) := fun h _ =>
  rtV 0x11 (fun w => dVsh w .vshr .vshrImm) rfl (dVsh_rt (f := .vshr) (fi := .vshrImm) h).1 (by decide) (fun w hw => by unfold decodeV; rw [hw]; rfl) (dVsh_rt (f := .vshr) (fi := .vshrImm) h).2

theorem vshrImm (t : Ty) (d : Nat) (a : Nat) (n : Nat) (g : Guard) : Statement (.vshrImm t d a n g) := fun h _ =>
  rtV 0x11 (fun w => dVsh w .vshr .vshrImm) rfl (dVshImm_rt (f := .vshr) (fi := .vshrImm) h).1 (by decide) (fun w hw => by unfold decodeV; rw [hw]; rfl) (dVshImm_rt (f := .vshr) (fi := .vshrImm) h).2

theorem vsra (t : Ty) (d : Nat) (a : Nat) (b : Nat) (g : Guard) : Statement (.vsra t d a b g) := fun h _ =>
  rtV 0x12 (fun w => dVsh w .vsra .vsraImm) rfl (dVsh_rt (f := .vsra) (fi := .vsraImm) h).1 (by decide) (fun w hw => by unfold decodeV; rw [hw]; rfl) (dVsh_rt (f := .vsra) (fi := .vsraImm) h).2

theorem vsraImm (t : Ty) (d : Nat) (a : Nat) (n : Nat) (g : Guard) : Statement (.vsraImm t d a n g) := fun h _ =>
  rtV 0x12 (fun w => dVsh w .vsra .vsraImm) rfl (dVshImm_rt (f := .vsra) (fi := .vsraImm) h).1 (by decide) (fun w hw => by unfold decodeV; rw [hw]; rfl) (dVshImm_rt (f := .vsra) (fi := .vsraImm) h).2

theorem vcmpeq (t : Ty) (kd : Nat) (a : Nat) (b : Nat) (g : Guard) : Statement (.vcmpeq t kd a b g) := fun h _ =>
  rtV 0x13 (fun w => dVc w .vcmpeq) rfl (dVc_rt (f := .vcmpeq) h).1 (by decide) (fun w hw => by unfold decodeV; rw [hw]; rfl) (dVc_rt (f := .vcmpeq) h).2

theorem vcmpne (t : Ty) (kd : Nat) (a : Nat) (b : Nat) (g : Guard) : Statement (.vcmpne t kd a b g) := fun h _ =>
  rtV 0x14 (fun w => dVc w .vcmpne) rfl (dVc_rt (f := .vcmpne) h).1 (by decide) (fun w hw => by unfold decodeV; rw [hw]; rfl) (dVc_rt (f := .vcmpne) h).2

theorem vcmplt (t : Ty) (kd : Nat) (a : Nat) (b : Nat) (g : Guard) : Statement (.vcmplt t kd a b g) := fun h _ =>
  rtV 0x15 (fun w => dVc w .vcmplt) rfl (dVc_rt (f := .vcmplt) h).1 (by decide) (fun w hw => by unfold decodeV; rw [hw]; rfl) (dVc_rt (f := .vcmplt) h).2

theorem vcmple (t : Ty) (kd : Nat) (a : Nat) (b : Nat) (g : Guard) : Statement (.vcmple t kd a b g) := fun h _ =>
  rtV 0x16 (fun w => dVc w .vcmple) rfl (dVc_rt (f := .vcmple) h).1 (by decide) (fun w hw => by unfold decodeV; rw [hw]; rfl) (dVc_rt (f := .vcmple) h).2

theorem vsel (t : Ty) (d : Nat) (a : Nat) (b : Nat) (g : Guard) : Statement (.vsel t d a b g) := fun h _ =>
  rtV 0x17 (fun w => dV3 w tyB .vsel) rfl (dV3_rt (f := .vsel) h).1 (by decide) (fun w hw => by unfold decodeV; rw [hw]; rfl) (dV3_rt (f := .vsel) h).2

theorem vmov (t : Ty) (d : Nat) (a : Nat) (g : Guard) : Statement (.vmov t d a g) := fun h _ =>
  rtV 0x18 (fun w => dV2 w tyB .vmov) rfl (dV2_rt (f := .vmov) h).1 (by decide) (fun w hw => by unfold decodeV; rw [hw]; rfl) (dV2_rt (f := .vmov) h).2

theorem vbcast (t : Ty) (d : Nat) (a : Nat) (c : Nat) (g : Guard) : Statement (.vbcast t d a c g) := by
  intro h _
  replace h : (wV2 tyB t d a g && decide (c < t.lanes)) = true := h
  simp only [wV2, r10, Bool.and_eq_true, decide_eq_true_eq] at h
  obtain ⟨⟨⟨⟨ht, hd⟩, ha⟩, hg⟩, hc⟩ := h
  have hl := lanes_le t ht
  obtain ⟨e1, e2, e3, e4, e5, e6, e7⟩ := eV_spec (op := 0x19) (t := t) (m := false) hd ha (by omega : c < 1024) hg
  refine rtV 0x19 (fun w =>
      if vm w then
        chk (fld w 25 22 == 0 && vb w == 0) .illegalBundle <|
          dGT w tyB fun t g => .ok (.vbcastScalar t (vd w) (fld w 21 16) g)
      else dLane w <| dGT w tyB fun t g => .ok (.vbcast t (vd w) (va w) (vb w) g)) rfl e1 (by decide) (fun w hw => by unfold decodeV; rw [hw]; rfl) ?_
  have hc' : decide (c < t.lanes) = true := by simpa using hc
  simp only [encode, e7, Bool.false_eq_true, if_false, dLane, e5]
  rw [chkTd_rt e2 hc', dGT, chkG_rt e6 hg, chkT_rt e2 ht, e3, e4]

theorem vbcastScalar (t : Ty) (d : Nat) (sa : Nat) (g : Guard) : Statement (.vbcastScalar t d sa g) := by
  intro h _
  replace h : (tyB t && r10 d && r6 sa && g.wf) = true := h
  simp only [r6, r10, Bool.and_eq_true, decide_eq_true_eq] at h
  obtain ⟨⟨⟨ht, hd⟩, ha⟩, hg⟩ := h
  obtain ⟨e1, e2, e3, e4, e5, e6, e7⟩ := eV_spec (op := 0x19) (t := t) (m := true) hd (by omega : sa < 1024)
    (by decide : 0 < 1024) hg
  obtain ⟨-, -, -, -, q5, q6⟩ := vda_parts (eV 0x19 t.code d sa 0 g true)
  rw [e4] at q5 q6
  rw [Nat.div_eq_of_lt ha] at q5
  rw [Nat.mod_eq_of_lt ha] at q6
  refine rtV 0x19 (fun w =>
      if vm w then
        chk (fld w 25 22 == 0 && vb w == 0) .illegalBundle <|
          dGT w tyB fun t g => .ok (.vbcastScalar t (vd w) (fld w 21 16) g)
      else dLane w <| dGT w tyB fun t g => .ok (.vbcast t (vd w) (va w) (vb w) g)) rfl e1 (by decide) (fun w hw => by unfold decodeV; rw [hw]; rfl) ?_
  simp only [encode, e7, if_true, q5, q6, e5]
  rw [chk_rt (by rfl), dGT, chkG_rt e6 hg, chkT_rt e2 ht, e3]

theorem vlaneInsert (t : Ty) (d : Nat) (sa : Nat) (c : Nat) (g : Guard) : Statement (.vlaneInsert t d sa c g) := by
  intro h _
  replace h : (tyB t && r10 d && r6 sa && decide (c < t.lanes) && g.wf) = true := h
  simp only [r6, r10, Bool.and_eq_true, decide_eq_true_eq] at h
  obtain ⟨⟨⟨⟨ht, hd⟩, ha⟩, hc⟩, hg⟩ := h
  have hl := lanes_le t ht
  obtain ⟨e1, e2, e3, e4, e5, e6, e7⟩ := eV_spec (op := 0x1A) (t := t) (m := false) hd (by omega : sa < 1024)
    (by omega : c < 1024) hg
  obtain ⟨-, -, -, -, q5, q6⟩ := vda_parts (eV 0x1A t.code d sa c g false)
  rw [e4] at q5 q6
  rw [Nat.div_eq_of_lt ha] at q5
  rw [Nat.mod_eq_of_lt ha] at q6
  refine rtV 0x1A (fun w =>
      if vm w then
        chk (fld w 35 32 == 0) .illegalBundle <| dLane w <|
          dGT w tyB fun t g => .ok (.vlaneExtract t (fld w 31 26) (va w) (vb w) g)
      else
        chk (fld w 25 22 == 0) .illegalBundle <| dLane w <|
          dGT w tyB fun t g => .ok (.vlaneInsert t (vd w) (fld w 21 16) (vb w) g)) rfl e1 (by decide) (fun w hw => by unfold decodeV; rw [hw]; rfl) ?_
  have hc' : decide (c < t.lanes) = true := by simpa using hc
  simp only [encode, e7, Bool.false_eq_true, if_false, q5, q6, dLane, e5]
  rw [chk_rt (by rfl), chkTd_rt e2 hc', dGT, chkG_rt e6 hg, chkT_rt e2 ht, e3]

theorem vlaneExtract (t : Ty) (sd : Nat) (a : Nat) (c : Nat) (g : Guard) : Statement (.vlaneExtract t sd a c g) := by
  intro h _
  replace h : (tyB t && r6 sd && r10 a && decide (c < t.lanes) && g.wf) = true := h
  simp only [r6, r10, Bool.and_eq_true, decide_eq_true_eq] at h
  obtain ⟨⟨⟨⟨ht, hd⟩, ha⟩, hc⟩, hg⟩ := h
  have hl := lanes_le t ht
  obtain ⟨e1, e2, e3, e4, e5, e6, e7⟩ := eV_spec (op := 0x1A) (t := t) (m := true) (by omega : sd < 1024) ha
    (by omega : c < 1024) hg
  obtain ⟨-, -, q5, q6, -⟩ := vda_parts (eV 0x1A t.code sd a c g true)
  rw [e3] at q5 q6
  rw [Nat.div_eq_of_lt hd] at q5
  rw [Nat.mod_eq_of_lt hd] at q6
  refine rtV 0x1A (fun w =>
      if vm w then
        chk (fld w 35 32 == 0) .illegalBundle <| dLane w <|
          dGT w tyB fun t g => .ok (.vlaneExtract t (fld w 31 26) (va w) (vb w) g)
      else
        chk (fld w 25 22 == 0) .illegalBundle <| dLane w <|
          dGT w tyB fun t g => .ok (.vlaneInsert t (vd w) (fld w 21 16) (vb w) g)) rfl e1 (by decide) (fun w hw => by unfold decodeV; rw [hw]; rfl) ?_
  have hc' : decide (c < t.lanes) = true := by simpa using hc
  simp only [encode, e7, if_true, q5, q6, dLane, e5]
  rw [chk_rt (by rfl), chkTd_rt e2 hc', dGT, chkG_rt e6 hg, chkT_rt e2 ht, e4]

theorem vperm (t : Ty) (d : Nat) (a : Nat) (b : Nat) (g : Guard) (m : Bool) : Statement (.vperm t d a b g m) := by
  intro h _
  replace h : wV3 tyB t d a b g = true := h
  simp only [wV3, r10, Bool.and_eq_true, decide_eq_true_eq] at h
  obtain ⟨⟨⟨⟨ht, hd⟩, ha⟩, hb⟩, hg⟩ := h
  obtain ⟨e1, e2, e3, e4, e5, e6, e7⟩ := eV_spec (op := 0x1B) (t := t) (m := m) hd ha hb hg
  refine rtV 0x1B (fun w => dGT w tyB fun t g => .ok (.vperm t (vd w) (va w) (vb w) g (vm w))) rfl e1 (by decide) (fun w hw => by unfold decodeV; rw [hw]; rfl) ?_
  simp only [encode]
  rw [dGT, chkG_rt e6 hg, chkT_rt e2 ht, e3, e4, e5, e7]

theorem vrot (t : Ty) (d : Nat) (a : Nat) (c : Nat) (g : Guard) (m : Bool) : Statement (.vrot t d a c g m) := by
  intro h _
  replace h : (wV2 tyB t d a g && decide (c < t.lanes)) = true := h
  simp only [wV2, r10, Bool.and_eq_true, decide_eq_true_eq] at h
  obtain ⟨⟨⟨⟨ht, hd⟩, ha⟩, hg⟩, hc⟩ := h
  have hl := lanes_le t ht
  obtain ⟨e1, e2, e3, e4, e5, e6, e7⟩ := eV_spec (op := 0x1C) (t := t) (m := m) hd ha (by omega : c < 1024) hg
  refine rtV 0x1C (fun w => dLane w <| dGT w tyB fun t g => .ok (.vrot t (vd w) (va w) (vb w) g (vm w))) rfl e1 (by decide) (fun w hw => by unfold decodeV; rw [hw]; rfl) ?_
  have hc' : decide (c < t.lanes) = true := by simpa using hc
  simp only [encode, dLane, e5]
  rw [chkTd_rt e2 hc', dGT, chkG_rt e6 hg, chkT_rt e2 ht, e3, e4, e7]

theorem vcvt (dt : Ty) (st : Ty) (mode : Rnd) (p : Nat) (d : Nat) (a : Nat) (g : Guard) (m : Bool) : Statement (.vcvt dt st mode p d a g m) := by
  intro h _
  replace h : (cvtPair dt st && decide (p < cvtParts dt st) && r10 d && r10 a && g.wf && mOk cvtSat dt m) = true := h
  simp only [r10, Bool.and_eq_true, decide_eq_true_eq] at h
  obtain ⟨⟨⟨⟨⟨hp, hq⟩, hd⟩, ha⟩, hg⟩, hm⟩ := h
  obtain ⟨e1, e2⟩ := vcvt_rt (mode := mode) hp hq (cvt_lt8 hp hq) hd ha hg hm
  refine rtV 0x1D (fun w => dVcvt w) rfl e1 (by decide) (fun w hw => by unfold decodeV; rw [hw]; rfl) ?_
  exact e2

theorem vscl (t : Ty) (d : Nat) (a : Nat) (b : Nat) (g : Guard) : Statement (.vscl t d a b g) := fun h _ =>
  rtV 0x1E (fun w => dV3 w Ty.isF .vscl) rfl (dV3_rt (f := .vscl) h).1 (by decide) (fun w hw => by unfold decodeV; rw [hw]; rfl) (dV3_rt (f := .vscl) h).2

theorem vredadd (t : Ty) (d : Nat) (a : Nat) (g : Guard) (m : Bool) : Statement (.vredadd t d a g m) := fun h _ =>
  rtV 0x1F (fun w => dV2m w Ty.isInt tyIF .vredadd) rfl (dV2m_rt (f := .vredadd) h).1 (by decide) (fun w hw => by unfold decodeV; rw [hw]; rfl) (dV2m_rt (f := .vredadd) h).2

theorem vredmax (t : Ty) (d : Nat) (a : Nat) (g : Guard) (m : Bool) : Statement (.vredmax t d a g m) := fun h _ =>
  rtV 0x20 (fun w => dV2m w Ty.isF tyIF .vredmax) rfl (dV2m_rt (f := .vredmax) h).1 (by decide) (fun w hw => by unfold decodeV; rw [hw]; rfl) (dV2m_rt (f := .vredmax) h).2

theorem vredmin (t : Ty) (d : Nat) (a : Nat) (g : Guard) (m : Bool) : Statement (.vredmin t d a g m) := fun h _ =>
  rtV 0x21 (fun w => dV2m w Ty.isF tyIF .vredmin) rfl (dV2m_rt (f := .vredmin) h).1 (by decide) (fun w hw => by unfold decodeV; rw [hw]; rfl) (dV2m_rt (f := .vredmin) h).2

theorem vscan (t : Ty) (d : Nat) (a : Nat) (ex : Bool) (g : Guard) (m : Bool) : Statement (.vscan t d a ex g m) := by
  intro h _
  replace h : (wV2 tyIF t d a g && mOk Ty.isInt t m) = true := h
  simp only [wV2, r10, mOk, Bool.and_eq_true, decide_eq_true_eq] at h
  obtain ⟨⟨⟨⟨ht, hd⟩, ha⟩, hg⟩, hm⟩ := h
  have hb := bit_lt ex
  have hbb := bit_eq_one ex
  obtain ⟨e1, e2, e3, e4, e5, e6, e7⟩ := eV_spec (op := 0x22) (t := t) (m := m) hd ha (by omega : bit ex < 1024) hg
  obtain ⟨-, -, -, -, q5, q6, -⟩ := vb_parts (eV 0x22 t.code d a (bit ex) g m)
  rw [e5] at q5 q6
  rw [Nat.div_eq_of_lt hb] at q5
  rw [Nat.mod_eq_of_lt hb] at q6
  refine rtV 0x22 (fun w =>
      chk (fld w 15 7 == 0 && (!vm w || tyIn Ty.isInt (vt w))) .illegalBundle <|
        dGT w tyIF fun t g => .ok (.vscan t (vd w) (va w) (fld w 6 6 == 1) g (vm w))) rfl e1 (by decide) (fun w hw => by unfold decodeV; rw [hw]; rfl) ?_
  simp only [encode, q5, q6, e7, tyIn_rt e2, hm, hbb]
  rw [chk_rt (by rfl), dGT, chkG_rt e6 hg, chkT_rt e2 ht, e3, e4]

theorem vcnt (t : Ty) (d : Nat) (a : Nat) (g : Guard) : Statement (.vcnt t d a g) := by
  intro h _
  replace h : wV2 Ty.isInt t d a g = true := h
  simp only [wV2, r10, Bool.and_eq_true, decide_eq_true_eq] at h
  obtain ⟨⟨⟨ht, hd⟩, ha⟩, hg⟩ := h
  obtain ⟨e1, e2, e3, e4, e5, e6, e7⟩ := eV_spec (op := 0x23) (t := t) (m := false) hd ha (by decide : 0 < 1024) hg
  refine rtV 0x23 (fun w =>
      chk (vb w == 0) .illegalBundle <| dGT w Ty.isInt fun t g =>
        .ok (if vm w then .vcntLz t (vd w) (va w) g else .vcnt t (vd w) (va w) g)) rfl e1 (by decide) (fun w hw => by unfold decodeV; rw [hw]; rfl) ?_
  simp only [encode, e5, e7]
  rw [chk_rt (by rfl), dGT, chkG_rt e6 hg, chkT_rt e2 ht, e3, e4]
  rfl

theorem vcntLz (t : Ty) (d : Nat) (a : Nat) (g : Guard) : Statement (.vcntLz t d a g) := by
  intro h _
  replace h : wV2 Ty.isInt t d a g = true := h
  simp only [wV2, r10, Bool.and_eq_true, decide_eq_true_eq] at h
  obtain ⟨⟨⟨ht, hd⟩, ha⟩, hg⟩ := h
  obtain ⟨e1, e2, e3, e4, e5, e6, e7⟩ := eV_spec (op := 0x23) (t := t) (m := true) hd ha (by decide : 0 < 1024) hg
  refine rtV 0x23 (fun w =>
      chk (vb w == 0) .illegalBundle <| dGT w Ty.isInt fun t g =>
        .ok (if vm w then .vcntLz t (vd w) (va w) g else .vcnt t (vd w) (va w) g)) rfl e1 (by decide) (fun w hw => by unfold decodeV; rw [hw]; rfl) ?_
  simp only [encode, e5, e7]
  rw [chk_rt (by rfl), dGT, chkG_rt e6 hg, chkT_rt e2 ht, e3, e4]
  rfl

theorem vtop2 (t : Ty) (d : Nat) (a : Nat) (g : Guard) : Statement (.vtop2 t d a g) := fun h _ =>
  rtV 0x24 (fun w => dV2 w tyTop2 .vtop2) rfl (dV2_rt (f := .vtop2) h).1 (by decide) (fun w hw => by unfold decodeV; rw [hw]; rfl) (dV2_rt (f := .vtop2) h).2

theorem vquant (t : Ty) (d : Nat) (a : Nat) (p : Nat) (g : Guard) : Statement (.vquant t d a p g) := by
  intro h _
  replace h : (wV2 tyQ t d a g && decide (p < quantParts t false)) = true := h
  simp only [wV2, r10, Bool.and_eq_true, decide_eq_true_eq] at h
  obtain ⟨⟨⟨⟨ht, hd⟩, ha⟩, hg⟩, hp⟩ := h
  have hl := quant_le t false ht
  obtain ⟨e1, e2, e3, e4, e5, e6, e7⟩ := eV_spec (op := 0x25) (t := t) (m := false) hd ha (by omega : p < 1024) hg
  obtain ⟨-, -, q3, q4, -⟩ := vb_parts (eV 0x25 t.code d a p g false)
  rw [e5] at q3 q4
  rw [Nat.div_eq_of_lt (by omega)] at q3
  rw [Nat.mod_eq_of_lt (by omega)] at q4
  refine rtV 0x25 (fun w =>
      chk (fld w 15 11 == 0) .illegalBundle <|
        chkTd tyQ (vt w) (fun t => decide (fld w 10 6 < quantParts t (vm w))) <| dGT w tyQ fun t g =>
          .ok (if vm w then .vquantScale t (vd w) (va w) (fld w 10 6) g else .vquant t (vd w) (va w) (fld w 10 6) g)) rfl e1 (by decide) (fun w hw => by unfold decodeV; rw [hw]; rfl) ?_
  have hp' : decide (p < quantParts t false) = true := by simpa using hp
  simp only [encode, q3, q4, e7]
  rw [chk_rt (by rfl), chkTd_rt e2 hp', dGT, chkG_rt e6 hg, chkT_rt e2 ht, e3, e4]
  rfl

theorem vquantScale (t : Ty) (d : Nat) (a : Nat) (p : Nat) (g : Guard) : Statement (.vquantScale t d a p g) := by
  intro h _
  replace h : (wV2 tyQ t d a g && decide (p < quantParts t true)) = true := h
  simp only [wV2, r10, Bool.and_eq_true, decide_eq_true_eq] at h
  obtain ⟨⟨⟨⟨ht, hd⟩, ha⟩, hg⟩, hp⟩ := h
  have hl := quant_le t true ht
  obtain ⟨e1, e2, e3, e4, e5, e6, e7⟩ := eV_spec (op := 0x25) (t := t) (m := true) hd ha (by omega : p < 1024) hg
  obtain ⟨-, -, q3, q4, -⟩ := vb_parts (eV 0x25 t.code d a p g true)
  rw [e5] at q3 q4
  rw [Nat.div_eq_of_lt (by omega)] at q3
  rw [Nat.mod_eq_of_lt (by omega)] at q4
  refine rtV 0x25 (fun w =>
      chk (fld w 15 11 == 0) .illegalBundle <|
        chkTd tyQ (vt w) (fun t => decide (fld w 10 6 < quantParts t (vm w))) <| dGT w tyQ fun t g =>
          .ok (if vm w then .vquantScale t (vd w) (va w) (fld w 10 6) g else .vquant t (vd w) (va w) (fld w 10 6) g)) rfl e1 (by decide) (fun w hw => by unfold decodeV; rw [hw]; rfl) ?_
  have hp' : decide (p < quantParts t true) = true := by simpa using hp
  simp only [encode, q3, q4, e7]
  rw [chk_rt (by rfl), chkTd_rt e2 hp', dGT, chkG_rt e6 hg, chkT_rt e2 ht, e3, e4]
  rfl

theorem vdeq (t : Ty) (d : Nat) (a : Nat) (b : Nat) (g : Guard) : Statement (.vdeq t d a b g) := fun h _ =>
  rtV 0x26 (fun w => dV3 w tyQ .vdeq) rfl (dV3_rt (f := .vdeq) h).1 (by decide) (fun w hw => by unfold decodeV; rw [hw]; rfl) (dV3_rt (f := .vdeq) h).2

theorem vcor (t : Ty) (f : CorFn) (n : Nat) (d : Nat) (a : Nat) (g : Guard) : Statement (.vcor t f n d a g) := by
  intro h _
  replace h : (wV2 tyQ t d a g && decide (4 ≤ n) && decide (n ≤ 28)) = true := h
  simp only [wV2, r10, Bool.and_eq_true, decide_eq_true_eq] at h
  obtain ⟨⟨⟨⟨⟨ht, hd⟩, ha⟩, hg⟩, h1⟩, h2⟩ := h
  have hf := corCode_lt f
  obtain ⟨e1, e2, e3, e4, e5, e6, e7⟩ := eV_spec (op := 0x27) (t := t) (m := false) hd ha
    (by omega : corCode f * 2 ^ 6 + n < 1024) hg
  obtain ⟨q1, q2, -⟩ := vb_parts (eV 0x27 t.code d a (corCode f * 2 ^ 6 + n) g false)
  rw [e5] at q1 q2
  replace q1 : fld (eV 0x27 t.code d a (corCode f * 2 ^ 6 + n) g false) 15 12 = corCode f := by omega
  replace q2 : fld (eV 0x27 t.code d a (corCode f * 2 ^ 6 + n) g false) 11 6 = n := by omega
  refine rtV 0x27 (fun w => dVcor w) rfl e1 (by decide) (fun w hw => by unfold decodeV; rw [hw]; rfl) ?_
  exact dVcor_of ht h1 h2 hg q1 q2 e2 e3 e4 e6 e7

theorem mcfg (f : MField) (sr : Nat) (y : Sync) : Statement (.mcfg f sr y) := by
  intro h _
  replace h : (r6 sr && y.wf) = true := h
  simp only [r6, Bool.and_eq_true, decide_eq_true_eq] at h
  obtain ⟨e1, e2, e3, e4⟩ := eM_spec (op := 0x01) (mfCode_lt f) (by omega : sr < 65536) h.2
  obtain ⟨p1, p2, -⟩ := m_parts (eM 0x01 (mfCode f) sr y)
  rw [e3] at p1 p2
  rw [Nat.div_eq_of_lt h.1] at p1
  rw [Nat.mod_eq_of_lt h.1] at p2
  refine rtM 0x01 (fun w =>
      match mfOf (fld w 55 48) with
      | none => .error .illegalBundle
      | some f => chkY (fld w 47 38 == 0) w (.mcfg f (fld w 37 32) (syncOf w))) rfl e1 (by decide) (fun w hw => by unfold decodeM; rw [hw]; rfl) ?_
  simp only [encode, e2, mfOf_code, p1, p2, syncOf_rt h.2 e4]
  exact chkY_rt h.2 e4 rfl

theorem mcfgi (f : MField) (imm : Nat) (y : Sync) : Statement (.mcfgi f imm y) := by
  intro h _
  replace h : (decide (imm < 65536) && y.wf) = true := h
  simp only [Bool.and_eq_true, decide_eq_true_eq] at h
  obtain ⟨e1, e2, e3, e4⟩ := eM_spec (op := 0x02) (mfCode_lt f) h.1 h.2
  refine rtM 0x02 (fun w =>
      match mfOf (fld w 55 48) with
      | none => .error .illegalBundle
      | some f => chkY true w (.mcfgi f (fld w 47 32) (syncOf w))) rfl e1 (by decide) (fun w hw => by unfold decodeM; rw [hw]; rfl) ?_
  simp only [encode, e2, mfOf_code, e3, syncOf_rt h.2 e4]
  exact chkY_rt h.2 e4 rfl

theorem mma (tile : Nat) (src : FmtSrc) (e : Nat) (acc : Bool) (y : Sync) : Statement (.mma tile src e acc y) := fun h _ =>
  rtM 0x03 (fun w => dMma w .mma) rfl (dMma_rt (f := .mma) h).1 (by decide) (fun w hw => by unfold decodeM; rw [hw]; rfl) (dMma_rt (f := .mma) h).2

theorem mmas (tile : Nat) (src : FmtSrc) (e : Nat) (acc : Bool) (y : Sync) : Statement (.mmas tile src e acc y) := fun h _ =>
  rtM 0x04 (fun w => dMma w .mmas) rfl (dMma_rt (f := .mmas) h).1 (by decide) (fun w hw => by unfold decodeM; rw [hw]; rfl) (dMma_rt (f := .mmas) h).2

theorem mmac (tile : Nat) (src : FmtSrc) (e : Nat) (acc : Bool) (y : Sync) : Statement (.mmac tile src e acc y) := fun h _ =>
  rtM 0x05 (fun w => dMma w .mmac) rfl (dMma_rt (f := .mmac) h).1 (by decide) (fun w hw => by unfold decodeM; rw [hw]; rfl) (dMma_rt (f := .mmac) h).2

theorem mzero (tile : Nat) (y : Sync) : Statement (.mzero tile y) := by
  intro h _
  replace h : (decide (tile < 16) && y.wf) = true := h
  simp only [Bool.and_eq_true, decide_eq_true_eq] at h
  obtain ⟨e1, e2, e3, e4⟩ := eM_spec (op := 0x06) (by omega : tile * 2 ^ 4 < 256) (by decide : 0 < 65536) h.2
  obtain ⟨-, -, p3, p4, -⟩ := m_parts (eM 0x06 (tile * 2 ^ 4) 0 y)
  rw [e2, e3] at p3
  rw [e2] at p4
  replace p3 : fld (eM 0x06 (tile * 2 ^ 4) 0 y) 51 32 = 0 := by omega
  replace p4 : fld (eM 0x06 (tile * 2 ^ 4) 0 y) 55 52 = tile := by omega
  refine rtM 0x06 (fun w => chkY (fld w 51 32 == 0) w (.mzero (fld w 55 52) (syncOf w))) rfl e1 (by decide) (fun w hw => by unfold decodeM; rw [hw]; rfl) ?_
  simp only [encode, p3, p4, syncOf_rt h.2 e4]
  exact chkY_rt h.2 e4 rfl

theorem mrestart (off : Int) (y : Sync) : Statement (.mrestart off y) := by
  intro h _
  replace h : (sfits 23 off && y.wf) = true := h
  simp only [Bool.and_eq_true] at h
  obtain ⟨o1, o2⟩ := ofS_spec (by decide) h.1
  have hv := (sync_spec h.2).1
  have e : eM 0x07 (2 ^ 7) (ofS 23 off) y / 2 ^ 56 = 0x07 ∧ fld (eM 0x07 (2 ^ 7) (ofS 23 off) y) 55 55 = 1 ∧
      fld (eM 0x07 (2 ^ 7) (ofS 23 off) y) 54 32 = ofS 23 off ∧ eM 0x07 (2 ^ 7) (ofS 23 off) y % 2 ^ 32 = syncBits y := by
    simp only [eM, fld]
    generalize syncBits y = v at *
    omega
  obtain ⟨e1, e2, e3, e4⟩ := e
  refine rtM 0x07 (fun w =>
      if fld w 55 55 = 1 then chkY true w (.mrestart (sfld 23 (fld w 54 32)) (syncOf w))
      else chkY (fld w 54 32 == 0) w (.mrestartOff (syncOf w))) rfl e1 (by decide) (fun w hw => by unfold decodeM; rw [hw]; rfl) ?_
  simp only [encode, e2, if_true, e3, o2, syncOf_rt h.2 e4]
  exact chkY_rt h.2 e4 rfl

theorem mrestartOff (y : Sync) : Statement (.mrestartOff y) := by
  intro h _
  replace h : y.wf = true := h
  obtain ⟨e1, e2, e3, e4⟩ := eM_spec (op := 0x07) (by decide : 0 < 256) (by decide : 0 < 65536) h
  obtain ⟨-, -, -, -, p5, p6, -⟩ := m_parts (eM 0x07 0 0 y)
  rw [e2] at p5
  rw [e2, e3] at p6
  refine rtM 0x07 (fun w =>
      if fld w 55 55 = 1 then chkY true w (.mrestart (sfld 23 (fld w 54 32)) (syncOf w))
      else chkY (fld w 54 32 == 0) w (.mrestartOff (syncOf w))) rfl e1 (by decide) (fun w hw => by unfold decodeM; rw [hw]; rfl) ?_
  exact mrestartOff_of h e4 p5 p6

theorem mkeep (mask : Nat) (y : Sync) : Statement (.mkeep mask y) := by
  intro h _
  replace h : (decide (mask < 65536) && y.wf) = true := h
  simp only [Bool.and_eq_true, decide_eq_true_eq] at h
  obtain ⟨e1, e2, e3, e4⟩ := eM_spec (op := 0x08) (by decide : 0 < 256) h.1 h.2
  refine rtM 0x08 (fun w => chkY (fld w 55 48 == 0) w (.mkeep (fld w 47 32) (syncOf w))) rfl e1 (by decide) (fun w hw => by unfold decodeM; rw [hw]; rfl) ?_
  simp only [encode, e2, e3, syncOf_rt h.2 e4]
  exact chkY_rt h.2 e4 rfl

theorem mdrop (mask : Nat) (y : Sync) : Statement (.mdrop mask y) := by
  intro h _
  replace h : (decide (mask < 65536) && y.wf) = true := h
  simp only [Bool.and_eq_true, decide_eq_true_eq] at h
  obtain ⟨e1, e2, e3, e4⟩ := eM_spec (op := 0x09) (by decide : 0 < 256) h.1 h.2
  refine rtM 0x09 (fun w => chkY (fld w 55 48 == 0) w (.mdrop (fld w 47 32) (syncOf w))) rfl e1 (by decide) (fun w hw => by unfold decodeM; rw [hw]; rfl) ?_
  simp only [encode, e2, e3, syncOf_rt h.2 e4]
  exact chkY_rt h.2 e4 rfl

theorem mfmt (src : FmtSrc) (e : Nat) (sr : Nat) (y : Sync) : Statement (.mfmt src e sr y) := by
  intro h _
  replace h : (decide (e < 16) && (src == .entry || decide (e = 0)) && r6 sr && y.wf) = true := h
  simp only [r6, Bool.and_eq_true, Bool.or_eq_true, decide_eq_true_eq] at h
  obtain ⟨⟨⟨he, hs⟩, hr⟩, hy⟩ := h
  have hv := (sync_spec hy).1
  obtain ⟨e1, e2, e3, e4, e5, e6, e7⟩ := eMfmt_spec (src := src) he hr hy
  refine rtM 0x0A (fun w =>
      match srcOf (fld w 51 50) with
      | none => .error .illegalBundle
      | some src =>
        chkY (fld w 55 52 == 0 && fld w 45 38 == 0 && (src == .entry || fld w 49 46 == 0)) w
          (.mfmt src (fld w 49 46) (fld w 37 32) (syncOf w))) rfl e1 (by decide) (fun w hw => by unfold decodeM; rw [hw]; rfl) ?_
  exact mfmt_of e2 e3 e4 e5 e6 e7 hy hs

theorem mshad (y : Sync) : Statement (.mshad y) := by
  intro h _
  replace h : y.wf = true := h
  obtain ⟨e1, e2, e3, e4⟩ := eM_spec (op := 0x0B) (by decide : 0 < 256) (by decide : 0 < 65536) h
  have p := (m_parts (eM 0x0B 0 0 y)).2.2.2.2.2.2.2.2.2
  rw [e2, e3] at p
  refine rtM 0x0B (fun w => chkY (fld w 55 32 == 0) w (.mshad (syncOf w))) rfl e1 (by decide) (fun w hw => by unfold decodeM; rw [hw]; rfl) ?_
  simp only [encode, p, syncOf_rt h e4]
  exact chkY_rt h e4 rfl

theorem ld (t : Ty) (d : Nat) (x : LSArgs) : Statement (.ld t d x) := fun h _ =>
  rtL 0x01 (fun w => dScal w Ty.isInt .ld) rfl (dScal_rt (f := .ld) h).1 (by decide) (fun w hw => by unfold decodeL; rw [hw]; rfl) (dScal_rt (f := .ld) h).2

theorem ldv (t : Ty) (d : Nat) (x : LSArgs) : Statement (.ldv t d x) := fun h _ =>
  rtL 0x02 (fun w => dRow w .ldv) rfl (dRow_rt (f := .ldv) h).1 (by decide) (fun w hw => by unfold decodeL; rw [hw]; rfl) (dRow_rt (f := .ldv) h).2

theorem ldvh (t : Ty) (hi : Bool) (d : Nat) (x : LSArgs) : Statement (.ldvh t hi d x) := fun h _ =>
  rtL 0x03 (fun w => dHalf w .ldvh) rfl (dHalf_rt (f := .ldvh) h).1 (by decide) (fun w hw => by unfold decodeL; rw [hw]; rfl) (dHalf_rt (f := .ldvh) h).2

theorem ldk (d : Nat) (x : LSArgs) : Statement (.ldk d x) := fun h _ =>
  rtL 0x04 (fun w => dPred w .ldk) rfl (dPred_rt (f := .ldk) h).1 (by decide) (fun w hw => by unfold decodeL; rw [hw]; rfl) (dPred_rt (f := .ldk) h).2

theorem ldg (t : Ty) (d : Nat) (vx : Nat) (x : LSArgs) : Statement (.ldg t d vx x) := fun h _ =>
  rtL 0x05 (fun w => dGs w .ldg) rfl (dGs_rt (f := .ldg) h).1 (by decide) (fun w hw => by unfold decodeL; rw [hw]; rfl) (dGs_rt (f := .ldg) h).2

theorem st (t : Ty) (d : Nat) (x : LSArgs) : Statement (.st t d x) := fun h _ =>
  rtS 0x01 (fun w => dScal w Ty.isInt .st) rfl (dScal_rt (f := .st) h).1 (by decide) (fun w hw => by unfold decodeS; rw [hw]; rfl) (dScal_rt (f := .st) h).2

theorem stv (t : Ty) (d : Nat) (x : LSArgs) : Statement (.stv t d x) := fun h _ =>
  rtS 0x02 (fun w => dRow w .stv) rfl (dRow_rt (f := .stv) h).1 (by decide) (fun w hw => by unfold decodeS; rw [hw]; rfl) (dRow_rt (f := .stv) h).2

theorem stvh (t : Ty) (hi : Bool) (d : Nat) (x : LSArgs) : Statement (.stvh t hi d x) := fun h _ =>
  rtS 0x03 (fun w => dHalf w .stvh) rfl (dHalf_rt (f := .stvh) h).1 (by decide) (fun w hw => by unfold decodeS; rw [hw]; rfl) (dHalf_rt (f := .stvh) h).2

theorem stk (d : Nat) (x : LSArgs) : Statement (.stk d x) := fun h _ =>
  rtS 0x04 (fun w => dPred w .stk) rfl (dPred_rt (f := .stk) h).1 (by decide) (fun w hw => by unfold decodeS; rw [hw]; rfl) (dPred_rt (f := .stk) h).2

theorem sts (t : Ty) (d : Nat) (vx : Nat) (x : LSArgs) : Statement (.sts t d vx x) := fun h _ =>
  rtS 0x05 (fun w => dGs w .sts) rfl (dGs_rt (f := .sts) h).1 (by decide) (fun w hw => by unfold decodeS; rw [hw]; rfl) (dGs_rt (f := .sts) h).2

theorem aadd (t : Ty) (d : Nat) (x : LSArgs) : Statement (.aadd t d x) := fun h _ =>
  rtS 0x06 (fun w => dScal w tyW .aadd) rfl (dScal_rt (f := .aadd) h).1 (by decide) (fun w hw => by unfold decodeS; rw [hw]; rfl) (dScal_rt (f := .aadd) h).2

theorem amin (t : Ty) (d : Nat) (x : LSArgs) : Statement (.amin t d x) := fun h _ =>
  rtS 0x07 (fun w => dScal w tyW .amin) rfl (dScal_rt (f := .amin) h).1 (by decide) (fun w hw => by unfold decodeS; rw [hw]; rfl) (dScal_rt (f := .amin) h).2

theorem amax (t : Ty) (d : Nat) (x : LSArgs) : Statement (.amax t d x) := fun h _ =>
  rtS 0x08 (fun w => dScal w tyW .amax) rfl (dScal_rt (f := .amax) h).1 (by decide) (fun w hw => by unfold decodeS; rw [hw]; rfl) (dScal_rt (f := .amax) h).2

theorem aand (t : Ty) (d : Nat) (x : LSArgs) : Statement (.aand t d x) := fun h _ =>
  rtS 0x09 (fun w => dScal w tyW .aand) rfl (dScal_rt (f := .aand) h).1 (by decide) (fun w hw => by unfold decodeS; rw [hw]; rfl) (dScal_rt (f := .aand) h).2

theorem aor (t : Ty) (d : Nat) (x : LSArgs) : Statement (.aor t d x) := fun h _ =>
  rtS 0x0A (fun w => dScal w tyW .aor) rfl (dScal_rt (f := .aor) h).1 (by decide) (fun w hw => by unfold decodeS; rw [hw]; rfl) (dScal_rt (f := .aor) h).2

theorem axch (t : Ty) (d : Nat) (x : LSArgs) : Statement (.axch t d x) := fun h _ =>
  rtS 0x0B (fun w => dScal w tyW .axch) rfl (dScal_rt (f := .axch) h).1 (by decide) (fun w hw => by unfold decodeS; rw [hw]; rfl) (dScal_rt (f := .axch) h).2

theorem acas (t : Ty) (d : Nat) (x : LSArgs) : Statement (.acas t d x) := fun h _ =>
  rtS 0x0C (fun w => dScal w tyW .acas) rfl (dScal_rt (f := .acas) h).1 (by decide) (fun w hw => by unfold decodeS; rw [hw]; rfl) (dScal_rt (f := .acas) h).2

theorem afadd (t : Ty) (d : Nat) (x : LSArgs) : Statement (.afadd t d x) := fun h _ =>
  rtS 0x0D (fun w => dScal w tyFF .afadd) rfl (dScal_rt (f := .afadd) h).1 (by decide) (fun w hw => by unfold decodeS; rw [hw]; rfl) (dScal_rt (f := .afadd) h).2

theorem fenceAcq (scope : Scope) : Statement (.fenceAcq scope) := by
  intro h _
  refine rtS 0x0E (fun w => dFence w) rfl (dFence_rt 1 scope (by decide) (by decide)).1 (by decide) (fun w hw => by unfold decodeS; rw [hw]; rfl) ?_
  exact (dFence_rt 1 scope (by decide) (by decide)).2

theorem fenceRel (scope : Scope) : Statement (.fenceRel scope) := by
  intro h _
  refine rtS 0x0E (fun w => dFence w) rfl (dFence_rt 2 scope (by decide) (by decide)).1 (by decide) (fun w hw => by unfold decodeS; rw [hw]; rfl) ?_
  exact (dFence_rt 2 scope (by decide) (by decide)).2

theorem fenceAr (scope : Scope) : Statement (.fenceAr scope) := by
  intro h _
  refine rtS 0x0E (fun w => dFence w) rfl (dFence_rt 3 scope (by decide) (by decide)).1 (by decide) (fun w hw => by unfold decodeS; rw [hw]; rfl) ?_
  exact (dFence_rt 3 scope (by decide) (by decide)).2

theorem tmov (a : Nat) (b : Nat) (c : Nat) (e : Nat) (x : CopyArgs) : Statement (.tmov a b c e x) := fun h _ =>
  rtC 0x01 (fun w => dCp w .tmov) rfl (dCp_rt (f := .tmov) h).1 (by decide) (fun w hw => by unfold decodeC; rw [hw]; rfl) (dCp_rt (f := .tmov) h).2

theorem tmov2 (a : Nat) (b : Nat) (c : Nat) (e : Nat) (x : CopyArgs) : Statement (.tmov2 a b c e x) := fun h _ =>
  rtC 0x02 (fun w => dCp w .tmov2) rfl (dCp_rt (f := .tmov2) h).1 (by decide) (fun w hw => by unfold decodeC; rw [hw]; rfl) (dCp_rt (f := .tmov2) h).2

theorem tmcast (a : Nat) (b : Nat) (c : Nat) (e : Nat) (mask : Nat) (x : CopyArgs) : Statement (.tmcast a b c e mask x) := by
  intro h _
  replace h : (wCp a b c e x && decide (0 < mask) && decide (mask < 16)) = true := h
  simp only [Bool.and_eq_true, decide_eq_true_eq] at h
  obtain ⟨⟨h, h0⟩, h1⟩ := h
  obtain ⟨e1, e2, e3, e4, e5, e6, e7, e8, e9, e10, hy⟩ := eCp_spec (op := 0x03) h (by decide : 0 < 64) h1
  refine rtC 0x03 (fun w =>
      chkY (cpZero w && fld w 45 40 == 0 && fld w 39 36 != 0) w
        (.tmcast (ca w) (cb w) (cc w) (ce w) (fld w 39 36) (cpArgs w))) rfl e1 (by decide) (fun w hw => by unfold decodeC; rw [hw]; rfl) ?_
  have hm : (mask != 0) = true := by simp; omega
  simp only [encode, e2, e3, e4, e5, e6, e7, e8, e9, hm]
  exact chkY_rt hy e10 rfl

theorem tgath (a : Nat) (b : Nat) (c : Nat) (e : Nat) (x : CopyArgs) : Statement (.tgath a b c e x) := fun h _ =>
  rtC 0x04 (fun w => dCp w .tgath) rfl (dCp_rt (f := .tgath) h).1 (by decide) (fun w hw => by unfold decodeC; rw [hw]; rfl) (dCp_rt (f := .tgath) h).2

theorem tscat (a : Nat) (b : Nat) (c : Nat) (e : Nat) (x : CopyArgs) : Statement (.tscat a b c e x) := fun h _ =>
  rtC 0x05 (fun w => dCp w .tscat) rfl (dCp_rt (f := .tscat) h).1 (by decide) (fun w hw => by unfold decodeC; rw [hw]; rfl) (dCp_rt (f := .tscat) h).2

theorem tfill (a : Nat) (b : Nat) (c : Nat) (e : Nat) (x : CopyArgs) : Statement (.tfill a b c e x) := fun h _ =>
  rtC 0x06 (fun w => dCp w .tfill) rfl (dCp_rt (f := .tfill) h).1 (by decide) (fun w hw => by unfold decodeC; rw [hw]; rfl) (dCp_rt (f := .tfill) h).2

theorem camo (op : AmoOp) (t : Ty) (a : Nat) (b : Nat) (c : Nat) (e : Nat) (x : CopyArgs) : Statement (.camo op t a b c e x) := by
  intro h _
  replace h : (wCp a b c e x && camoTy op t) = true := h
  rw [Bool.and_eq_true] at h
  have ho := amoCode_lt op
  obtain ⟨e1, e2, e3, e4, e5, e6, e7, e8, e9, e10, hy⟩ := eCp_spec (op := 0x07) h.1 (by omega : amoCode op < 64) (code_lt t)
  refine rtC 0x07 (fun w => dCamo w) rfl e1 (by decide) (fun w hw => by unfold decodeC; rw [hw]; rfl) ?_
  exact dCamo_of e2 e3 e4 e5 e6 e7 e8 e9 e10 hy h.2

theorem qjoin (mask : Nat) (y : Sync) : Statement (.qjoin mask y) := by
  intro h _
  replace h : (decide (0 < mask) && decide (mask < 16) && y.wf) = true := h
  simp only [Bool.and_eq_true, decide_eq_true_eq] at h
  obtain ⟨⟨h0, h1⟩, hy⟩ := h
  obtain ⟨e1, e2, e3, e4, e5, e6, e7, e8⟩ := eC_spec (op := 0x08) (mid := mask * 2 ^ 8) (by decide : 0 < 64)
    (by decide : 0 < 64) (by decide : 0 < 64) (by decide : 0 < 64) (by decide : 0 < 4) (by omega) hy
  have p := c_parts (eC 0x08 0 0 0 0 0 (mask * 2 ^ 8) y)
  have p' := c_parts' (eC 0x08 0 0 0 0 0 (mask * 2 ^ 8) y)
  have q1 : fld (eC 0x08 0 0 0 0 0 (mask * 2 ^ 8) y) 87 44 = 0 := by
    rw [p'.2.2.2.2.2.2.2.2.2, e2, e3, e4, e5, e6, e7]; omega
  have q2 : fld (eC 0x08 0 0 0 0 0 (mask * 2 ^ 8) y) 39 32 = 0 := by rw [p.2.2.2.2.2.2.2.2.2.2.2.2.1, e7]; omega
  have q3 : fld (eC 0x08 0 0 0 0 0 (mask * 2 ^ 8) y) 43 40 = mask := by rw [p.2.2.2.2.2.2.2.2.2.2.2.2.2, e7]; omega
  refine rtC 0x08 (fun w => chkY (fld w 87 44 == 0 && fld w 39 32 == 0 && fld w 43 40 != 0) w (.qjoin (fld w 43 40) (syncOf w))) rfl e1 (by decide) (fun w hw => by unfold decodeC; rw [hw]; rfl) ?_
  have hm : (mask != 0) = true := by simp; omega
  simp only [encode, q1, q2, q3, hm, syncOf_rt hy e8]
  exact chkY_rt hy e8 rfl

theorem migr (a : Nat) (b : Nat) (c : Nat) (tier : Nat) (hnd : Option Nat) (y : Sync) : Statement (.migr a b c tier hnd y) := by
  intro h _
  replace h : (r6 a && r6 b && r6 c && decide (tier < 3) && wH hnd && y.wf) = true := h
  simp only [r6, Bool.and_eq_true, decide_eq_true_eq] at h
  obtain ⟨⟨⟨⟨⟨ha, hb⟩, hc⟩, ht⟩, hh⟩, hy⟩ := h
  obtain ⟨hm, hs⟩ := hBits_spec hh (tier * 2 ^ 8) (by omega) (by omega)
  obtain ⟨e1, e2, e3, e4, e5, e6, e7, e8⟩ := eC_spec (op := 0x10) (e := 0) (q := 0) ha hb hc (by decide) (by decide) hm hy
  obtain ⟨s1, s2⟩ := hs _ e7
  have hbit : hBits hnd % 2 ^ 26 < 2 := by cases hnd <;> simp only [hBits] <;> omega
  have p' := c_parts' (eC 0x10 a b c 0 0 (hBits hnd + tier * 2 ^ 8) y)
  have q1 : fld (eC 0x10 a b c 0 0 (hBits hnd + tier * 2 ^ 8) y) 69 62 = 0 := by rw [p'.2.2.2.2.2.2.1, e5, e6]
  have q2 : fld (eC 0x10 a b c 0 0 (hBits hnd + tier * 2 ^ 8) y) 57 42 = 0 := by
    rw [p'.2.2.2.2.2.2.2.1, e7]; omega
  have q3 : fld (eC 0x10 a b c 0 0 (hBits hnd + tier * 2 ^ 8) y) 41 40 = tier := by
    rw [p'.2.2.2.2.2.2.2.2.1, e7]; omega
  have q4 : fld (eC 0x10 a b c 0 0 (hBits hnd + tier * 2 ^ 8) y) 39 33 = 0 := by rw [p'.1, e7]; omega
  refine rtC 0x10 (fun w =>
      chkY (hndOk w && fld w 69 62 == 0 && fld w 57 42 == 0 && fld w 41 40 != 3 && fld w 39 33 == 0) w
        (.migr (ca w) (cb w) (cc w) (fld w 41 40) (hndOf w) (syncOf w))) rfl e1 (by decide) (fun w hw => by unfold decodeC; rw [hw]; rfl) ?_
  have hm : (tier != 3) = true := by simp; omega
  simp only [encode, e2, e3, e4, s1, s2, q1, q2, q3, q4, hm, syncOf_rt hy e8]
  exact chkY_rt hy e8 rfl

theorem tlbinv (a : Nat) (b : Nat) (y : Sync) : Statement (.tlbinv a b y) := by
  intro h _
  replace h : w2 a b y = true := h
  simp only [w2, w3, r6, Bool.and_eq_true, decide_eq_true_eq] at h
  obtain ⟨⟨ha, hb⟩, hy⟩ := h
  obtain ⟨e1, e2, e3, e4, e5, e6⟩ := eY_spec (op := 0x29) (imm := 0) ha hb (by decide : 0 < 64) (by decide) hy
  refine rtY 0x29 (fun w => dFlag w (yc w == 0) (fld w 55 38 == 0) (.tlbinv (ya w) (yb w) (syncOf w)) (.tlbinvAll (syncOf w))) rfl e1 (by decide) (fun w hw => by unfold decodeY; rw [hw]; rfl) ?_
  simp only [encode]
  rw [dFlag_rt hy e6 (by decide : 0 < 2) e5 (by simp [e4])]
  simp only [e2, e3, e4, syncOf_rt hy e6]
  rfl

theorem tlbinvAll (y : Sync) : Statement (.tlbinvAll y) := by
  intro h _
  replace h : y.wf = true := h
  obtain ⟨e1, e2, e3, e4, e5, e6⟩ := eY_spec (op := 0x29) (imm := 1) (by decide : 0 < 64) (by decide : 0 < 64) (by decide : 0 < 64) (by decide) h
  have p := (y_parts (eY 0x29 0 0 0 1 y)).2.2.2.2.2.2.2.2
  rw [e2, e3, e4] at p
  refine rtY 0x29 (fun w => dFlag w (yc w == 0) (fld w 55 38 == 0) (.tlbinv (ya w) (yb w) (syncOf w)) (.tlbinvAll (syncOf w))) rfl e1 (by decide) (fun w hw => by unfold decodeY; rw [hw]; rfl) ?_
  simp only [encode]
  rw [dFlag_rt h e6 (by decide : 1 < 2) e5 (by simp [p]), syncOf_rt h e6]
  rfl

theorem dirty (a : Nat) (b : Nat) (c : Nat) (y : Sync) : Statement (.dirty a b c y) := by
  intro h _
  replace h : w3 a b c y = true := h
  simp only [w2, w3, r6, Bool.and_eq_true, decide_eq_true_eq] at h
  obtain ⟨⟨⟨ha, hb⟩, hc⟩, hy⟩ := h
  obtain ⟨e1, e2, e3, e4, e5, e6⟩ := eY_spec (op := 0x28) (imm := 0) ha hb hc (by decide) hy
  refine rtY 0x28 (fun w => dFlag w true true (.dirty (ya w) (yb w) (yc w) (syncOf w)) (.dirtyKeep (ya w) (yb w) (yc w) (syncOf w))) rfl e1 (by decide) (fun w hw => by unfold decodeY; rw [hw]; rfl) ?_
  simp only [encode]
  rw [dFlag_rt hy e6 (by decide : 0 < 2) e5 rfl]
  simp only [e2, e3, e4, syncOf_rt hy e6]
  rfl

theorem dirtyKeep (a : Nat) (b : Nat) (c : Nat) (y : Sync) : Statement (.dirtyKeep a b c y) := by
  intro h _
  replace h : w3 a b c y = true := h
  simp only [w2, w3, r6, Bool.and_eq_true, decide_eq_true_eq] at h
  obtain ⟨⟨⟨ha, hb⟩, hc⟩, hy⟩ := h
  obtain ⟨e1, e2, e3, e4, e5, e6⟩ := eY_spec (op := 0x28) (imm := 1) ha hb hc (by decide) hy
  refine rtY 0x28 (fun w => dFlag w true true (.dirty (ya w) (yb w) (yc w) (syncOf w)) (.dirtyKeep (ya w) (yb w) (yc w) (syncOf w))) rfl e1 (by decide) (fun w hw => by unfold decodeY; rw [hw]; rfl) ?_
  simp only [encode]
  rw [dFlag_rt hy e6 (by decide : 1 < 2) e5 rfl]
  simp only [e2, e3, e4, syncOf_rt hy e6]
  rfl

theorem semadd (n : Nat) (gl : Bool) (c : Nat) (imm : Nat) (y : Sync) : Statement (.semadd n gl c imm y) := fun h _ =>
  rtY 0x01 (fun w => dSemImm w .semadd) rfl (dSemImm_rt (f := .semadd) h).1 (by decide) (fun w hw => by unfold decodeY; rw [hw]; rfl) (dSemImm_rt (f := .semadd) h).2

theorem semset (n : Nat) (gl : Bool) (c : Nat) (y : Sync) : Statement (.semset n gl c y) := fun h _ =>
  rtY 0x02 (fun w => dSem w .semset) rfl (dSem_rt (f := .semset) h).1 (by decide) (fun w hw => by unfold decodeY; rw [hw]; rfl) (dSem_rt (f := .semset) h).2

theorem semwait (n : Nat) (gl : Bool) (c : Nat) (imm : Nat) (y : Sync) : Statement (.semwait n gl c imm y) := fun h _ =>
  rtY 0x03 (fun w => dSemImm w .semwait) rfl (dSemImm_rt (f := .semwait) h).1 (by decide) (fun w hw => by unfold decodeY; rw [hw]; rfl) (dSemImm_rt (f := .semwait) h).2

theorem semrd (n : Nat) (gl : Bool) (c : Nat) (y : Sync) : Statement (.semrd n gl c y) := fun h _ =>
  rtY 0x04 (fun w => dSem w .semrd) rfl (dSem_rt (f := .semrd) h).1 (by decide) (fun w hw => by unfold decodeY; rw [hw]; rfl) (dSem_rt (f := .semrd) h).2

theorem barinit (a : Nat) (b : Nat) (y : Sync) : Statement (.barinit a b y) := fun h _ =>
  rtY 0x05 (fun w => dAb w .barinit) rfl (dAb_rt (f := .barinit) h).1 (by decide) (fun w hw => by unfold decodeY; rw [hw]; rfl) (dAb_rt (f := .barinit) h).2

theorem bararr (a : Nat) (b : Nat) (imm : Nat) (y : Sync) : Statement (.bararr a b imm y) := by
  intro h _
  replace h : (r6 a && r6 b && decide (imm < 64) && (if b = 0 then decide (imm ≠ 0) else decide (imm = 0)) && y.wf) = true := h
  simp only [r6, Bool.and_eq_true, decide_eq_true_eq] at h
  obtain ⟨⟨⟨⟨ha, hb⟩, hi⟩, hx⟩, hy⟩ := h
  obtain ⟨e1, e2, e3, e4, e5, e6⟩ := eY_spec (op := 0x06) ha hb (by decide : 0 < 64) hi hy
  refine rtY 0x06 (fun w => chkY (yc w == 0 && (if yb w = 0 then yi w != 0 else yi w == 0)) w (.bararr (ya w) (yb w) (yi w) (syncOf w))) rfl e1 (by decide) (fun w hw => by unfold decodeY; rw [hw]; rfl) ?_
  simp only [encode, e2, e3, e4, e5, syncOf_rt hy e6]
  refine chkY_rt hy e6 ?_
  split at hx <;> simp_all

theorem barexp (a : Nat) (b : Nat) (y : Sync) : Statement (.barexp a b y) := fun h _ =>
  rtY 0x07 (fun w => dAb w .barexp) rfl (dAb_rt (f := .barexp) h).1 (by decide) (fun w hw => by unfold decodeY; rw [hw]; rfl) (dAb_rt (f := .barexp) h).2

theorem barwait (a : Nat) (b : Nat) (y : Sync) : Statement (.barwait a b y) := by
  intro h _
  replace h : w2 a b y = true := h
  simp only [w2, w3, r6, Bool.and_eq_true, decide_eq_true_eq] at h
  obtain ⟨⟨ha, hb⟩, hy⟩ := h
  obtain ⟨e1, e2, e3, e4, e5, e6⟩ := eY_spec (op := 0x08) (imm := 0) ha hb (by decide : 0 < 64) (by decide) hy
  refine rtY 0x08 (fun w => dFlag w (yc w == 0) true (.barwait (ya w) (yb w) (syncOf w)) (.barwaitT (ya w) (yb w) (yc w) (syncOf w))) rfl e1 (by decide) (fun w hw => by unfold decodeY; rw [hw]; rfl) ?_
  simp only [encode]
  rw [dFlag_rt hy e6 (by decide : 0 < 2) e5 (by simp [e4])]
  simp only [e2, e3, e4, syncOf_rt hy e6]
  rfl

theorem barwaitT (a : Nat) (b : Nat) (c : Nat) (y : Sync) : Statement (.barwaitT a b c y) := by
  intro h _
  replace h : w3 a b c y = true := h
  simp only [w2, w3, r6, Bool.and_eq_true, decide_eq_true_eq] at h
  obtain ⟨⟨⟨ha, hb⟩, hc⟩, hy⟩ := h
  obtain ⟨e1, e2, e3, e4, e5, e6⟩ := eY_spec (op := 0x08) (imm := 1) ha hb hc (by decide) hy
  refine rtY 0x08 (fun w => dFlag w (yc w == 0) true (.barwait (ya w) (yb w) (syncOf w)) (.barwaitT (ya w) (yb w) (yc w) (syncOf w))) rfl e1 (by decide) (fun w hw => by unfold decodeY; rw [hw]; rfl) ?_
  simp only [encode]
  rw [dFlag_rt hy e6 (by decide : 1 < 2) e5 rfl]
  simp only [e2, e3, e4, syncOf_rt hy e6]
  rfl

theorem hwaitL (h' : Nat) (y : Sync) : Statement (.hwaitL h' y) := by
  intro h _
  replace h : (decide (h' < 16) && y.wf) = true := h
  simp only [Bool.and_eq_true, decide_eq_true_eq] at h
  obtain ⟨hh, hy⟩ := h
  obtain ⟨e1, e2, e3, e4, e5, e6⟩ := eY_spec (op := 0x09) (imm := 0) (by omega : h' < 64) (by decide : 0 < 64) (by decide : 0 < 64) (by decide) hy
  obtain ⟨-, -, -, p4, p5, p6, -⟩ := y_parts (eY 0x09 h' 0 0 0 y)
  rw [e2] at p4 p5
  rw [Nat.div_eq_of_lt hh] at p5
  rw [Nat.mod_eq_of_lt hh] at p4
  rw [e3, e4] at p6
  refine rtY 0x09 (fun w =>
      let ok := fld w 55 54 == 0 && fld w 49 38 == 0
      dFlag w ok ok (.hwaitL (fld w 53 50) (syncOf w)) (.hwaitR (fld w 53 50) (syncOf w))) rfl e1 (by decide) (fun w hw => by unfold decodeY; rw [hw]; rfl) ?_
  simp only [encode]
  rw [dFlag_rt hy e6 (by decide : 0 < 2) e5 (by simp [p5, p6])]
  simp only [p4, syncOf_rt hy e6]
  rfl

theorem hwaitR (h' : Nat) (y : Sync) : Statement (.hwaitR h' y) := by
  intro h _
  replace h : (decide (h' < 16) && y.wf) = true := h
  simp only [Bool.and_eq_true, decide_eq_true_eq] at h
  obtain ⟨hh, hy⟩ := h
  obtain ⟨e1, e2, e3, e4, e5, e6⟩ := eY_spec (op := 0x09) (imm := 1) (by omega : h' < 64) (by decide : 0 < 64) (by decide : 0 < 64) (by decide) hy
  obtain ⟨-, -, -, p4, p5, p6, -⟩ := y_parts (eY 0x09 h' 0 0 1 y)
  rw [e2] at p4 p5
  rw [Nat.div_eq_of_lt hh] at p5
  rw [Nat.mod_eq_of_lt hh] at p4
  rw [e3, e4] at p6
  refine rtY 0x09 (fun w =>
      let ok := fld w 55 54 == 0 && fld w 49 38 == 0
      dFlag w ok ok (.hwaitL (fld w 53 50) (syncOf w)) (.hwaitR (fld w 53 50) (syncOf w))) rfl e1 (by decide) (fun w hw => by unfold decodeY; rw [hw]; rfl) ?_
  simp only [encode]
  rw [dFlag_rt hy e6 (by decide : 1 < 2) e5 (by simp [p5, p6])]
  simp only [p4, syncOf_rt hy e6]
  rfl

theorem hstat (h' : Nat) (c : Nat) (sel : Nat) (y : Sync) : Statement (.hstat h' c sel y) := by
  intro h _
  replace h : (decide (h' < 16) && r6 c && decide (sel < 2) && y.wf) = true := h
  simp only [r6, Bool.and_eq_true, decide_eq_true_eq] at h
  obtain ⟨⟨⟨hh, hc⟩, hs⟩, hy⟩ := h
  obtain ⟨e1, e2, e3, e4, e5, e6⟩ := eY_spec (op := 0x0A) (by omega : h' < 64) (by decide : 0 < 64) hc (by omega : sel < 64) hy
  obtain ⟨-, -, -, p4, p5, -⟩ := y_parts (eY 0x0A h' 0 c sel y)
  rw [e2] at p4 p5
  rw [Nat.div_eq_of_lt hh] at p5
  rw [Nat.mod_eq_of_lt hh] at p4
  refine rtY 0x0A (fun w => chkY (fld w 55 54 == 0 && yb w == 0 && decide (yi w < 2)) w (.hstat (fld w 53 50) (yc w) (yi w) (syncOf w))) rfl e1 (by decide) (fun w hw => by unfold decodeY; rw [hw]; rfl) ?_
  have hs' : decide (sel < 2) = true := by simpa using hs
  simp only [encode, p4, p5, e3, e4, e5, hs', syncOf_rt hy e6]
  exact chkY_rt hy e6 rfl

theorem hrel (h' : Nat) (y : Sync) : Statement (.hrel h' y) := by
  intro h _
  replace h : (decide (h' < 16) && y.wf) = true := h
  simp only [Bool.and_eq_true, decide_eq_true_eq] at h
  obtain ⟨hh, hy⟩ := h
  obtain ⟨e1, e2, e3, e4, e5, e6⟩ := eY_spec (op := 0x0B) (by omega : h' < 64) (by decide : 0 < 64) (by decide : 0 < 64) (by decide : 0 < 64) hy
  obtain ⟨-, -, -, p4, p5, -, p7, -⟩ := y_parts (eY 0x0B h' 0 0 0 y)
  rw [e2] at p4 p5
  rw [Nat.div_eq_of_lt hh] at p5
  rw [Nat.mod_eq_of_lt hh] at p4
  rw [e3, e4, e5] at p7
  refine rtY 0x0B (fun w => chkY (fld w 55 54 == 0 && fld w 49 32 == 0) w (.hrel (fld w 53 50) (syncOf w))) rfl e1 (by decide) (fun w hw => by unfold decodeY; rw [hw]; rfl) ?_
  simp only [encode, p4, p5, p7, syncOf_rt hy e6]
  exact chkY_rt hy e6 rfl

theorem tspawn (c : Nat) (a : Nat) (y : Sync) : Statement (.tspawn c a y) := by
  intro h _
  replace h : w2 c a y = true := h
  simp only [w2, w3, r6, Bool.and_eq_true, decide_eq_true_eq] at h
  obtain ⟨⟨hc, ha⟩, hy⟩ := h
  obtain ⟨e1, e2, e3, e4, e5, e6⟩ := eY_spec (op := 0x0C) (imm := 0) ha (by decide : 0 < 64) hc (by decide) hy
  refine rtY 0x0C (fun w => dFlag w (yb w == 0) true (.tspawn (yc w) (ya w) (syncOf w)) (.tspawnR (yc w) (ya w) (yb w) (syncOf w))) rfl e1 (by decide) (fun w hw => by unfold decodeY; rw [hw]; rfl) ?_
  simp only [encode]
  rw [dFlag_rt hy e6 (by decide : 0 < 2) e5 (by simp [e3])]
  simp only [e2, e3, e4, syncOf_rt hy e6]
  rfl

theorem tspawnR (c : Nat) (a : Nat) (b : Nat) (y : Sync) : Statement (.tspawnR c a b y) := by
  intro h _
  replace h : w3 a b c y = true := h
  simp only [w2, w3, r6, Bool.and_eq_true, decide_eq_true_eq] at h
  obtain ⟨⟨⟨ha, hb⟩, hc⟩, hy⟩ := h
  obtain ⟨e1, e2, e3, e4, e5, e6⟩ := eY_spec (op := 0x0C) (imm := 1) ha hb hc (by decide) hy
  refine rtY 0x0C (fun w => dFlag w (yb w == 0) true (.tspawn (yc w) (ya w) (syncOf w)) (.tspawnR (yc w) (ya w) (yb w) (syncOf w))) rfl e1 (by decide) (fun w hw => by unfold decodeY; rw [hw]; rfl) ?_
  simp only [encode]
  rw [dFlag_rt hy e6 (by decide : 1 < 2) e5 rfl]
  simp only [e2, e3, e4, syncOf_rt hy e6]
  rfl

theorem tdep (a : Nat) (imm : Nat) (y : Sync) : Statement (.tdep a imm y) := by
  intro h _
  replace h : (r6 a && decide (0 < imm) && decide (imm < 64) && y.wf) = true := h
  simp only [r6, Bool.and_eq_true, decide_eq_true_eq] at h
  obtain ⟨⟨⟨ha, h0⟩, hi⟩, hy⟩ := h
  obtain ⟨e1, e2, e3, e4, e5, e6⟩ := eY_spec (op := 0x0D) ha (by decide : 0 < 64) (by decide : 0 < 64) hi hy
  refine rtY 0x0D (fun w => chkY (yb w == 0 && yc w == 0 && yi w != 0) w (.tdep (ya w) (yi w) (syncOf w))) rfl e1 (by decide) (fun w hw => by unfold decodeY; rw [hw]; rfl) ?_
  have hm : (imm != 0) = true := by simp; omega
  simp only [encode, e2, e3, e4, e5, hm, syncOf_rt hy e6]
  exact chkY_rt hy e6 rfl

theorem tsuspL (h' : Nat) (a : Nat) (b : Nat) (y : Sync) : Statement (.tsuspL h' a b y) := by
  intro h _
  replace h : (decide (h' < 16) && w2 a b y) = true := h
  simp only [w2, r6, Bool.and_eq_true, decide_eq_true_eq] at h
  obtain ⟨hh, ⟨ha, hb⟩, hy⟩ := h
  obtain ⟨e1, e2, e3, e4, e5, e6⟩ := eY_spec (op := 0x0E) ha hb (by decide : 0 < 64) (by omega : h' * 4 < 64) hy
  obtain ⟨-, p2, p3, -⟩ := y_parts (eY 0x0E a b 0 (h' * 4) y)
  rw [e5] at p2 p3
  replace p2 : fld (eY 0x0E a b 0 (h' * 4) y) 33 32 = 0 := by omega
  replace p3 : fld (eY 0x0E a b 0 (h' * 4) y) 37 34 = h' := by omega
  refine rtY 0x0E (fun w => dTsusp w) rfl e1 (by decide) (fun w hw => by unfold decodeY; rw [hw]; rfl) ?_
  simp only [encode, dTsusp, p2, p3, e2, e3, e4, syncOf_rt hy e6]
  exact chkY_rt hy e6 rfl

theorem tsuspR (h' : Nat) (a : Nat) (b : Nat) (y : Sync) : Statement (.tsuspR h' a b y) := by
  intro h _
  replace h : (decide (h' < 16) && w2 a b y) = true := h
  simp only [w2, r6, Bool.and_eq_true, decide_eq_true_eq] at h
  obtain ⟨hh, ⟨ha, hb⟩, hy⟩ := h
  obtain ⟨e1, e2, e3, e4, e5, e6⟩ := eY_spec (op := 0x0E) ha hb (by decide : 0 < 64) (by omega : h' * 4 + 1 < 64) hy
  obtain ⟨-, p2, p3, -⟩ := y_parts (eY 0x0E a b 0 (h' * 4 + 1) y)
  rw [e5] at p2 p3
  replace p2 : fld (eY 0x0E a b 0 (h' * 4 + 1) y) 33 32 = 1 := by omega
  replace p3 : fld (eY 0x0E a b 0 (h' * 4 + 1) y) 37 34 = h' := by omega
  refine rtY 0x0E (fun w => dTsusp w) rfl e1 (by decide) (fun w hw => by unfold decodeY; rw [hw]; rfl) ?_
  simp only [encode, dTsusp, p2, p3, e2, e3, e4, syncOf_rt hy e6]
  exact chkY_rt hy e6 rfl

theorem tsuspM (c : Nat) (a : Nat) (b : Nat) (y : Sync) : Statement (.tsuspM c a b y) := by
  intro h _
  replace h : w3 a b c y = true := h
  simp only [w3, r6, Bool.and_eq_true, decide_eq_true_eq] at h
  obtain ⟨⟨⟨ha, hb⟩, hc⟩, hy⟩ := h
  obtain ⟨e1, e2, e3, e4, e5, e6⟩ := eY_spec (op := 0x0E) ha hb hc (by decide : 2 < 64) hy
  obtain ⟨-, p2, p3, -⟩ := y_parts (eY 0x0E a b c 2 y)
  rw [e5] at p2 p3
  refine rtY 0x0E (fun w => dTsusp w) rfl e1 (by decide) (fun w hw => by unfold decodeY; rw [hw]; rfl) ?_
  simp only [encode, dTsusp, p2, p3, e2, e3, e4, syncOf_rt hy e6]
  exact chkY_rt hy e6 rfl

theorem texit (y : Sync) : Statement (.texit y) := by
  intro h _
  replace h : y.wf = true := h
  obtain ⟨e1, e2, e3, e4, e5, e6⟩ := eY_spec (op := 0x0F) (by decide : 0 < 64) (by decide : 0 < 64) (by decide : 0 < 64) (by decide : 0 < 64) h
  have p := (y_parts (eY 0x0F 0 0 0 0 y)).2.2.2.2.2.2.2.1
  rw [e2, e3, e4, e5] at p
  refine rtY 0x0F (fun w => chkY (fld w 55 32 == 0) w (.texit (syncOf w))) rfl e1 (by decide) (fun w hw => by unfold decodeY; rw [hw]; rfl) ?_
  simp only [encode, p, syncOf_rt h e6]
  exact chkY_rt h e6 rfl

theorem tmatch (a : Nat) (b : Nat) (c : Nat) (y : Sync) : Statement (.tmatch a b c y) := by
  intro h _
  replace h : w3 a b c y = true := h
  simp only [w2, w3, r6, Bool.and_eq_true, decide_eq_true_eq] at h
  obtain ⟨⟨⟨ha, hb⟩, hc⟩, hy⟩ := h
  obtain ⟨e1, e2, e3, e4, e5, e6⟩ := eY_spec (op := 0x10) (imm := 0) ha hb hc (by decide) hy
  refine rtY 0x10 (fun w => dFlag w true true (.tmatch (ya w) (yb w) (yc w) (syncOf w)) (.tmatchS (ya w) (yb w) (yc w) (syncOf w))) rfl e1 (by decide) (fun w hw => by unfold decodeY; rw [hw]; rfl) ?_
  simp only [encode]
  rw [dFlag_rt hy e6 (by decide : 0 < 2) e5 rfl]
  simp only [e2, e3, e4, syncOf_rt hy e6]
  rfl

theorem tmatchS (a : Nat) (b : Nat) (c : Nat) (y : Sync) : Statement (.tmatchS a b c y) := by
  intro h _
  replace h : w3 a b c y = true := h
  simp only [w2, w3, r6, Bool.and_eq_true, decide_eq_true_eq] at h
  obtain ⟨⟨⟨ha, hb⟩, hc⟩, hy⟩ := h
  obtain ⟨e1, e2, e3, e4, e5, e6⟩ := eY_spec (op := 0x10) (imm := 1) ha hb hc (by decide) hy
  refine rtY 0x10 (fun w => dFlag w true true (.tmatch (ya w) (yb w) (yc w) (syncOf w)) (.tmatchS (ya w) (yb w) (yc w) (syncOf w))) rfl e1 (by decide) (fun w hw => by unfold decodeY; rw [hw]; rfl) ?_
  simp only [encode]
  rw [dFlag_rt hy e6 (by decide : 1 < 2) e5 rfl]
  simp only [e2, e3, e4, syncOf_rt hy e6]
  rfl

theorem tcancel (a : Nat) (y : Sync) : Statement (.tcancel a y) := fun h _ =>
  rtY 0x11 (fun w => dA w .tcancel) rfl (dA_rt (f := .tcancel) h).1 (by decide) (fun w hw => by unfold decodeY; rw [hw]; rfl) (dA_rt (f := .tcancel) h).2

theorem tjobq (c : Nat) (a : Nat) (y : Sync) : Statement (.tjobq c a y) := fun h _ =>
  rtY 0x12 (fun w => dCa w .tjobq) rfl (dCa_rt (f := .tjobq) h).1 (by decide) (fun w hw => by unfold decodeY; rw [hw]; rfl) (dCa_rt (f := .tjobq) h).2

theorem vwnew (c : Nat) (b : Nat) (y : Sync) : Statement (.vwnew c b y) := by
  intro h _
  replace h : w2 c b y = true := h
  simp only [w2, w3, r6, Bool.and_eq_true, decide_eq_true_eq] at h
  obtain ⟨⟨hc, hb⟩, hy⟩ := h
  obtain ⟨e1, e2, e3, e4, e5, e6⟩ := eY_spec (op := 0x1E) (by decide : 0 < 64) hb hc (by decide : 0 < 64) hy
  refine rtY 0x1E (fun w => chkY (ya w == 0 && yi w == 0) w (.vwnew (yc w) (yb w) (syncOf w))) rfl e1 (by decide) (fun w hw => by unfold decodeY; rw [hw]; rfl) ?_
  simp only [encode, e2, e3, e4, e5, syncOf_rt hy e6]
  exact chkY_rt hy e6 rfl

theorem vwdup (c : Nat) (a : Nat) (b : Nat) (y : Sync) : Statement (.vwdup c a b y) := by
  intro h _
  replace h : w3 a b c y = true := h
  simp only [w2, w3, r6, Bool.and_eq_true, decide_eq_true_eq] at h
  obtain ⟨⟨⟨ha, hb⟩, hc⟩, hy⟩ := h
  obtain ⟨e1, e2, e3, e4, e5, e6⟩ := eY_spec (op := 0x1F) ha hb hc (by decide : 0 < 64) hy
  refine rtY 0x1F (fun w => chkY (yi w == 0) w (.vwdup (yc w) (ya w) (yb w) (syncOf w))) rfl e1 (by decide) (fun w hw => by unfold decodeY; rw [hw]; rfl) ?_
  simp only [encode, e2, e3, e4, e5, syncOf_rt hy e6]
  exact chkY_rt hy e6 rfl

theorem vwnar (a : Nat) (b : Nat) (y : Sync) : Statement (.vwnar a b y) := fun h _ =>
  rtY 0x20 (fun w => dAb w .vwnar) rfl (dAb_rt (f := .vwnar) h).1 (by decide) (fun w hw => by unfold decodeY; rw [hw]; rfl) (dAb_rt (f := .vwnar) h).2

theorem vwdrop (a : Nat) (y : Sync) : Statement (.vwdrop a y) := fun h _ =>
  rtY 0x21 (fun w => dA w .vwdrop) rfl (dA_rt (f := .vwdrop) h).1 (by decide) (fun w hw => by unfold decodeY; rw [hw]; rfl) (dA_rt (f := .vwdrop) h).2

theorem vwq (c : Nat) (a : Nat) (sel : Nat) (y : Sync) : Statement (.vwq c a sel y) := by
  intro h _
  replace h : (w2 c a y && decide (sel < 3)) = true := h
  simp only [w2, w3, r6, Bool.and_eq_true, decide_eq_true_eq] at h
  obtain ⟨⟨⟨hc, ha⟩, hy⟩, hs⟩ := h
  obtain ⟨e1, e2, e3, e4, e5, e6⟩ := eY_spec (op := 0x22) ha (by decide : 0 < 64) hc (by omega : sel < 64) hy
  refine rtY 0x22 (fun w => chkY (yb w == 0 && decide (yi w < 3)) w (.vwq (yc w) (ya w) (yi w) (syncOf w))) rfl e1 (by decide) (fun w hw => by unfold decodeY; rw [hw]; rfl) ?_
  have hs' : decide (sel < 3) = true := by simpa using hs
  simp only [encode, e2, e3, e4, e5, hs', syncOf_rt hy e6]
  exact chkY_rt hy e6 rfl

theorem vwsync (y : Sync) : Statement (.vwsync y) := by
  intro h _
  replace h : y.wf = true := h
  obtain ⟨e1, e2, e3, e4, e5, e6⟩ := eY_spec (op := 0x23) (by decide : 0 < 64) (by decide : 0 < 64) (by decide : 0 < 64) (by decide : 0 < 64) h
  have p := (y_parts (eY 0x23 0 0 0 0 y)).2.2.2.2.2.2.2.1
  rw [e2, e3, e4, e5] at p
  refine rtY 0x23 (fun w => chkY (fld w 55 32 == 0) w (.vwsync (syncOf w))) rfl e1 (by decide) (fun w hw => by unfold decodeY; rw [hw]; rfl) ?_
  simp only [encode, p, syncOf_rt h e6]
  exact chkY_rt h e6 rfl

theorem wcreate (w : Nat) (c : Nat) (a : Nat) (y : Sync) : Statement (.wcreate w c a y) := by
  intro h _
  replace h : (wW w c y && r6 a) = true := h
  simp only [wW, r6, Bool.and_eq_true, decide_eq_true_eq] at h
  obtain ⟨⟨⟨hn, hc⟩, hy⟩, ha⟩ := h
  obtain ⟨e1, e2, e3, e4, e5, e6, e7⟩ := eSem_spec (op := 0x13) (gl := false) hn hc ha hy
  refine rtY 0x13 (fun w => chkY (fld w 47 44 == 0) w (.wcreate (ysem w) (yc w) (yi w) (syncOf w))) rfl e1 (by decide) (fun w hw => by unfold decodeY; rw [hw]; rfl) ?_
  simp only [encode, eW, e2, e4, e5, w47_spec _ e3 e6, syncOf_rt hy e7]
  exact chkY_rt hy e7 rfl

theorem wfree (w : Nat) (y : Sync) : Statement (.wfree w y) := by
  intro h _
  replace h : (decide (w < 256) && y.wf) = true := h
  simp only [Bool.and_eq_true, decide_eq_true_eq] at h
  obtain ⟨hn, hy⟩ := h
  obtain ⟨e1, e2, e3, e4, e5, e6, e7⟩ := eSem_spec (op := 0x14) (gl := false) hn (by decide : 0 < 64) (by decide : 0 < 64) hy
  have p := w47_spec _ e3 e6
  have q : fld (eSem 0x14 w false 0 0 y) 47 32 = 0 := by
    simp only [yc, yi, fld] at e4 e5 p ⊢
    omega
  refine rtY 0x14 (fun w => chkY (fld w 47 32 == 0) w (.wfree (ysem w) (syncOf w))) rfl e1 (by decide) (fun w hw => by unfold decodeY; rw [hw]; rfl) ?_
  simp only [encode, eW, e2, q, syncOf_rt hy e7]
  exact chkY_rt hy e7 rfl

theorem wfence (w : Nat) (c : Nat) (y : Sync) : Statement (.wfence w c y) := by
  intro h _
  refine rtY 0x15 (fun w => dWf w .wfence .wfenceClose) rfl (dWf_rt (op := 0x15) (b := 0) (f0 := .wfence) (f1 := .wfence) h (by decide)).1 (by decide) (fun w hw => by unfold decodeY; rw [hw]; rfl) ?_
  exact (dWf_rt (op := 0x15) (b := 0) h (by decide)).2

theorem wfenceClose (w : Nat) (c : Nat) (y : Sync) : Statement (.wfenceClose w c y) := by
  intro h _
  refine rtY 0x15 (fun w => dWf w .wfence .wfenceClose) rfl (dWf_rt (op := 0x15) (b := 1) (f0 := .wfence) (f1 := .wfence) h (by decide)).1 (by decide) (fun w hw => by unfold decodeY; rw [hw]; rfl) ?_
  exact (dWf_rt (op := 0x15) (b := 1) h (by decide)).2

theorem wpost (w : Nat) (c : Nat) (y : Sync) : Statement (.wpost w c y) := fun h _ =>
  rtY 0x16 (fun w => dW w .wpost) rfl (dW_rt (f := .wpost) h).1 (by decide) (fun w hw => by unfold decodeY; rw [hw]; rfl) (dW_rt (f := .wpost) h).2

theorem wstart (w : Nat) (c : Nat) (y : Sync) : Statement (.wstart w c y) := fun h _ =>
  rtY 0x17 (fun w => dW w .wstart) rfl (dW_rt (f := .wstart) h).1 (by decide) (fun w hw => by unfold decodeY; rw [hw]; rfl) (dW_rt (f := .wstart) h).2

theorem wcompl (w : Nat) (c : Nat) (y : Sync) : Statement (.wcompl w c y) := fun h _ =>
  rtY 0x18 (fun w => dW w .wcompl) rfl (dW_rt (f := .wcompl) h).1 (by decide) (fun w hw => by unfold decodeY; rw [hw]; rfl) (dW_rt (f := .wcompl) h).2

theorem wwait (w : Nat) (c : Nat) (y : Sync) : Statement (.wwait w c y) := fun h _ =>
  rtY 0x19 (fun w => dW w .wwait) rfl (dW_rt (f := .wwait) h).1 (by decide) (fun w hw => by unfold decodeY; rw [hw]; rfl) (dW_rt (f := .wwait) h).2

theorem wlockSh (w : Nat) (c : Nat) (y : Sync) : Statement (.wlockSh w c y) := by
  intro h _
  refine rtY 0x1A (fun w => dWf w .wlockSh .wlockEx) rfl (dWf_rt (op := 0x1A) (b := 0) (f0 := .wfence) (f1 := .wfence) h (by decide)).1 (by decide) (fun w hw => by unfold decodeY; rw [hw]; rfl) ?_
  exact (dWf_rt (op := 0x1A) (b := 0) h (by decide)).2

theorem wlockEx (w : Nat) (c : Nat) (y : Sync) : Statement (.wlockEx w c y) := by
  intro h _
  refine rtY 0x1A (fun w => dWf w .wlockSh .wlockEx) rfl (dWf_rt (op := 0x1A) (b := 1) (f0 := .wfence) (f1 := .wfence) h (by decide)).1 (by decide) (fun w hw => by unfold decodeY; rw [hw]; rfl) ?_
  exact (dWf_rt (op := 0x1A) (b := 1) h (by decide)).2

theorem wunlock (w : Nat) (c : Nat) (y : Sync) : Statement (.wunlock w c y) := fun h _ =>
  rtY 0x1B (fun w => dW w .wunlock) rfl (dW_rt (f := .wunlock) h).1 (by decide) (fun w hw => by unfold decodeY; rw [hw]; rfl) (dW_rt (f := .wunlock) h).2

theorem xget (a : Nat) (b : Nat) (c : Nat) (e : Nat) (x : XArgs) : Statement (.xget a b c e x) := by
  intro h _
  replace h : wRc a b c e x = true := h
  obtain ⟨e1, e2, e3, e4, e5, e6, e7, e8, e9, e10, e11, hy⟩ := eX_spec (op := 0x09) (q := 0) (fl := 0) (tag := 0) h (by decide) (by decide) (by decide)
  refine rtC 0x09 (fun w => chkY (rcOk w (fld w 51 40 == 0 && fld w 39 33 == 0)) w (.xget (ca w) (cb w) (cc w) (ce w) (xArgs w))) rfl e1 (by decide) (fun w hw => by unfold decodeC; rw [hw]; rfl) ?_
  simp only [encode, rcOk, e2, e3, e4, e5, e6, e7, e8, e9, e10, syncOk_rt hy e11]
  exact chkY_rt hy e11 rfl

theorem xput (a : Nat) (b : Nat) (c : Nat) (e : Nat) (tag : Nat) (x : XArgs) : Statement (.xput a b c e tag x) := by
  intro h _
  replace h : (wRc a b c e x && decide (tag < 4096)) = true := h
  simp only [Bool.and_eq_true, decide_eq_true_eq] at h
  obtain ⟨h, ht⟩ := h
  obtain ⟨e1, e2, e3, e4, e5, e6, e7, e8, e9, e10, e11, hy⟩ := eX_spec (op := 0x0A) (q := 0) (fl := 0) (tag := tag) h (by decide) ht (by decide)
  obtain ⟨-, -, p3, p4, -⟩ := fl_parts (eX 0x0A a b c e 0 tag 0 x)
  rw [e10] at p3 p4
  refine rtC 0x0A (fun w =>
      chkY (rcOk w (fld w 39 34 == 0)) w
        (if fld w 33 33 = 1 then .xputRel (ca w) (cb w) (cc w) (ce w) (fld w 51 40) (xArgs w)
         else .xput (ca w) (cb w) (cc w) (ce w) (fld w 51 40) (xArgs w))) rfl e1 (by decide) (fun w hw => by unfold decodeC; rw [hw]; rfl) ?_
  simp only [encode, rcOk, e2, e3, e4, e5, e6, e7, e8, e9, p3, p4, syncOk_rt hy e11]
  exact chkY_rt hy e11 rfl

theorem xputRel (a : Nat) (b : Nat) (c : Nat) (e : Nat) (tag : Nat) (x : XArgs) : Statement (.xputRel a b c e tag x) := by
  intro h _
  replace h : (wRc a b c e x && decide (tag < 4096)) = true := h
  simp only [Bool.and_eq_true, decide_eq_true_eq] at h
  obtain ⟨h, ht⟩ := h
  obtain ⟨e1, e2, e3, e4, e5, e6, e7, e8, e9, e10, e11, hy⟩ := eX_spec (op := 0x0A) (q := 0) (fl := 1) (tag := tag) h (by decide) ht (by decide)
  obtain ⟨-, -, p3, p4, -⟩ := fl_parts (eX 0x0A a b c e 0 tag 1 x)
  rw [e10] at p3 p4
  refine rtC 0x0A (fun w =>
      chkY (rcOk w (fld w 39 34 == 0)) w
        (if fld w 33 33 = 1 then .xputRel (ca w) (cb w) (cc w) (ce w) (fld w 51 40) (xArgs w)
         else .xput (ca w) (cb w) (cc w) (ce w) (fld w 51 40) (xArgs w))) rfl e1 (by decide) (fun w hw => by unfold decodeC; rw [hw]; rfl) ?_
  simp only [encode, rcOk, e2, e3, e4, e5, e6, e7, e8, e9, p3, p4, syncOk_rt hy e11]
  exact chkY_rt hy e11 rfl

theorem xacc (op : AccOp) (t : Ty) (a : Nat) (b : Nat) (c : Nat) (e : Nat) (tag : Nat) (x : XArgs) : Statement (.xacc op t a b c e tag x) := by
  intro h _
  replace h : (wRc a b c e x && decide (tag < 4096) && xaccTy op t) = true := h
  simp only [Bool.and_eq_true, decide_eq_true_eq] at h
  obtain ⟨⟨h, ht⟩, hty⟩ := h
  have ho := accCode_lt op
  have hc := code_lt t
  obtain ⟨e1, e2, e3, e4, e5, e6, e7, e8, e9, e10, e11, hy⟩ := eX_spec (op := 0x0B) (q := 0) (fl := accCode op * 2 ^ 4 + t.code) (tag := tag) h (by decide) ht (by omega)
  obtain ⟨p1, p2, -⟩ := fl_parts (eX 0x0B a b c e 0 tag (accCode op * 2 ^ 4 + t.code) x)
  rw [e10] at p1 p2
  replace p1 : fld (eX 0x0B a b c e 0 tag (accCode op * 2 ^ 4 + t.code) x) 39 37 = accCode op := by omega
  replace p2 : fld (eX 0x0B a b c e 0 tag (accCode op * 2 ^ 4 + t.code) x) 36 33 = t.code := by omega
  refine rtC 0x0B (fun w => dXacc w) rfl e1 (by decide) (fun w hw => by unfold decodeC; rw [hw]; rfl) ?_
  exact dXacc_of e2 e3 e4 e5 e6 e7 e8 e9 p1 p2 e11 hy hty

theorem xamo (op : AmoOp) (t : Ty) (a : Nat) (b : Nat) (c : Nat) (e : Nat) (x : XArgs) : Statement (.xamo op t a b c e x) := by
  intro h _
  replace h : (wRc a b c e x && xamoTy op t) = true := h
  simp only [Bool.and_eq_true, decide_eq_true_eq] at h
  obtain ⟨h, hty⟩ := h
  have ho := amoCode_lt op
  have hc := code_lt t
  obtain ⟨e1, e2, e3, e4, e5, e6, e7, e8, e9, e10, e11, hy⟩ := eX_spec (op := 0x0C) (q := 0) (fl := amoCode op * 2 ^ 4 + t.code) (tag := 0) h (by decide) (by decide) (by omega)
  obtain ⟨p1, p2, -⟩ := fl_parts (eX 0x0C a b c e 0 0 (amoCode op * 2 ^ 4 + t.code) x)
  rw [e10] at p1 p2
  replace p1 : fld (eX 0x0C a b c e 0 0 (amoCode op * 2 ^ 4 + t.code) x) 39 37 = amoCode op := by omega
  replace p2 : fld (eX 0x0C a b c e 0 0 (amoCode op * 2 ^ 4 + t.code) x) 36 33 = t.code := by omega
  refine rtC 0x0C (fun w => dXamo w) rfl e1 (by decide) (fun w hw => by unfold decodeC; rw [hw]; rfl) ?_
  exact dXamo_of e2 e3 e4 e5 e6 e7 e8 e9 p1 p2 e11 hy hty

theorem flowcfg (a : Nat) (b : Nat) (y : Sync) : Statement (.flowcfg a b y) := fun h _ =>
  rtY 0x24 (fun w => dAb w .flowcfg) rfl (dAb_rt (f := .flowcfg) h).1 (by decide) (fun w hw => by unfold decodeY; rw [hw]; rfl) (dAb_rt (f := .flowcfg) h).2

theorem csend (q : Nat) (a : Nat) (b : Nat) (x : XArgs) : Statement (.csend q a b x) := by
  intro h _
  replace h : (wRc a b 0 0 x && decide (q < 4)) = true := h
  simp only [Bool.and_eq_true, decide_eq_true_eq] at h
  obtain ⟨h, hq⟩ := h
  obtain ⟨e1, e2, e3, e4, e5, e6, e7, e8, e9, e10, e11, hy⟩ := eX_spec (op := 0x0E) (q := q) (fl := 0) (tag := 0) h hq (by decide) (by decide)
  have p := (fl_parts (eX 0x0E a b 0 0 q 0 0 x)).2.2.2.2
  rw [e9, e10] at p
  refine rtC 0x0E (fun w => chkY (hndOk w && cc w == 0 && ce w == 0 && fld w 51 33 == 0) w (.csend (cq w) (ca w) (cb w) (xArgs w))) rfl e1 (by decide) (fun w hw => by unfold decodeC; rw [hw]; rfl) ?_
  simp only [encode, e2, e3, e4, e5, e6, e7, e8, p]
  exact chkY_rt hy e11 rfl

theorem crecv (c : Nat) (a : Nat) (y : Sync) : Statement (.crecv c a y) := fun h _ =>
  rtY 0x1C (fun w => dCa w .crecv) rfl (dCa_rt (f := .crecv) h).1 (by decide) (fun w hw => by unfold decodeY; rw [hw]; rfl) (dCa_rt (f := .crecv) h).2

theorem cret (c : Nat) (a : Nat) (y : Sync) : Statement (.cret c a y) := fun h _ =>
  rtY 0x1D (fun w => dCa w .cret) rfl (dCa_rt (f := .cret) h).1 (by decide) (fun w hw => by unfold decodeY; rw [hw]; rfl) (dCa_rt (f := .cret) h).2

theorem xred (op : RedOp) (t : Ty) (a : Nat) (b : Nat) (c : Nat) (tag : Nat) (x : XArgs) : Statement (.xred op t a b c tag x) := by
  intro h _
  replace h : (wRc a b c 0 x && decide (x.flow = 0) && decide (tag < 4096) && xredTy op t) = true := h
  simp only [Bool.and_eq_true, decide_eq_true_eq] at h
  obtain ⟨⟨⟨h, hf⟩, ht⟩, hty⟩ := h
  have ho := redCode_lt op
  have hc := code_lt t
  obtain ⟨e1, e2, e3, e4, e5, e6, e7, e8, e9, e10, e11, hy⟩ := eX_spec (op := 0x0D) (q := 0) (fl := redCode op * 2 ^ 4 + t.code) (tag := tag) h (by decide) ht (by omega)
  obtain ⟨p1, p2, -⟩ := fl_parts (eX 0x0D a b c 0 0 tag (redCode op * 2 ^ 4 + t.code) x)
  rw [e10] at p1 p2
  replace p1 : fld (eX 0x0D a b c 0 0 tag (redCode op * 2 ^ 4 + t.code) x) 39 37 = redCode op := by omega
  replace p2 : fld (eX 0x0D a b c 0 0 tag (redCode op * 2 ^ 4 + t.code) x) 36 33 = t.code := by omega
  refine rtC 0x0D (fun w => dXred w) rfl e1 (by decide) (fun w hw => by unfold decodeC; rw [hw]; rfl) ?_
  exact dXred_of e2 e3 e4 e5 e6 e7 e8 e9 p1 p2 e11 hy hf hty

theorem preempt (a : Nat) (c : Nat) (y : Sync) : Statement (.preempt a c y) := by
  intro h _
  replace h : w2 a c y = true := h
  simp only [w2, w3, r6, Bool.and_eq_true, decide_eq_true_eq] at h
  obtain ⟨⟨ha, hc⟩, hy⟩ := h
  obtain ⟨e1, e2, e3, e4, e5, e6⟩ := eY_spec (op := 0x2A) (imm := 0) ha (by decide : 0 < 64) hc (by decide) hy
  refine rtY 0x2A (fun w => dFlag w (yb w == 0) (fld w 55 38 == 0) (.preempt (ya w) (yc w) (syncOf w)) (.preemptSelf (syncOf w))) rfl e1 (by decide) (fun w hw => by unfold decodeY; rw [hw]; rfl) ?_
  simp only [encode]
  rw [dFlag_rt hy e6 (by decide : 0 < 2) e5 (by simp [e3])]
  simp only [e2, e3, e4, syncOf_rt hy e6]
  rfl

theorem preemptSelf (y : Sync) : Statement (.preemptSelf y) := by
  intro h _
  replace h : y.wf = true := h
  obtain ⟨e1, e2, e3, e4, e5, e6⟩ := eY_spec (op := 0x2A) (imm := 1) (by decide : 0 < 64) (by decide : 0 < 64) (by decide : 0 < 64) (by decide) h
  have p := (y_parts (eY 0x2A 0 0 0 1 y)).2.2.2.2.2.2.2.2
  rw [e2, e3, e4] at p
  refine rtY 0x2A (fun w => dFlag w (yb w == 0) (fld w 55 38 == 0) (.preempt (ya w) (yc w) (syncOf w)) (.preemptSelf (syncOf w))) rfl e1 (by decide) (fun w hw => by unfold decodeY; rw [hw]; rfl) ?_
  simp only [encode]
  rw [dFlag_rt h e6 (by decide : 1 < 2) e5 (by simp [p]), syncOf_rt h e6]
  rfl

theorem ctxsv (q : Nat) (a : Nat) (b : Nat) (e : Nat) (y : Sync) : Statement (.ctxsv q a b e y) := by
  intro h _
  refine rtC 0x11 (fun w => dImg w .ctxsv .ctxsvUpad .ctxsvCpad) rfl (dImg_rt (op := 0x11) (sub := 0) (f0 := .ctxsv) (f1 := .ctxsv) (f2 := .ctxsv) h (by decide)).1 (by decide) (fun w hw => by unfold decodeC; rw [hw]; rfl) ?_
  exact (dImg_rt (op := 0x11) (sub := 0) h (by decide)).2

theorem ctxsvUpad (q : Nat) (a : Nat) (b : Nat) (e : Nat) (y : Sync) : Statement (.ctxsvUpad q a b e y) := by
  intro h _
  refine rtC 0x11 (fun w => dImg w .ctxsv .ctxsvUpad .ctxsvCpad) rfl (dImg_rt (op := 0x11) (sub := 1) (f0 := .ctxsv) (f1 := .ctxsv) (f2 := .ctxsv) h (by decide)).1 (by decide) (fun w hw => by unfold decodeC; rw [hw]; rfl) ?_
  exact (dImg_rt (op := 0x11) (sub := 1) h (by decide)).2

theorem ctxsvCpad (q : Nat) (a : Nat) (b : Nat) (e : Nat) (y : Sync) : Statement (.ctxsvCpad q a b e y) := by
  intro h _
  refine rtC 0x11 (fun w => dImg w .ctxsv .ctxsvUpad .ctxsvCpad) rfl (dImg_rt (op := 0x11) (sub := 2) (f0 := .ctxsv) (f1 := .ctxsv) (f2 := .ctxsv) h (by decide)).1 (by decide) (fun w hw => by unfold decodeC; rw [hw]; rfl) ?_
  exact (dImg_rt (op := 0x11) (sub := 2) h (by decide)).2

theorem ctxld (q : Nat) (a : Nat) (b : Nat) (e : Nat) (y : Sync) : Statement (.ctxld q a b e y) := by
  intro h _
  refine rtC 0x12 (fun w => dImg w .ctxld .ctxldUpad .ctxldCpad) rfl (dImg_rt (op := 0x12) (sub := 0) (f0 := .ctxsv) (f1 := .ctxsv) (f2 := .ctxsv) h (by decide)).1 (by decide) (fun w hw => by unfold decodeC; rw [hw]; rfl) ?_
  exact (dImg_rt (op := 0x12) (sub := 0) h (by decide)).2

theorem ctxldUpad (q : Nat) (a : Nat) (b : Nat) (e : Nat) (y : Sync) : Statement (.ctxldUpad q a b e y) := by
  intro h _
  refine rtC 0x12 (fun w => dImg w .ctxld .ctxldUpad .ctxldCpad) rfl (dImg_rt (op := 0x12) (sub := 1) (f0 := .ctxsv) (f1 := .ctxsv) (f2 := .ctxsv) h (by decide)).1 (by decide) (fun w hw => by unfold decodeC; rw [hw]; rfl) ?_
  exact (dImg_rt (op := 0x12) (sub := 1) h (by decide)).2

theorem ctxldCpad (q : Nat) (a : Nat) (b : Nat) (e : Nat) (y : Sync) : Statement (.ctxldCpad q a b e y) := by
  intro h _
  refine rtC 0x12 (fun w => dImg w .ctxld .ctxldUpad .ctxldCpad) rfl (dImg_rt (op := 0x12) (sub := 2) (f0 := .ctxsv) (f1 := .ctxsv) (f2 := .ctxsv) h (by decide)).1 (by decide) (fun w hw => by unfold decodeC; rw [hw]; rfl) ?_
  exact (dImg_rt (op := 0x12) (sub := 2) h (by decide)).2

theorem acfg (f : AField) (a : Nat) (y : Sync) : Statement (.acfg f a y) := by
  intro h _
  replace h : (r6 a && y.wf) = true := h
  simp only [w2, w3, r6, Bool.and_eq_true, decide_eq_true_eq] at h
  obtain ⟨ha, hy⟩ := h
  obtain ⟨e1, e2, e3, e4, e5, e6⟩ := eY_spec (op := 0x25) ha (by decide : 0 < 64) (by decide : 0 < 64) (afCode_lt f) hy
  refine rtY 0x25 (fun w =>
      match afOf (yi w) with
      | none => .error .illegalBundle
      | some f => chkY (yb w == 0 && yc w == 0) w (.acfg f (ya w) (syncOf w))) rfl e1 (by decide) (fun w hw => by unfold decodeY; rw [hw]; rfl) ?_
  simp only [encode, e2, e3, e4, e5, afOf_code, syncOf_rt hy e6]
  exact chkY_rt hy e6 rfl

theorem ago (a : Nat) (b : Nat) (hnd : Option Nat) (y : Sync) : Statement (.ago a b hnd y) := by
  intro h _
  replace h : (w2 a b y && wH hnd) = true := h
  simp only [w2, r6, Bool.and_eq_true, decide_eq_true_eq] at h
  obtain ⟨⟨⟨ha, hb⟩, hy⟩, hh⟩ := h
  obtain ⟨hm, hs⟩ := hBits_spec hh 0 (by decide) (by decide)
  rw [Nat.add_zero] at hm hs
  obtain ⟨e1, e2, e3, e4, e5, e6, e7, e8⟩ := eC_spec (op := 0x0F) (c := 0) (e := 0) (q := 0) ha hb (by decide) (by decide) (by decide) hm hy
  obtain ⟨s1, s2⟩ := hs _ e7
  have hbit : hBits hnd % 2 ^ 26 < 2 := by cases hnd <;> simp only [hBits] <;> omega
  have p' := c_parts' (eC 0x0F a b 0 0 0 (hBits hnd) y)
  have q1 : fld (eC 0x0F a b 0 0 0 (hBits hnd) y) 75 62 = 0 := by simp [p'.2.2.2.2.2.1, e4, e5, e6]
  have q2 : fld (eC 0x0F a b 0 0 0 (hBits hnd) y) 57 33 = 0 := by rw [p'.2.2.2.2.1, e7]; omega
  refine rtC 0x0F (fun w => chkY (hndOk w && fld w 75 62 == 0 && fld w 57 33 == 0) w (.ago (ca w) (cb w) (hndOf w) (syncOf w))) rfl e1 (by decide) (fun w hw => by unfold decodeC; rw [hw]; rfl) ?_
  simp only [encode, e2, e3, s1, s2, q1, q2, syncOf_rt hy e8]
  exact chkY_rt hy e8 rfl

theorem aq (c : Nat) (sel : Nat) (y : Sync) : Statement (.aq c sel y) := by
  intro h _
  replace h : (r6 c && decide (sel < 2) && y.wf) = true := h
  simp only [w2, w3, r6, Bool.and_eq_true, decide_eq_true_eq] at h
  obtain ⟨⟨hc, hs⟩, hy⟩ := h
  obtain ⟨e1, e2, e3, e4, e5, e6⟩ := eY_spec (op := 0x26) (by decide : 0 < 64) (by decide : 0 < 64) hc (by omega : sel < 64) hy
  refine rtY 0x26 (fun w => chkY (ya w == 0 && yb w == 0 && decide (yi w < 2)) w (.aq (yc w) (yi w) (syncOf w))) rfl e1 (by decide) (fun w hw => by unfold decodeY; rw [hw]; rfl) ?_
  have hs' : decide (sel < 2) = true := by simpa using hs
  simp only [encode, e2, e3, e4, e5, hs', syncOf_rt hy e6]
  exact chkY_rt hy e6 rfl

theorem event (a : Nat) (b : Nat) (code : Nat) (y : Sync) : Statement (.event a b code y) := by
  intro h _
  replace h : (w2 a b y && decide (code < 64)) = true := h
  simp only [w2, w3, r6, Bool.and_eq_true, decide_eq_true_eq] at h
  obtain ⟨⟨⟨ha, hb⟩, hy⟩, hi⟩ := h
  obtain ⟨e1, e2, e3, e4, e5, e6⟩ := eY_spec (op := 0x27) ha hb (by decide : 0 < 64) hi hy
  refine rtY 0x27 (fun w => chkY (yc w == 0) w (.event (ya w) (yb w) (yi w) (syncOf w))) rfl e1 (by decide) (fun w hw => by unfold decodeY; rw [hw]; rfl) ?_
  simp only [encode, e2, e3, e4, e5, syncOf_rt hy e6]
  exact chkY_rt hy e6 rfl

theorem shadnWrite : Statement .shadnWrite := fun _ h => absurd rfl h

theorem resultWriteback : Statement .resultWriteback := fun _ h => absurd rfl h

theorem lateAccessPerform : Statement .lateAccessPerform := fun _ h => absurd rfl h

theorem agingDue : Statement .agingDue := fun _ h => absurd rfl h

theorem matrixStart : Statement .matrixStart := fun _ h => absurd rfl h

theorem matrixComplete : Statement .matrixComplete := fun _ h => absurd rfl h

theorem shadowRecord : Statement .shadowRecord := fun _ h => absurd rfl h

theorem copyComplete : Statement .copyComplete := fun _ h => absurd rfl h

theorem pageWalk : Statement .pageWalk := fun _ h => absurd rfl h

theorem fltreplay : Statement .fltreplay := fun _ h => absurd rfl h

theorem frpush : Statement .frpush := fun _ h => absurd rfl h

theorem trgWrite : Statement .trgWrite := fun _ h => absurd rfl h

theorem migrationMove : Statement .migrationMove := fun _ h => absurd rfl h

theorem rcntDecay : Statement .rcntDecay := fun _ h => absurd rfl h

theorem barrierUpdate : Statement .barrierUpdate := fun _ h => absurd rfl h

theorem barrierAutoPhase : Statement .barrierAutoPhase := fun _ h => absurd rfl h

theorem remoteSpawnArrival : Statement .remoteSpawnArrival := fun _ h => absurd rfl h

theorem spawnAckArrival : Statement .spawnAckArrival := fun _ h => absurd rfl h

theorem tdepArrival : Statement .tdepArrival := fun _ h => absurd rfl h

theorem cancelArrival : Statement .cancelArrival := fun _ h => absurd rfl h

theorem tjobqAnswer : Statement .tjobqAnswer := fun _ h => absurd rfl h

theorem jobJoinNotice : Statement .jobJoinNotice := fun _ h => absurd rfl h

theorem jobWave : Statement .jobWave := fun _ h => absurd rfl h

theorem jobDoneNotice : Statement .jobDoneNotice := fun _ h => absurd rfl h

theorem taskDispatch : Statement .taskDispatch := fun _ h => absurd rfl h

theorem taskPriorityRise : Statement .taskPriorityRise := fun _ h => absurd rfl h

theorem chordDeltaApply : Statement .chordDeltaApply := fun _ h => absurd rfl h

theorem fenceAnnounce : Statement .fenceAnnounce := fun _ h => absurd rfl h

theorem wfenceComplete : Statement .wfenceComplete := fun _ h => absurd rfl h

theorem postArrival : Statement .postArrival := fun _ h => absurd rfl h

theorem completeArrival : Statement .completeArrival := fun _ h => absurd rfl h

theorem lockRequestArrival : Statement .lockRequestArrival := fun _ h => absurd rfl h

theorem lockReleaseArrival : Statement .lockReleaseArrival := fun _ h => absurd rfl h

theorem lockGrantArrival : Statement .lockGrantArrival := fun _ h => absurd rfl h

theorem lockRetry : Statement .lockRetry := fun _ h => absurd rfl h

theorem remoteRequest : Statement .remoteRequest := fun _ h => absurd rfl h

theorem remoteAck : Statement .remoteAck := fun _ h => absurd rfl h

theorem getDataLand : Statement .getDataLand := fun _ h => absurd rfl h

theorem flowRetry : Statement .flowRetry := fun _ h => absurd rfl h

theorem portArbitration : Statement .portArbitration := fun _ h => absurd rfl h

theorem vdcapWindow : Statement .vdcapWindow := fun _ h => absurd rfl h

theorem placeDown : Statement .placeDown := fun _ h => absurd rfl h

theorem placeUp : Statement .placeUp := fun _ h => absurd rfl h

theorem csendSend : Statement .csendSend := fun _ h => absurd rfl h

theorem cretPermitSend : Statement .cretPermitSend := fun _ h => absurd rfl h

theorem permitArrival : Statement .permitArrival := fun _ h => absurd rfl h

theorem chanStall : Statement .chanStall := fun _ h => absurd rfl h

theorem chaudit : Statement .chaudit := fun _ h => absurd rfl h

theorem auditMark : Statement .auditMark := fun _ h => absurd rfl h

theorem auditBack : Statement .auditBack := fun _ h => absurd rfl h

theorem auditTimeout : Statement .auditTimeout := fun _ h => absurd rfl h

theorem reduceResultArrival : Statement .reduceResultArrival := fun _ h => absurd rfl h

theorem reduceTimeout : Statement .reduceTimeout := fun _ h => absurd rfl h

theorem reduceKeyAbort : Statement .reduceKeyAbort := fun _ h => absurd rfl h

theorem preemptStop : Statement .preemptStop := fun _ h => absurd rfl h

theorem preemptTimeoutKill : Statement .preemptTimeoutKill := fun _ h => absurd rfl h

theorem killFinish : Statement .killFinish := fun _ h => absurd rfl h

theorem machineCheck : Statement .machineCheck := fun _ h => absurd rfl h

theorem faultRecordDrain : Statement .faultRecordDrain := fun _ h => absurd rfl h

theorem fqtail : Statement .fqtail := fun _ h => absurd rfl h

theorem apexStart : Statement .apexStart := fun _ h => absurd rfl h

theorem apexEnd : Statement .apexEnd := fun _ h => absurd rfl h

theorem eventDeliver : Statement .eventDeliver := fun _ h => absurd rfl h

theorem launch : Statement .launch := fun _ h => absurd rfl h

theorem resetContext : Statement .resetContext := fun _ h => absurd rfl h

theorem resetCore : Statement .resetCore := fun _ h => absurd rfl h

theorem resetCluster : Statement .resetCluster := fun _ h => absurd rfl h

theorem resetVd : Statement .resetVd := fun _ h => absurd rfl h

theorem resetDie : Statement .resetDie := fun _ h => absurd rfl h

theorem resetPackage : Statement .resetPackage := fun _ h => absurd rfl h

theorem chantabWrite : Statement .chantabWrite := fun _ h => absurd rfl h

theorem vdfreeze : Statement .vdfreeze := fun _ h => absurd rfl h

theorem vdexport : Statement .vdexport := fun _ h => absurd rfl h

theorem vdimport : Statement .vdimport := fun _ h => absurd rfl h

theorem attgo : Statement .attgo := fun _ h => absurd rfl h

theorem attestQuoteDone : Statement .attestQuoteDone := fun _ h => absurd rfl h

theorem powerOn : Statement .powerOn := fun _ h => absurd rfl h

theorem registerWrite : Statement .registerWrite := fun _ h => absurd rfl h

theorem releaseAcknowledgement : Statement .releaseAcknowledgement := fun _ h => absurd rfl h

end Sys2Proof.Laws.RoundTrip
end

