-- ==== Sys2Proof/Safety.lean ====
section
/-! DEFINITION. What counts as a safe run: steps that neither fault nor refuse, and states that keep what the machine
promises of itself; and the words in which the statements say how an instruction ends. -/

namespace Sys2Proof.Machine

/-- A step that answers a next state. -/
def Runs (s : State) : Prop := ∃ t, step s = .next t

/-- The memories of a state are in canonical form. -/
def State.MemWf (s : State) : Prop := Memory.wf s.mem = true ∧ Memory.wf s.code = true

end Sys2Proof.Machine

namespace Sys2Proof.Spec

open Sys2Proof.Machine

/-! ## How an instruction ends -/

/-- `i` issues as a bundle of its own in `s`, and `t` is what its effect makes of `s`. -/
def Issues (i : Instr) (s t : State) : Prop := exec i s = .next { t with last := .issued }

/-- `i` traps in `s` with the cause, slot, DETAIL and TRAPADDR of `t`, and nothing of it takes effect. -/
def Traps (i : Instr) (s : State) (t : Trap) : Prop := exec i s = .next (s.trap t)

/-- The bundle of `i` is blocked in `s`: nothing of it takes effect, and what it asks of an engine or a port is `p`. -/
def Blocks (i : Instr) (s : State) (p : State → State) : Prop := exec i s = .next { (p s) with last := .blocked }

/-- The event `i` with the operands that stand in `s` leaves `t`. -/
def Steps (i : Instr) (s t : State) : Prop := exec i s = .next t

/-! ## Guards and sync pairs -/

/-- Whether a guard reads true for a scalar operation: bit 0 of its predicate, or its complement (R32). -/
def on (s : State) (g : Guard) : Prop := ((s.me.k g.k).getLsbD 0 != g.neg) = true

/-- The waits and semaphores of a command are in order: each semaphore it names lies in the allotment, and the wait
passes (R41). -/
def Admits (y : Sync) (s : State) : Prop :=
  (y.wthr ≠ 0 → s.me.sbase + y.wsem < s.me.slim ∧
    y.wthr ≤ (s.core (coreOf s.cur)).left (s.me.sbase + y.wsem)) ∧
  (y.sinc ≠ 0 → s.me.sbase + y.ssem < s.me.slim)

/-- The state with the threshold of a command's wait taken (R41). -/
def taken (y : Sync) (s : State) : State :=
  if y.wthr = 0 then s else s.semUpd (coreOf s.cur) (.sub (s.me.sbase + y.wsem) y.wthr)

/-- The state with a command's increment on its way to the end of this cycle: the command is accepted and complete. -/
def signalled (y : Sync) (s : State) : State :=
  if y.sinc = 0 then s else s.semUpd (coreOf s.cur) (.add (s.me.sbase + y.ssem) y.sinc)

/-- The state with the increment of a command that signals at acceptance on its way (R41). -/
def signalAtAccept (y : Sync) (s : State) : State := if y.spt then s else signalled y s

/-- The state with a command's wait taken and its increment on its way. -/
def settled (y : Sync) (s : State) : State := signalled y (taken y s)

/-! ## Accesses of the L and S slots -/

/-- The checks of R148 pass for `n` bytes at an address: R12's, the end of the pad, and the alignment. -/
def PadAccess (s : State) (a : Word) (n align : Nat) : Prop :=
  s.checkAddr s.cur .ls a = none ∧ offOf a + n ≤ spaceSize (kindOf a) ∧ align ∣ a.toNat

/-- Nothing makes an access of these ranges late (R78, R146, R152): no range is held by a command accepted
before the bundle that acts, no other access has taken a bank they need, and no late access of the core waits for one. -/
def Calm (s : State) (l : List (Nat × Nat)) : Prop :=
  (s.core (coreOf s.cur)).scoreHeld s.mark l = false ∧ s.bankTaken (s.cur + 1) (banksOf l) = false ∧
    ∀ b ∈ banksOf l, b ∉ (s.core (coreOf s.cur)).lateBanks

/-- No chunk of these ranges is uncorrectable (R331). -/
def Clean (s : State) (l : List (Nat × Nat)) : Prop := ∀ e ∈ l, s.badIn e.1 e.2 = none

/-- The state with the banks of these ranges taken by the acting context. -/
def served (s : State) (l : List (Nat × Nat)) : State := s.takeBanks (s.cur + 1) (banksOf l)

/-- Whether a lane of width `w` is enabled: the predicate bit of its lowest byte, or its complement (R32). -/
def laneEnabled (s : State) (g : Guard) (w i : Nat) : Bool := (s.me.k g.k).getLsbD (i * w) != g.neg

/-! ## Messages -/

/-- The event that acts takes a message of the wire that has come from a place to a die of this package (R245). -/
def Arrives (s : State) (src die : Nat) (b : Body) : Prop := s.wire[s.arg 0]? = some ⟨src, s.place die, b⟩ ∧ die < 16

/-- The state with that message off the wire. -/
def arrived (s : State) : State := { s with wire := s.wire.eraseIdx (s.arg 0) }

/-- The number that `n` little-endian bytes of a list hold from byte `i` on. -/
def numAt (l : List Byte) (i n : Nat) : Nat := leNat ((l.drop i).take n)

end Sys2Proof.Spec
end

