-- ==== Sys2Proof/Certificates/Slice0/Obligations.lean ====
section
/-! DEFINITION. The statements for the provers: what the instructions, the events and the machine do, in the words of the
spec's rules. -/

open Sys2Proof Sys2Proof.Machine Sys2Proof.Spec

/-! ## The X slot -/

/-- R85: every register-register operation, with the latencies of R75. Each puts its result in flight for its destination
register and does nothing else. -/
def Obligations.ScalarArithmetic : Prop :=
  ∀ (s : State) (d a b : Nat) (g : Guard), on s g →
    let A := s.me.s a
    let B := s.me.s b
    let D := s.me.s d
    let res := fun (l : Nat) (v : Word) => s.pushS d v l .x
    let truth := fun (p : Bool) => if p then (1 : Word) else 0
    Issues (.add d a b g) s (res 1 (A + B)) ∧
    Issues (.sub d a b g) s (res 1 (A - B)) ∧
    Issues (.mul d a b g) s (res 3 (BitVec.ofNat 64 (A.toNat * B.toNat))) ∧
    Issues (.mulh d a b g) s (res 3 (BitVec.ofInt 64 (A.toInt * B.toInt / 2 ^ 64))) ∧
    Issues (.mulhn d a b g) s (res 3 (BitVec.ofNat 64 (A.toNat * B.toNat / 2 ^ 64))) ∧
    Issues (.div d a b g) s (res 20 (if B = 0 then 0xFFFFFFFFFFFFFFFF else BitVec.ofInt 64 (A.toInt.tdiv B.toInt))) ∧
    Issues (.divn d a b g) s (res 20 (if B = 0 then 0xFFFFFFFFFFFFFFFF else BitVec.ofNat 64 (A.toNat / B.toNat))) ∧
    Issues (.rem d a b g) s (res 20 (if B = 0 then A else BitVec.ofInt 64 (A.toInt.tmod B.toInt))) ∧
    Issues (.remn d a b g) s (res 20 (if B = 0 then A else BitVec.ofNat 64 (A.toNat % B.toNat))) ∧
    Issues (.and d a b g) s (res 1 (A &&& B)) ∧
    Issues (.or d a b g) s (res 1 (A ||| B)) ∧
    Issues (.xor d a b g) s (res 1 (A ^^^ B)) ∧
    Issues (.shl d a b g) s (res 1 (A <<< (B.toNat % 64))) ∧
    Issues (.shr d a b g) s (res 1 (A >>> (B.toNat % 64))) ∧
    Issues (.sra d a b g) s (res 1 (A.sshiftRight (B.toNat % 64))) ∧
    Issues (.min d a b g) s (res 1 (BitVec.ofInt 64 (min A.toInt B.toInt))) ∧
    Issues (.minn d a b g) s (res 1 (BitVec.ofNat 64 (min A.toNat B.toNat))) ∧
    Issues (.max d a b g) s (res 1 (BitVec.ofInt 64 (max A.toInt B.toInt))) ∧
    Issues (.maxn d a b g) s (res 1 (BitVec.ofNat 64 (max A.toNat B.toNat))) ∧
    (∀ n : Nat, Issues (.addsh d a b n g) s (res 1 (A + B * BitVec.ofNat 64 (2 ^ n)))) ∧
    Issues (.sel d a b g) s (res 1 (if D ≠ 0 then A else B)) ∧
    Issues (.clz d a g) s (res 1 (if A = 0 then 64 else BitVec.ofNat 64 (63 - A.toNat.log2))) ∧
    Issues (.popc d a g) s (res 1 A.cpop) ∧
    Issues (.sext d a 0 g) s (res 1 ((A.extractLsb' 0 8).signExtend 64)) ∧
    Issues (.sext d a 1 g) s (res 1 ((A.extractLsb' 0 16).signExtend 64)) ∧
    Issues (.sext d a 2 g) s (res 1 ((A.extractLsb' 0 32).signExtend 64)) ∧
    Issues (.zext d a 0 g) s (res 1 (BitVec.ofNat 64 (A.toNat % 2 ^ 8))) ∧
    Issues (.zext d a 1 g) s (res 1 (BitVec.ofNat 64 (A.toNat % 2 ^ 16))) ∧
    Issues (.zext d a 2 g) s (res 1 (BitVec.ofNat 64 (A.toNat % 2 ^ 32))) ∧
    Issues (.cmpeq d a b g) s (res 1 (truth (decide (A = B)))) ∧
    Issues (.cmpne d a b g) s (res 1 (truth (decide (A ≠ B)))) ∧
    Issues (.cmplt d a b g) s (res 1 (truth (decide (A.toInt < B.toInt)))) ∧
    Issues (.cmple d a b g) s (res 1 (truth (decide (A.toInt ≤ B.toInt)))) ∧
    Issues (.cmpltn d a b g) s (res 1 (truth (decide (A.toNat < B.toNat)))) ∧
    Issues (.cmplen d a b g) s (res 1 (truth (decide (A.toNat ≤ B.toNat))))

/-- R86 and R87: the immediate operations, which always execute. R88: the predicate operations, under a guard that reads
true. -/
def Obligations.ScalarImmediateAndPredicates : Prop :=
  (∀ (s : State) (d a n : Nat) (imm : Int),
    let A := s.me.s a
    let I := BitVec.ofInt 64 imm
    let res := fun (v : Word) => s.pushS d v 1 .x
    let truth := fun (p : Bool) => if p then (1 : Word) else 0
    Issues (.addi d a imm) s (res (A + I)) ∧
    Issues (.andi d a imm) s (res (A &&& I)) ∧
    Issues (.ori d a imm) s (res (A ||| I)) ∧
    Issues (.xori d a imm) s (res (A ^^^ I)) ∧
    Issues (.shli d a n) s (res (A <<< n)) ∧
    Issues (.shri d a n) s (res (A >>> n)) ∧
    Issues (.srai d a n) s (res (A.sshiftRight n)) ∧
    Issues (.cmpeqi d a imm) s (res (truth (decide (A = I)))) ∧
    (-4096 ≤ imm → imm ≤ 4095 → Issues (.cmplti d a imm) s (res (truth (decide (A.toInt < imm))))) ∧
    Issues (.cmpltni d a imm) s (res (truth (decide (A.toNat < I.toNat)))) ∧
    Issues (.sethi d imm) s (res (BitVec.ofInt 64 (imm * 2 ^ 13)))) ∧
  (∀ (s : State) (d a b sr q : Nat) (g : Guard), on s g →
    let A := s.me.k a
    let B := s.me.k b
    let S := s.me.s sr
    let res := fun (v : Pred) => s.pushK d v (BitVec.allOnes 256) 0 1 .x
    Issues (.kand d a b g) s (res (A &&& B)) ∧
    Issues (.kandn d a b g) s (res (A &&& ~~~B)) ∧
    Issues (.kor d a b g) s (res (A ||| B)) ∧
    Issues (.kxor d a b g) s (res (A ^^^ B)) ∧
    Issues (.knot d a g) s (res (~~~A)) ∧
    Issues (.kmov d a g) s (res A) ∧
    Issues (.kmovB d sr g) s (res (BitVec.fill 256 (S.getLsbD 0))) ∧
    Issues (.kmovLo d sr g) s (res (BitVec.ofNat 256 S.toNat)) ∧
    Issues (.krd sr a q g) s (s.pushS sr (A.extractLsb' (64 * q) 64) 1 .x) ∧
    (∃ i : Nat, Issues (.kfirst sr a g) s (s.pushS sr (BitVec.ofNat 64 i) 1 .x) ∧ i ≤ 256 ∧
      (∀ j, j < i → A.getLsbD j = false) ∧ (i < 256 → A.getLsbD i = true)))

/-- R84 and R32: a guarded X operation whose guard reads false issues and does nothing. -/
def Obligations.GuardedOff : Prop :=
  ∀ (s : State) (d a b n : Nat) (g : Guard), ¬ on s g →
    ∀ i ∈ ([.add d a b g, .sub d a b g, .mul d a b g, .mulh d a b g, .mulhn d a b g, .div d a b g, .divn d a b g,
        .rem d a b g, .remn d a b g, .and d a b g, .or d a b g, .xor d a b g, .shl d a b g, .shr d a b g, .sra d a b g] ++
        [.min d a b g, .minn d a b g, .max d a b g, .maxn d a b g, .addsh d a b n g, .sel d a b g, .clz d a g, .popc d a g,
        .sext d a n g, .zext d a n g, .cmpeq d a b g, .cmpne d a b g, .cmplt d a b g, .cmple d a b g, .cmpltn d a b g,
        .cmplen d a b g] ++
        [.kand d a b g, .kandn d a b g, .kor d a b g, .kxor d a b g, .knot d a g, .kmov d a g, .kmovB d a g, .kmovLo d a g,
        .krd d a n g, .kfirst d a g] : List Instr), Issues i s s

/-- R89: the control transfers under a guard that reads true. Each leaves its target pending with two delay bundles to come;
CALL and CALLR put the link address in flight. A register target has bit 0 clear. R29 and R89: a transfer whose guard reads
false has no effect, but its two delay bundles are still to come. R31: a register target with bit 0 set takes ALIGN at the
transfer bundle; TRAPADDR is then that target (the model's reading: log entry 14). -/
def Obligations.ControlTransfers : Prop :=
  (∀ (s : State) (d a off : Nat) (rel : Int) (g : Guard), on s g →
    let A := s.me.s a
    let pc := s.me.pc
    let L := s.link (dieOf s.cur) pc
    let to_ := fun (t : State) (w : Word) => t.modMe fun c => { c with xfer := some ⟨.jump w, 2⟩ }
    let R := pc + BitVec.ofInt 64 (2 * rel)
    Issues (.br g rel) s (to_ s R) ∧
    Issues (.jmp g off) s (to_ s (((pc >>> 21) <<< 21) + BitVec.ofNat 64 (2 * off))) ∧
    Issues (.call g rel) s (to_ (s.pushS 63 L 1 .x) R) ∧
    (A.getLsbD 0 = false → Issues (.jr a g) s (to_ s A) ∧ Issues (.ret a g) s (to_ s A) ∧
      Issues (.callr d a g) s (to_ (s.pushS d L 1 .x) A))) ∧
  (∀ (s : State) (d a off : Nat) (rel : Int) (g : Guard), ¬ on s g →
    ∀ i ∈ ([.br g rel, .jmp g off, .call g rel, .jr a g, .ret a g, .callr d a g, .lbrk g rel] : List Instr),
      Issues i s (s.modMe fun c => { c with xfer := some ⟨.fall, 2⟩ })) ∧
  (∀ (s : State) (d a : Nat) (g : Guard), on s g → (s.me.s a).getLsbD 0 = true →
    ∀ i ∈ ([.jr a g, .ret a g, .callr d a g] : List Instr), Traps i s ⟨.align, 1, 0, s.me.s a⟩)

/-- R91: LBRK with its XB encoding. It clears the innermost active loop, lc1 before lc0, and branches with two delay bundles;
the cleared loop counts no end bundle; with no loop active it acts as BR, and with a guard that reads false it changes no
loop state. -/
def Obligations.LoopBreak : Prop :=
  ∀ (s : State) (off : Int) (g : Guard),
    let c := s.me
    let target := c.pc + BitVec.ofInt 64 (2 * off)
    let gone := fun (l : LoopSt) => { l with lc := 0, la := false }
    let go := fun (x : Ctx) (k : XferKind) => s.setCtx s.cur { x with xfer := some ⟨k, 2⟩ }
    (Instr.wf (.lbrk g off) = true → decode .x (0x47 * 2 ^ 25 + (if g.neg then 16 else 0) * 2 ^ 20 + g.k * 2 ^ 20 +
      (off % 2 ^ 20).toNat) = .ok (.lbrk g off)) ∧
    (on s g → c.lc1.la = true → Issues (.lbrk g off) s (go { c with lc1 := gone c.lc1 } (.jump target))) ∧
    (on s g → c.lc1.la = false → c.lc0.la = true →
      Issues (.lbrk g off) s (go { c with lc0 := gone c.lc0 } (.jump target))) ∧
    (on s g → c.lc1.la = false → c.lc0.la = false →
      Issues (.lbrk g off) s (go c (.jump target)) ∧ exec (.lbrk g off) s = exec (.br g off) s) ∧
    (¬ on s g → Issues (.lbrk g off) s (go c .fall)) ∧
    (∀ (l : LoopSt) (pc : Word), (gone l).atEnd pc = (gone l, false))

/-- R90: LOOP sets its counter at issue; a count of 0 goes on after the end bundle. An end offset below the first body bundle
takes ILLEGAL_BUNDLE. -/
def Obligations.LoopSetUp : Prop :=
  ∀ (s : State) (n fin : Nat),
    let c := s.me
    let A := c.s n
    let L := s.link (dieOf s.cur) c.pc
    let E := c.pc + BitVec.ofNat 64 (2 * fin)
    let l : LoopSt := ⟨A, L, E, decide (A ≠ 0)⟩
    let k : XferKind := if A = 0 then .jump (s.after (dieOf s.cur) E) else .fall
    (2 * fin < (L - c.pc).toNat →
      Traps (.loop 0 n fin) s ⟨.illegalBundle, 1, 0, 0⟩ ∧ Traps (.loop 1 n fin) s ⟨.illegalBundle, 1, 0, 0⟩) ∧
    (¬ 2 * fin < (L - c.pc).toNat →
      Issues (.loop 0 n fin) s (s.setCtx s.cur { c with lc0 := l, xfer := some ⟨k, 2⟩ }) ∧
      Issues (.loop 1 n fin) s (s.setCtx s.cur { c with lc1 := l, xfer := some ⟨k, 2⟩ }))

/-- R90: what a loop does when a bundle at its end has issued. A count above 1 falls by 1 and goes back to LS; a count of 1
or 0 ends the loop; a bundle elsewhere or a loop that is not active changes nothing; lc1 comes first, and lc0 is looked at
only when lc1 takes no back edge. R28, R89, R90, R93 and R326: what takes effect once a bundle and its idle bundles have
issued. A transfer waits for its delay bundles; then a taken one puts its target in the pc and one not taken goes on. TRAPI
enters the handler, with TRAPPC at its link address, and ERET returns, at the end of the cycle of their last delay bundle
(log entry 16), or of the one in which the context's late accesses have been performed (R78). With no transfer under way the
end of a loop body is looked for. -/
def Obligations.TransferTakesEffect : Prop :=
  (∀ (c : Ctx) (pc next : Word),
    let hit := fun (l : LoopSt) => l.la = true ∧ l.le = pc
    let back := fun (l : LoopSt) => hit l ∧ 1 < l.lc.toNat
    let after := fun (l : LoopSt) => if l.la = true ∧ l.le = pc then
      (if 1 < l.lc.toNat then { l with lc := l.lc - 1 } else { l with lc := 0, la := false }) else l
    (back c.lc1 → c.loopBack pc next = { c with lc1 := { c.lc1 with lc := c.lc1.lc - 1 }, pc := c.lc1.ls }) ∧
    (¬ back c.lc1 → back c.lc0 →
      c.loopBack pc next = { c with lc1 := after c.lc1, lc0 := { c.lc0 with lc := c.lc0.lc - 1 }, pc := c.lc0.ls }) ∧
    (¬ back c.lc1 → ¬ back c.lc0 → c.loopBack pc next = { c with lc1 := after c.lc1, lc0 := after c.lc0, pc := next })) ∧
  (∀ (s : State) (k : Nat),
    let c := s.ctx k
    let put := fun (x : Ctx) => s.setCtx k x
    let late := ∃ x ∈ (s.core (k / 4)).late, x.ctx = k
    (c.idle ≠ 0 → s.settle k = s) ∧
    (c.idle = 0 → c.xfer = none → s.settle k = put (c.loopBack c.lastPc c.pc)) ∧
    (∀ x : Xfer, c.idle = 0 → c.xfer = some x → x.delay ≠ 0 → s.settle k = s) ∧
    (∀ t : Word, c.idle = 0 → c.xfer = some ⟨.jump t, 0⟩ → s.settle k = put { c with xfer := none, pc := t }) ∧
    (c.idle = 0 → c.xfer = some ⟨.fall, 0⟩ → s.settle k = put { c with xfer := none }) ∧
    (∀ (code : Nat) (L : Word), c.idle = 0 → c.xfer = some ⟨.trapi code L, 0⟩ →
      s.settle k = s ∧ (¬ late → s.handOver k = s.trapEntry k L ⟨.trapi, 1, code, 0⟩)) ∧
    (c.idle = 0 → c.xfer = some ⟨.eret, 0⟩ → s.settle k = s ∧ (¬ late → s.handOver k = s.trapReturn k)) ∧
    (late → s.handOver k = s) ∧
    ((c.xfer = none ∨ c.idle ≠ 0 ∨ ∃ x, c.xfer = some x ∧ (x.delay ≠ 0 ∨ x.kind = .fall ∨ ∃ t, x.kind = .jump t)) →
      s.handOver k = s))

/-- R92 and R83: MFS delivers each special register's value after two cycles. R83: a number that names no register takes
ILLEGAL_OPCODE, and so does an MTS to one that is read-only; a supervisor register without supervisor rights takes PRIVILEGE.
-/
def Obligations.SpecialRegisterReads : Prop :=
  (∀ (s : State) (d : Nat),
    let c := s.me
    let k := s.cur
    let die := s.cur / 256
    let num := fun (n : Nat) => BitVec.ofNat 64 n
    let user : List (Nat × Word) := [(0x00, num (k % 4)), (0x01, num (k / 4 % 4)), (0x02, num (k / 16 % 16)), (0x03, num die),
      (0x04, num s.epid), (0x05, num ((s.ownerOf die (k / 16 % 16)).getD 0)), (0x06, num c.task), (0x07, num c.job),
      (0x08, num (s.die die).nclus), (0x10, num c.vbase), (0x11, num c.vlim), (0x12, num c.sbase), (0x13, num c.slim)] ++
      [(0x20, num c.flags.toNat), (0x21, num c.trapen.toNat), (0x22, c.srseed), (0x23, c.lc0.lc), (0x24, c.lc1.lc),
      (0x30, num (s.clock - (s.die die).cycle0)), (0x31, num (s.die die).hfree.length), (0x32, 0x00082040),
      (0x40, num (0xFFF * 2 ^ 52 + die * 2 ^ 48 + 0xA * 2 ^ 44 + k / 16 % 16 * 2 ^ 40 + k / 4 % 4 * 2 ^ 38)),
      (0x41, num (0xFFF * 2 ^ 52 + die * 2 ^ 48 + 0x9 * 2 ^ 44 + k / 16 % 16 * 2 ^ 40)),
      (0x50, num (s.core (k / 4)).shadn.toNat), (0x51, num ((s.dreg die 5 0).toNat % 2 * 65536 + c.ord.toNat))]
    let super : List (Nat × Word) := [(0x100, c.trappc), (0x101, num (c.latches.length * 2 ^ 32 + c.detail % 2 ^ 13 * 2 ^ 16 +
      c.tslot % 256 * 256 + c.cause % 256)), (0x102, c.trapaddr),
      (0x103, num (s.preemptLim die ((s.ownerOf die (k / 16 % 16)).getD 0))), (0x104, tget 0 c.sscr 0), (0x105, tget 0 c.sscr 1),
      (0x106, tget 0 c.sscr 2), (0x107, tget 0 c.sscr 3)]
    (∀ e ∈ user, Issues (.mfs d e.1) s (s.pushS d e.2 2 .x)) ∧
    (c.sup = true → ∀ e ∈ super, Issues (.mfs d e.1) s (s.pushS d e.2 2 .x))) ∧
  (∀ (s : State) (d n : Nat),
    let named := List.range 9 ++ [0x10, 0x11, 0x12, 0x13, 0x20, 0x21, 0x22, 0x23, 0x24, 0x30, 0x31, 0x32, 0x40, 0x41, 0x50, 0x51] ++
      [0x100, 0x101, 0x102, 0x103, 0x104, 0x105, 0x106, 0x107]
    let writable := [0x20, 0x21, 0x22, 0x23, 0x24, 0x50, 0x100, 0x101, 0x102, 0x103, 0x104, 0x105, 0x106, 0x107]
    (n ∉ named → Traps (.mfs d n) s ⟨.illegalOpcode, 1, 0, 0⟩) ∧
    (n ∉ writable → Traps (.mts d n) s ⟨.illegalOpcode, 1, 0, 0⟩) ∧
    (s.me.sup = false → 0x100 ≤ n → n ≤ 0x107 →
      Traps (.mfs d n) s ⟨.privilege, 1, 0, 0⟩ ∧ Traps (.mts d n) s ⟨.privilege, 1, 0, 0⟩))

/-- R92, R77 and R83: MTS puts its register's write in flight for the end of the cycle. R83 and R54: what the write of each
special register leaves in it, with reserved bits ignored. SHADN's is an event of its own (R66). -/
def Obligations.SpecialRegisterWrites : Prop :=
  (∀ (s : State) (a n : Nat),
    (n ∈ [0x20, 0x21, 0x22, 0x23, 0x24, 0x50] ∨
      (s.me.sup = true ∧ n ∈ [0x100, 0x101, 0x102, 0x103, 0x104, 0x105, 0x106, 0x107])) →
    Issues (.mts a n) s
      (s.push s.cur ⟨.special n, (s.me.s a).setWidth 2048, BitVec.allOnes 256, 0, 1, .x, false⟩)) ∧
  (∀ (s : State) (k : Nat) (v : Word),
    let c := s.ctx k
    let put := fun (x : Ctx) => s.setCtx k x
    s.specWrite k 0x20 v = put { c with flags := v.extractLsb' 0 7 } ∧
    s.specWrite k 0x21 v = put { c with trapen := v.extractLsb' 0 7 } ∧
    s.specWrite k 0x22 v = put { c with srseed := if v = 0 then 0x9E3779B97F4A7C15 else v } ∧
    s.specWrite k 0x23 v = put { c with lc0 := { c.lc0 with lc := v } } ∧
    s.specWrite k 0x24 v = put { c with lc1 := { c.lc1 with lc := v } } ∧
    s.specWrite k 0x100 v = put { c with trappc := v } ∧
    s.specWrite k 0x101 v = put { c with
      detail := v.toNat / 2 ^ 16 % 2 ^ 13, tslot := v.toNat / 2 ^ 8 % 2 ^ 8, cause := v.toNat % 2 ^ 8 } ∧
    s.specWrite k 0x102 v = put { c with trapaddr := v } ∧
    (∀ i, i < 4 → s.specWrite k (0x104 + i) v = put { c with sscr := tput c.sscr i v }) ∧
    s.specWrite k 0x50 v = { s with agenda := ⟨.shadnWrite, [k / 4, v.toNat % 2 ^ 16]⟩ :: s.agenda } ∧
    (s.specWrite k 0x103 v).preemptLim (k / 256) ((s.ownerOf (k / 256) (k / 16 % 16)).getD 0) = v.toNat % 2 ^ 32)

/-- R28, R93, R94 and R95: TRAPI, TFENCE, ERET and the header of idle bundles. TFENCE stays blocked while a V-slot result or
a matrix operation of its context is unfinished (a latch restored from an image, whose slot is not kept, counts as a V-slot
result: log entry 17), takes ARITH on an enabled flag, and otherwise does nothing. -/
def Obligations.TrapAndFence : Prop :=
  ∀ (s : State) (code e : Nat) (sp : Bool) (g : Guard),
    let c := s.me
    let fromV := fun (r : Result) => r.src = .va ∨ r.src = .vb ∨ r.src = .hdr
    let mine := fun (m : Option MatOp) => ∃ x, m = some x ∧ x.ctx = s.cur
    let busy := (∃ r ∈ c.inflight, fromV r) ∨ (∃ r ∈ c.latches, fromV r) ∨
      mine (s.core (coreOf s.cur)).act ∨ mine (s.core (coreOf s.cur)).pend
    Issues (.trapi code) s
      (s.modMe fun c => { c with xfer := some ⟨.trapi code (s.link (dieOf s.cur) s.me.pc), 2⟩ }) ∧
    (c.sup = true → Issues .eret s (s.modMe fun c => { c with xfer := some ⟨.eret, 2⟩ })) ∧
    (c.sup = false → Traps .eret s ⟨.privilege, 1, 0, 0⟩) ∧
    (e ≠ 0 → Issues (.nop e sp) s (s.modMe fun c => { c with idle := e })) ∧
    Traps (.nop 0 sp) s ⟨.illegalBundle, 0, 0, 0⟩ ∧
    (busy → Blocks (.tfence g) s id) ∧
    (¬ busy → on s g → c.flags &&& c.trapen ≠ 0 → Traps (.tfence g) s ⟨.arith, 1, (c.flags &&& c.trapen).toNat, 0⟩) ∧
    (¬ busy → (¬ on s g ∨ c.flags &&& c.trapen = 0) → Issues (.tfence g) s s)

/-! ## Traps and their return -/

/-- R323: what taking a trap saves and where it goes, and that it changes nothing else of the machine. The results in flight
are latched, but for row writes that are late (R78), which stay. A transfer under way at a trapping delay bundle is dropped
(log entry 15). In a handler the context is killed instead, with reason 1. R326: the return from a trap, which changes
nothing else of the machine. The loop state set aside comes back, SUP is cleared, the pc is TRAPPC, and the latched results
are in flight again, with their own counts, from the resume cycle on. -/
def Obligations.TrapEntryAndReturn : Prop :=
  (∀ (s : State) (k : Nat) (pc : Word) (t : Trap),
    let c := s.ctx k
    (c.sup = true → s.trapEntry k pc t = s.kill k 1) ∧
    (c.sup = false →
      let keep := c.inflight.filter fun r => decide (r.left ≠ 0)
      let n : Ctx := { c with
        latches := c.latches ++ keep, inflight := c.inflight.filter fun r => decide (r.left = 0), resuming := false
        trappc := pc, trapaddr := t.addr, cause := t.cause.code, tslot := t.slot, detail := t.detail
        side0 := c.lc0, side1 := c.lc1, lc0 := ⟨0, 0, 0, false⟩, lc1 := ⟨0, 0, 0, false⟩, sup := true
        pc := s.reg (k / 256) ((s.ownerOf (k / 256) (k / 16 % 16)).getD 0) 0 0x010 &&& 0xFFFFFFFFFFFFFFFE
        idle := 0, xfer := none, ask := none, wdown := none }
      s.trapEntry k pc t = s.setCtx k n ∧ (s.setCtx k n).ctx k = n ∧
      n.trapInfo = (c.latches.length + keep.length) * 2 ^ 32 + t.detail % 2 ^ 13 * 2 ^ 16 + t.slot % 256 * 256 + t.cause.code)) ∧
  (∀ (s : State) (k : Nat),
    let c := s.ctx k
    let n : Ctx := { c with
      lc0 := c.side0, lc1 := c.side1, sup := false, pc := c.trappc, resuming := true, idle := 0, xfer := none }
    let u := s.trapReturn k
    u = s.setCtx k n ∧ u.ctx k = n ∧
    u.redeliver k = u.setCtx k { n with inflight := c.latches ++ c.inflight, latches := [], resuming := false })

/-- R330: the start of a kill. Issue stops and no result in flight or latched is left; the task's commands are counted; a
context that is free or already being killed is left alone. -/
def Obligations.KillBegins : Prop :=
  ∀ (s : State) (k reason : Nat),
    let c := s.ctx k
    ((c.st = .free ∨ ∃ r, c.st = .dying r) → s.kill k reason = s) ∧
    (c.st ≠ .free → (∀ r, c.st ≠ .dying r) →
      let n := (s.kill k reason).ctx k
      n.st = .dying reason ∧ n.inflight = [] ∧ n.latches = [] ∧ n.xfer = none ∧ n.held = none ∧ n.sregs = c.sregs ∧
      (∀ j, j ≠ k → (s.kill k reason).ctx j = s.ctx j) ∧ (s.kill k reason).mem = s.mem ∧
      ∃ x ∈ ((s.kill k reason).die (dieOf k)).kills, x.ctx = k ∧ x.task = c.task ∧ x.reason = reason ∧
        x.total = s.commandCount k)

/-! ## Results in flight -/

/-- R75, R33 and R56: a result put in flight with latency `l` is in its register after the `l`-th writeback of its context,
whatever else is in flight: a scalar or a predicate register, or a row under its mask of bytes; its flags are then set in
FLAGS. A result of 4-bit elements leaves those it names in its row, and no other (R112, R118). With nothing else in flight
the register holds its old value until then. R34 and R81: a result for s0 or k0 is discarded. -/
def Obligations.ResultLands : Prop :=
  (∀ (s : State) (d l : Nat) (src : Slot), 1 ≤ l →
    let k := s.cur
    let run := fun (n : Nat) (t : State) => Nat.repeat (fun u : State => u.writeback k) n t
    (∀ v : Word, d ≠ 0 → ((run l (s.pushS d v l src)).ctx k).s d = v) ∧
    (∀ (v mask : Pred) (fl : Flags), d ≠ 0 →
      let t := run l (s.pushK d v mask fl l src)
      (∀ i, i < 256 → mask.getLsbD i = true → ((t.ctx k).k d).getLsbD i = v.getLsbD i) ∧ fl &&& (t.ctx k).flags = fl) ∧
    (∀ (v mask : Nat) (fl : Flags),
      let t := run l (s.pushV d v mask fl l src)
      (∀ i j, i < 256 → j < 8 → mask.testBit i = true →
        ((t.core (coreOf k)).row (s.me.vbase + d)).getLsbD (8 * i + j) = v.testBit (8 * i + j)) ∧
      fl &&& (t.ctx k).flags = fl) ∧
    (∀ (x : BitVec 2048) (m : Pred) (fl : Flags) (N n : Nat) (id : Option Nat),
      let t := s.writeResult k ⟨.nib n N id, x, m, fl, l, src, false⟩
      ∀ j b, j < 512 → b < 4 → ((t.core (coreOf k)).row n).getLsbD (4 * j + b) =
        if N.testBit j then x.getLsbD (4 * j + b) else ((s.core (coreOf k)).row n).getLsbD (4 * j + b)) ∧
    (s.me.inflight = [] → ∀ n, n < l →
      (∀ v : Word, ((run n (s.pushS d v l src)).ctx k).s d = s.me.s d) ∧
      (∀ (v mask : Pred) (fl : Flags), ((run n (s.pushK d v mask fl l src)).ctx k).k d = s.me.k d) ∧
      (∀ (v mask : Nat) (fl : Flags), (run n (s.pushV d v mask fl l src)).core (coreOf k) = s.core (coreOf k)))) ∧
  (∀ (s : State) (k : Nat) (v m : BitVec 256) (x : BitVec 2048) (src : Slot) (q : Bool),
    (s.writeResult k ⟨.sreg 0, x, m, 0, 1, src, q⟩).ctx k = s.ctx k ∧
    (s.writeResult k ⟨.kreg 0, x, m, 0, 1, src, q⟩).ctx k = s.ctx k ∧
    (s.ctx k).s 0 = 0 ∧ (s.ctx k).k 0 = BitVec.allOnes 256 ∧
    ((s.ctx k).setK 0 v).k 0 = BitVec.allOnes 256)

/-- The frame of a writeback (R75): memory, the program store, the dies, the messages, every other context and every other
core stay as they are; so do the registers of the context and the rows of its core that no due result names, and, when no MTS
is due, the control registers. The frame of the X slot (R84 to R95): whatever an X operation does short of a trap, it changes
no memory, no core, no die, no control register, no message and no other context; of its own context only what is in flight,
the transfer under way and the loop counters, and these only by LOOP and LBRK. -/
def Obligations.WritebackAndXSlotFrames : Prop :=
  (∀ (s : State) (k : Nat),
    let t := s.writeback k
    let due := (s.ctx k).inflight.filter fun r => decide (r.left ≤ 1)
    t.mem = s.mem ∧ t.dirty = s.dirty ∧ t.code = s.code ∧ t.wire = s.wire ∧ t.dies = s.dies ∧ t.clock = s.clock ∧
    (∀ j, j ≠ k → t.ctx j = s.ctx j) ∧ (∀ n, n ≠ coreOf k → t.core n = s.core n) ∧
    (∀ n, (∀ r ∈ due, r.dest ≠ .sreg n) → (t.ctx k).s n = (s.ctx k).s n) ∧
    (∀ n, (∀ r ∈ due, r.dest ≠ .kreg n) → (t.ctx k).k n = (s.ctx k).k n) ∧
    (∀ n, (∀ r ∈ due, r.dest ≠ .row n ∧ (∀ id, r.dest ≠ .under n id) ∧ ∀ m id, r.dest ≠ .nib n m id) → (t.core (coreOf k)).row n = (s.core (coreOf k)).row n) ∧
    (t.ctx k).pc = (s.ctx k).pc ∧ (t.ctx k).sup = (s.ctx k).sup ∧ (t.ctx k).st = (s.ctx k).st ∧
    (t.core (coreOf k)).sems = (s.core (coreOf k)).sems ∧
    ((∀ r ∈ due, ∀ n, r.dest ≠ .special n) → t.creg = s.creg ∧ t.agenda = s.agenda ∧ (t.ctx k).trapen = (s.ctx k).trapen ∧
      (t.ctx k).lc0 = (s.ctx k).lc0 ∧ (t.ctx k).lc1 = (s.ctx k).lc1 ∧ (t.ctx k).trappc = (s.ctx k).trappc)) ∧
  (∀ (i : Instr) (s t : State), i.kind = .x → exec i s = .next t → t.last ≠ .trapped →
    t = { s with ctxs := t.ctxs, last := t.last } ∧ (∀ j, j ≠ s.cur → t.ctx j = s.ctx j) ∧
    t.me = { s.me with inflight := t.me.inflight, xfer := t.me.xfer, lc0 := t.me.lc0, lc1 := t.me.lc1 } ∧
    ((∀ n a b, i ≠ .loop n a b) → (∀ g off, i ≠ .lbrk g off) → t.me.lc0 = s.me.lc0 ∧ t.me.lc1 = s.me.lc1))

/-! ## The V slots -/

/-- R61, R114 and R115: the reductions combine the lanes by the tree of neighbouring pairs, a disabled lane standing as the
identity, and leave the result in lane 0 with the other lanes zero; VSCAN adds the enabled lanes in order, inclusive or
exclusive. Each step rounds once with RNE, wraps, or with m saturates; the flags are those of every step. R117: VTOP2 gives
the bits and the indexes of the two greatest enabled lanes, a NaN counting as −∞ and the lower index first among equals; with
one lane enabled the second is −∞ or the type's minimum with an index of all ones. R53 and R112: VCVT rounds each enabled
element in its mode, with m turning an infinity that a finite element would give into the greatest finite value, and writes
no other element of the destination. With SR element i takes the (i + 1)-th draw. R48, R118 and R119: VQUANT chooses for each
block with an enabled lane the smallest scale code whose scale times 6 reaches every enabled lane that is no NaN, or 0xFF
with SAT when none does, and writes the elements rounded by it (with the flags IX, SAT and IV: log entry 8), those of enabled
lanes alone, or the codes; VDEQ multiplies each element by its block's scale. R120 to R122: VCOR rounds on every enabled lane
the value V of its function once, with RNE, and adds the flags of a special operand: the special operands and the main path
of every function of R122's table, over R62's CordicCore and R121's Fix and Val, with π and ln 2 to 480 bits (log entry 12).
SILU of −0 is the model's reading (log entry 9). -/
def Obligations.VectorReductionsAndConversions : Prop :=
  (∀ (rd : Rd) (t : Ty) (d a : Nat) (g : Guard) (m : Bool), t ≠ .e2m1 →
    let w := t.bytes
    let L := 256 / w
    let M := 2 ^ (8 * w)
    let lane := fun (row i : Nat) => rd.row row / 2 ^ (8 * w * i) % M
    let val := fun (x : Nat) => if t.isSigned = true ∧ M / 2 ≤ x then (x : Int) - M else (x : Int)
    let lo : Int := if t.isSigned then -((M : Int) / 2) else 0
    let hi : Int := if t.isSigned then (M : Int) / 2 - 1 else M - 1
    let enabled := fun (i : Nat) => ((rd.c.k g.k).getLsbD (i * w) != g.neg)
    let plus := fun (x y : Nat) =>
      if t.isInt then
        (if m = true ∧ (val x + val y < lo ∨ hi < val x + val y) then ((max lo (min hi (val x + val y)) % (M : Int)).toNat, flSAT)
         else (((val x + val y) % (M : Int)).toNat, 0))
      else
        let v := exactSum [floatOf t x, floatOf t y]
        ((roundTo t .rne 0 v.1).1, (roundTo t .rne 0 v.1).2 ||| v.2)
    let ext := fun (big : Bool) (x y : Nat) =>
      let p := floatOf t x
      let q := floatOf t y
      let below := fun (x y : FVal) => x.lt y || (x.isZero && y.isZero && x.neg? && !y.neg?)
      if t.isInt then (if (if big then val x < val y else val y < val x) then y else x, (0 : Flags))
      else
        (if p.isNan && q.isNan then t.canonNan else if p.isNan then (if m then y else t.canonNan)
         else if q.isNan then (if m then x else t.canonNan) else if (if big then below p q else below q p) then y else x,
         if p.isSig || q.isSig then flIV else 0)
    let level := fun (op : Nat → Nat → Nat × Flags) (x : Nat → Nat × Flags) (i : Nat) =>
      let r := op (x (2 * i)).1 (x (2 * i + 1)).1
      (r.1, (x (2 * i)).2 ||| (x (2 * i + 1)).2 ||| r.2)
    let tree := fun (op : Nat → Nat → Nat × Flags) (ident : Nat) =>
      Nat.repeat (level op) (Nat.log2 L) (fun i => (if enabled i then lane a i else ident, 0)) 0
    let reduces := fun (i : Instr) (op : Nat → Nat → Nat × Flags) (ident : Nat) => ∃ v, vopOf i = some v ∧
      ((∀ j, j < L → enabled j = false) → v.out rd = none) ∧
      ((∃ j, j < L ∧ enabled j = true) → ∃ r, v.out rd = some (.row (rd.c.vbase + d), r) ∧
        r.val = (tree op ident).1 ∧ r.flags = (tree op ident).2 ∧ ∀ e, e < 256 → r.mask.testBit e = true)
    let none_ := if t.isInt then 0 else M / 2
    let sum := fun (n : Nat) => (List.range n).foldl (fun (s : Nat × Flags) i =>
      if enabled i then ((plus s.1 (lane a i)).1, s.2 ||| (plus s.1 (lane a i)).2) else s) (none_, 0)
    reduces (.vredadd t d a g m) plus none_ ∧
    reduces (.vredmax t d a g m) (ext true) (if t.isInt then (lo % (M : Int)).toNat else infBits t true) ∧
    reduces (.vredmin t d a g m) (ext false) (if t.isInt then (hi % (M : Int)).toNat else infBits t false) ∧
    ∀ ex : Bool, ∃ v, vopOf (.vscan t d a ex g m) = some v ∧
      ((∀ j, j < L → enabled j = false) → v.out rd = none) ∧
      ((∃ j, j < L ∧ enabled j = true) → ∃ r, v.out rd = some (.row (rd.c.vbase + d), r) ∧ r.flags = (sum L).2 ∧
        ∀ j, j < L → (∀ e, e < w → r.mask.testBit (w * j + e) = enabled j) ∧
          (enabled j = true → r.val / 2 ^ (8 * w * j) % M = (if ex then (sum j).1 else (sum (j + 1)).1)))) ∧
  (∀ (rd : Rd) (t : Ty) (d a : Nat) (g : Guard), t ≠ .e2m1 →
    let w := t.bytes
    let L := 256 / w
    let M := 2 ^ (8 * w)
    let lane := fun (i : Nat) => rd.row a / 2 ^ (8 * w * i) % M
    let enabled := fun (i : Nat) => ((rd.c.k g.k).getLsbD (i * w) != g.neg)
    let key := fun (i : Nat) => match valOf t (lane i) with | .nan _ => FVal.inf true | v => v
    let first := fun (i j : Nat) => (key j).lt (key i) = true ∨ ((key i).lt (key j) = false ∧ i < j)
    let least := if t.isInt then (if t.isSigned then M / 2 else 0) else infBits t true
    let on_ := fun (i : Nat) => i < L ∧ enabled i = true
    ∃ v, vopOf (.vtop2 t d a g) = some v ∧ ((∀ j, j < L → enabled j = false) → v.out rd = none) ∧
      ∀ i, on_ i → (∀ j, on_ j → j ≠ i → first i j) →
        ((∀ j, on_ j → j = i) → v.out rd = some (.row (rd.c.vbase + d),
          ⟨lane i + least * M + i * M ^ 2 + (M - 1) * M ^ 3, 2 ^ 256 - 1, 0⟩)) ∧
        ∀ k, on_ k → k ≠ i → (∀ j, on_ j → j ≠ i → j ≠ k → first k j) → v.out rd = some (.row (rd.c.vbase + d),
          ⟨lane i + lane k * M + i * M ^ 2 + k * M ^ 3, 2 ^ 256 - 1, 0⟩)) ∧
  (∀ (rd : Rd) (dt st : Ty) (mode : Rnd) (p d a : Nat) (g : Guard) (m : Bool), dt ≠ st →
    let big := max dt.bits st.bits
    let n := 2048 / big
    p < big / min dt.bits st.bits →
    let elem := fun (u : Ty) (row i : Nat) => row / 2 ^ (u.bits * i) % 2 ^ u.bits
    let enabled := fun (i : Nat) => ((rd.c.k g.k).getLsbD (i * (big / 8)) != g.neg)
    let src := fun (i : Nat) => valOf st (elem st (rd.row a) (if st.bits < dt.bits then p * n + i else i))
    let draw := fun (i : Nat) => if mode = .sr then drawBits (Nat.repeat drawNext (i + 1) rd.seed) else 0
    let conv := fun (i : Nat) =>
      let y := roundTo dt mode (draw i) (src i)
      let iv : Flags := if (src i).isSig then flIV else 0
      match src i with
      | .fin s _ _ => if m = true ∧ y.1 = infBits dt s then (signBits dt s dt.maxBits, (y.2 &&& ~~~flOF) ||| flSAT) else y
      | _ => (y.1, y.2 ||| iv)
    let to_ := fun (i : Nat) => if dt.bits < st.bits then p * n + i else i
    let written := fun (j : Nat) => ∃ i, i < n ∧ enabled i = true ∧ j = to_ i
    ∃ v, vopOf (.vcvt dt st mode p d a g m) = some v ∧ v.draws = (if mode = .sr then n else 0) ∧
      ((∀ i, i < n → enabled i = false) → v.out rd = none) ∧
      ((∃ i, i < n ∧ enabled i = true) → ∃ D r, v.out rd = some (D, r) ∧
        r.flags = (List.range n).foldl (fun f i => if enabled i then f ||| (conv i).2 else f) 0 ∧
        (∀ i, i < n → enabled i = true → elem dt r.val (to_ i) = (conv i).1) ∧
        (dt = .e2m1 → ∃ N, D = .nib (rd.c.vbase + d) N none ∧ ∀ j, j < 512 → (N.testBit j = true ↔ written j)) ∧
        (dt ≠ .e2m1 → D = .row (rd.c.vbase + d) ∧
          ∀ j e, j < 2048 / dt.bits → e < dt.bytes → (r.mask.testBit (dt.bytes * j + e) = true ↔ written j)))) ∧
  (∀ (rd : Rd) (t : Ty) (d a b p : Nat) (g : Guard), (t = .f32 ∨ t = .bf16 ∨ t = .f16) →
    let w := t.bytes
    let L := 256 / w
    let M := 2 ^ (8 * w)
    let lane := fun (row i : Nat) => rd.row row / 2 ^ (8 * w * i) % M
    let X := fun (i : Nat) => floatOf t (lane a i)
    let enabled := fun (i : Nat) => ((rd.c.k g.k).getLsbD (i * w) != g.neg)
    let some_ := ∃ j, j < L ∧ enabled j = true
    let nib := fun (row i : Nat) => rd.row row / 2 ^ (4 * i) % 16
    let units := fun (c : Nat) => if c / 32 = 0 then c % 32 else (32 + c % 32) * 2 ^ (c / 32 - 1)
    let scale := fun (c : Nat) (v : FVal) => match v with | .fin s n e => FVal.fin s (n * units c) (e * 128) | v => v
    let unscale := fun (c : Nat) (v : FVal) => match v with
      | .fin s n e => if c = 0 then v else FVal.fin s (n * 128) (e * units c)
      | v => v
    let covers := fun (q c : Nat) => ∀ i, i < 8 → enabled (8 * q + i) = true → (X (8 * q + i)).isNan = false →
      (FVal.fin false (6 * units c) 128).lt (X (8 * q + i)).abs = false
    let code := fun (s : Nat → Nat × Flags) => ∀ q, q < L / 8 → (∃ i, i < 8 ∧ enabled (8 * q + i) = true) →
      (covers q 255 → covers q (s q).1 ∧ (∀ c, c < (s q).1 → ¬ covers q c) ∧ (s q).2 = 0) ∧ (¬ covers q 255 → s q = (255, flSAT))
    let quant := fun (s : Nat → Nat × Flags) (i : Nat) =>
      let y := roundTo .e2m1 .rne 0 (unscale (s (i / 8)).1 (X i))
      (y.1, (y.2 &&& ~~~flUF) ||| (s (i / 8)).2)
    let byte := fun (r : RowRes) (e : Nat) => (if r.mask.testBit e then r.val else rd.row d) / 2 ^ (8 * e) % 256
    (p < 512 / L → some_ → ∃ (v : VOp) (s : Nat → Nat × Flags) (r : RowRes) (N : Nat), vopOf (.vquant t d a p g) = some v ∧
      code s ∧ v.out rd = some (.nib (rd.c.vbase + d) N none, r) ∧
      r.flags = (List.range L).foldl (fun f i => if enabled i then f ||| (quant s i).2 else f) 0 ∧
      ∀ j, j < 512 → (N.testBit j = true ↔ p * L ≤ j ∧ j < (p + 1) * L ∧ enabled (j - p * L) = true) ∧
        (N.testBit j = true → r.val / 2 ^ (4 * j) % 16 = (quant s (j - p * L)).1)) ∧
    (p < 2048 / L → some_ → ∃ (v : VOp) (s : Nat → Nat × Flags) (r : RowRes), vopOf (.vquantScale t d a p g) = some v ∧ code s ∧
      v.out rd = some (.row (rd.c.vbase + d), r) ∧
      (let has := fun (q : Nat) => ∃ i, i < 8 ∧ enabled (8 * q + i) = true
       (∀ q, q < L / 8 → has q → byte r (L / 8 * p + q) = (s q).1) ∧
       (∀ j, j < 256 → (∀ q, q < L / 8 → has q → j ≠ L / 8 * p + q) → r.mask.testBit j = false) ∧
       ((∃ q, q < L / 8 ∧ has q ∧ (s q).2 ≠ 0) → r.flags = flSAT) ∧
       ((∀ q, q < L / 8 → has q → (s q).2 = 0) → r.flags = 0))) ∧
    (some_ → ∃ (v : VOp) (r : RowRes), vopOf (.vdeq t d a b g) = some v ∧ v.out rd = some (.row (rd.c.vbase + d), r) ∧ r.flags = 0 ∧
      ∀ j, j < L → (∀ e, e < w → r.mask.testBit (w * j + e) = enabled j) ∧ (enabled j = true →
        r.val / 2 ^ (8 * w * j) % M =
          (roundTo t .rne 0 (scale (rd.row b / 2 ^ (8 * (j / 8)) % 256) (floatOf .e2m1 (nib a j)))).1))) ∧
  ((∀ (rd : Rd) (t : Ty) (f : CorFn) (n d a : Nat) (g : Guard), (t = .f32 ∨ t = .bf16 ∨ t = .f16) →
    let w := t.bytes
    let L := 256 / w
    let M := 2 ^ (8 * w)
    let lane := fun (row i : Nat) => rd.row row / 2 ^ (8 * w * i) % M
    let enabled := fun (i : Nat) => ((rd.c.k g.k).getLsbD (i * w) != g.neg)
    let V := fun (i : Nat) => corFun f n (floatOf t (lane d i)) (floatOf t (lane a i))
    (∃ j, j < L ∧ enabled j = true) → ∃ (v : VOp) (r : RowRes), vopOf (.vcor t f n d a g) = some v ∧
      v.out rd = some (.row (rd.c.vbase + d), r) ∧
      r.flags = (List.range L).foldl (fun fl j => if enabled j then fl ||| ((roundTo t .rne 0 (V j).1).2 ||| (V j).2) else fl) 0 ∧
      ∀ j, j < L → (∀ e, e < w → r.mask.testBit (w * j + e) = enabled j) ∧
        (enabled j = true → r.val / 2 ^ (8 * w * j) % M = (roundTo t .rne 0 (V j).1).1)) ∧
  ∀ (n : Nat) (w x : FVal) (s q : Bool) (m e : Nat), 0 < m → 0 < e →
    let F := fun (f : CorFn) (x : FVal) => corFun f n w x
    let X : FVal := .fin s m e
    let iv := fun (b : Bool) => if b then flIV else (0 : Flags)
    let bad : FVal × Flags := (.nan false, flIV)
    let one := fun (f : CorFn) => f ≠ .atan2 ∧ f ≠ .div
    (∀ f, one f → F f (.nan q) = (.nan false, iv q)) ∧
    (∀ f, ¬ one f → corFun f n w (.nan q) = (.nan false, iv (q || w.isSig)) ∧
      corFun f n (.nan q) x = (.nan false, iv (q || x.isSig))) ∧
    F .sin (.inf s) = bad ∧ F .cos (.inf s) = bad ∧ F .exp (.inf false) = (.inf false, 0) ∧ F .exp (.inf true) = (.fin false 0 1, 0) ∧
    F .ln (.inf false) = (.inf false, 0) ∧ F .ln (.fin true m e) = bad ∧ F .ln (.fin s 0 1) = (.inf true, flDZ) ∧
    F .ln (.inf true) = bad ∧ F .sqrt (.inf false) = (.inf false, 0) ∧ F .sqrt (.fin true m e) = bad ∧
    F .sqrt (.inf true) = bad ∧ F .sqrt (.fin s 0 1) = (.fin s 0 1, 0) ∧
    F .tanh (.inf s) = (.fin s 1 1, 0) ∧ (16 * e ≤ m → F .tanh X = (.fin s 1 1, 0)) ∧
    (m * 4096 < e → F .sin X = (X, 0) ∧ F .tanh X = (X, 0)) ∧
    F .sigm (.inf true) = (.fin false 0 1, 0) ∧ F .sigm (.inf false) = (.fin false 1 1, 0) ∧
    F .silu (.inf true) = (.fin true 0 1, 0) ∧ F .silu (.inf false) = (.inf false, 0) ∧ F .silu (.fin s 0 1) = (.fin s 0 1, 0) ∧
    corFun .div n (.inf s) (.inf q) = bad ∧ corFun .div n (.fin s 0 1) (.fin q 0 1) = bad ∧
    corFun .div n X (.fin q 0 1) = (.inf (s != q), flDZ) ∧ corFun .div n (.inf s) (.fin q m e) = (.inf (s != q), 0) ∧
    corFun .div n X (.inf q) = (.fin (s != q) 0 1, 0) ∧ corFun .div n (.fin s 0 1) (.fin q m e) = (.fin (s != q) 0 1, 0) ∧
    (∀ u k : Nat, 0 < u → 0 < k →
      corFun .div n X (.fin q u k) = ((divCore (Q.ofVal X) (Q.ofVal (.fin q u k)) n).toVal, 0)) ∧
    (let E := fun (y : Q) => expCore y n
     let one_ := Q.ofInt 1
     F .exp X = ((E (Q.ofVal X)).toVal, 0) ∧ F .sigm X = ((divCore one_ (one_.add (E (Q.ofVal X).neg)) n).toVal, 0) ∧
     F .silu X = (((Q.ofVal X).mul (divCore one_ (one_.add (E (Q.ofVal X).neg)) n)).toVal, 0) ∧
     (e ≤ m * 4096 → m < 16 * e →
       let y := E ((Q.ofInt (-2)).mul (Q.ofVal X).abs)
       let z := divCore (one_.sub y) (one_.add y) n
       F .tanh X = ((if s then z.neg else z).toVal, 0))) ∧
    (let x := Q.ofVal X
     let core := fun (m : CorMode) (a b c : Int) => cordic m (a, b, c) n
     let sg := fun (b : Bool) (v : Q) => ((if b then v.neg else v).toVal, (0 : Flags))
     let A := fun (w x : FVal) => corFun .atan2 n w x
     let zero := fun (b : Bool) => FVal.fin b 0 1
     (let k := (⟨x.n * 2 * 2 ^ 480, x.d * piNum.toNat⟩ : Q).near
      let r := core .cr (cxOf n) 0 (x.sub ((Q.ofInt k).mul ⟨piNum, 2 ^ 481⟩)).fix
      let at_ := fun (j : Int) => let v := if j % 2 = 0 then corVal r.2.1 else corVal r.1
        ((if 2 ≤ j % 4 then v.neg else v).toVal, (0 : Flags))
      (e ≤ m * 4096 → F .sin X = at_ k) ∧ F .cos X = at_ (k + 1)) ∧
     (s = false →
      (let E := x.log2
       let M := x.scale (-E)
       let one_ := Q.ofInt 1
       F .ln X = (((Q.ofInt 2).mul (corVal (core .hv (M.add one_).fix (M.sub one_).fix 0).2.2)).add ((Q.ofInt E).mul ln2Q) |>.toVal, 0)) ∧
      (let H := (x.log2 + 1) / 2
       let M := x.scale (-(2 * H))
       F .sqrt X = ((((corVal (core .hv (M.add ⟨1, 4⟩).fix (M.sub ⟨1, 4⟩).fix 0).1).mul (corVal (hxOf n))).scale H).toVal, 0))) ∧
     (∀ k u : Nat, 0 < u →
       A (zero s) (.fin false k u) = (zero s, 0) ∧ A (zero s) (.fin true k u) = sg s piQ ∧
       A (.inf s) (.fin q k u) = sg s ⟨piNum, 2 ^ 481⟩) ∧
     A (zero s) (.inf false) = (zero s, 0) ∧ A (zero s) (.inf true) = sg s piQ ∧ A X (zero q) = sg s ⟨piNum, 2 ^ 481⟩ ∧
     A (.inf s) (.inf false) = sg s ⟨piNum, 2 ^ 482⟩ ∧ A (.inf s) (.inf true) = sg s ⟨3 * piNum, 2 ^ 482⟩ ∧
     A X (.inf false) = (zero s, 0) ∧ A X (.inf true) = sg s piQ ∧
     ∀ k u : Nat, 0 < k → 0 < u →
       let v := Q.ofVal (.fin q k u)
       let E := if k * e < m * u then x.log2 else v.log2
       let fix := fun (y : Q) => (if q then (y.scale (-E)).neg else y.scale (-E)).fix
       let z := corVal (core .cv (fix v) (fix x) 0).2.2
       A X (.fin q k u) = ((if q then (if s then z.sub piQ else z.add piQ) else z).toVal, 0)))

/-- R35, R75, R78 and R99: every vector operation issues where its rows lie in the allotment. Unless a lane is enabled and a
row that it reads lies in a tile under its context's matrix operation, it is performed at once: its result, if a lane is
enabled, goes in flight at its latency, and the draws it makes are made. Otherwise it is late, with what its bundle read.
R35: a vector operation that names a row outside the allotment takes REG_RANGE in its slot. The vector operations and their
latencies are those of R100: every V-slot instruction is one, and each has its latency. -/
def Obligations.VectorIssues : Prop :=
  (∀ (i : Instr) (v : VOp) (s : State), vopOf i = some v → (∀ n ∈ v.rows, s.me.vbase + n < s.me.vlim) →
    let drawn := s.modMe fun c => { c with srseed := drawSkip c.srseed v.draws }
    (v.out s.rd = none → Issues i s drawn) ∧
    (∀ d r, v.out s.rd = some (d, r) →
      ((∀ n ∈ v.reads, s.rowBusy s.cur n = false) → Issues i s (drawn.push s.cur
        ⟨s.destAt s.cur s.bids d, BitVec.ofNat 2048 r.val, BitVec.ofNat 256 r.mask, r.flags, v.lat, s.vslot, false⟩)) ∧
      ((∃ n ∈ v.reads, s.rowBusy s.cur n = true) →
        Issues i s (drawn.pushLate s.vslot i v.reads s.me.srseed 0 [] [])))) ∧
  (∀ (i : Instr) (v : VOp) (s : State), vopOf i = some v → (∃ n ∈ v.rows, ¬ s.me.vbase + n < s.me.vlim) →
    Traps i s ⟨.regRange, if s.slot = .vb then 3 else 2, 0, 0⟩) ∧
  ((∀ i : Instr, i.kind = .v → ∃ v, vopOf i = some v) ∧
  ∀ (t : Ty) (d a b n : Nat) (g : Guard) (m ex : Bool) (r : Rnd) (u : Ty) (f : CorFn),
    let lat := fun (i : Instr) => (vopOf i).map fun v => v.lat
    (∀ i ∈ ([.vadd t d a b g m, .vsub t d a b g m] : List Instr), lat i = some (if t.isInt then 2 else 4)) ∧
    (∀ i ∈ ([.vmul t d a b g m, .vfma t d a b g m, .vfms t d a b g m, .vdot4 t d a b g m, .vdot2 t d a b g m, .vscl t d a b g,
      .vdeq t d a b g] : List Instr), lat i = some 4) ∧
    (∀ i ∈ ([.vmin t d a b g m, .vmax t d a b g m, .vabs t d a g m, .vneg t d a g m, .vand t d a b g, .vor t d a b g,
      .vxor t d a b g, .vnot t d a g, .vshl t d a b g, .vshlImm t d a n g, .vshr t d a b g, .vshrImm t d a n g, .vsra t d a b g,
      .vsraImm t d a n g] ++ [.vcmpeq t d a b g, .vcmpne t d a b g, .vcmplt t d a b g, .vcmple t d a b g, .vsel t d a b g,
      .vmov t d a g, .vbcast t d a n g, .vbcastScalar t d a g, .vlaneInsert t d a n g, .vlaneExtract t d a n g] : List Instr),
      lat i = some 2) ∧
    (∀ i ∈ ([.vperm t d a b g m, .vrot t d a n g m, .vcvt t u r n d a g m, .vcnt t d a g, .vcntLz t d a g] : List Instr),
      lat i = some 3) ∧
    (∀ i ∈ ([.vredadd t d a g m, .vredmax t d a g m, .vredmin t d a g m, .vtop2 t d a g, .vquant t d a n g,
      .vquantScale t d a n g] : List Instr), lat i = some 6) ∧
    lat (.vscan t d a ex g m) = some 8 ∧ lat (.vcor t f n d a g) = some (n + 6))

/-- R102, R103 and R113 on floating lanes: VADD, VSUB, VMUL, VFMA and VFMS round the exact value once with RNE; VABS and VNEG
change the sign bit alone; VMIN and VMAX give an operand, with −0 below +0 and a NaN as m says; VSCL rounds a lane times a
power of two (a power beyond ±5000 is held there: log entry 23). The bytes of the other lanes are not written, and the flags
are those of the enabled lanes together. R106: a compare sets the predicate bits of each enabled lane's bytes to its truth
and leaves the others. Integers compare by their type and floating values by number, with −0 equal to +0; a NaN makes VCMPNE
true and the others false, and a signalling one sets IV. -/
def Obligations.VectorFloatAndCompareLanes : Prop :=
  (∀ (rd : Rd) (t : Ty) (d a b : Nat) (g : Guard) (m : Bool), t.isInt = false → t ≠ .e2m1 →
    let w := t.bytes
    let L := 256 / w
    let M := 2 ^ (8 * w)
    let lane := fun (row i : Nat) => rd.row row / 2 ^ (8 * w * i) % M
    let X := fun (i : Nat) => floatOf t (lane a i)
    let Y := fun (i : Nat) => floatOf t (lane b i)
    let enabled := fun (i : Nat) => ((rd.c.k g.k).getLsbD (i * w) != g.neg)
    let rn := fun (v : FVal × Flags) => ((roundTo t .rne 0 v.1).1, (roundTo t .rne 0 v.1).2 ||| v.2)
    let fma := fun (p : FVal × Flags) (i : Nat) =>
      ((exactSum [p.1, floatOf t (lane d i)]).1, (exactSum [p.1, floatOf t (lane d i)]).2 ||| p.2)
    let prod := fun (i : Nat) => mulVal (X i) (Y i)
    let below := fun (x y : FVal) => x.lt y || (x.isZero && y.isZero && x.neg? && !y.neg?)
    let ext := fun (takeY : FVal → FVal → Bool) (i : Nat) =>
      (if (X i).isNan = true ∧ (Y i).isNan = true then t.canonNan
       else if (X i).isNan = true then (if m = true then lane b i else t.canonNan)
       else if (Y i).isNan = true then (if m = true then lane a i else t.canonNan)
       else if takeY (X i) (Y i) = true then lane b i else lane a i, if (X i).isSig || (Y i).isSig then flIV else 0)
    let K := fun (i : Nat) => if M / 2 ≤ lane b i then (lane b i : Int) - M else (lane b i : Int)
    let gives := fun (i : Instr) (f : Nat → Nat × Flags) => ∃ v, vopOf i = some v ∧
      ((∀ j, j < L → enabled j = false) → v.out rd = none) ∧
      ((∃ j, j < L ∧ enabled j = true) → ∃ r, v.out rd = some (.row (rd.c.vbase + d), r) ∧
        r.flags = (List.range L).foldl (fun fl j => if enabled j then fl ||| (f j).2 else fl) 0 ∧
        ∀ j, j < L → (∀ e, e < w → r.mask.testBit (w * j + e) = enabled j) ∧
          (enabled j = true → r.val / 2 ^ (8 * w * j) % M = (f j).1))
    gives (.vadd t d a b g m) (fun i => rn (exactSum [X i, Y i])) ∧
    gives (.vsub t d a b g m) (fun i => rn (exactSum [X i, (Y i).negate])) ∧
    gives (.vmul t d a b g m) (fun i => rn (prod i)) ∧
    gives (.vfma t d a b g m) (fun i => rn (fma (prod i) i)) ∧
    gives (.vfms t d a b g m) (fun i => rn (fma ((prod i).1.negate, (prod i).2) i)) ∧
    gives (.vabs t d a g m) (fun i => (lane a i % (M / 2), 0)) ∧
    gives (.vneg t d a g m) (fun i => ((lane a i + M / 2) % M, 0)) ∧
    gives (.vmin t d a b g m) (ext fun x y => below y x) ∧
    gives (.vmax t d a b g m) (ext below) ∧
    (t = .bf16 ∨ t = .f16 ∨ t = .f32 ∨ t = .f64 → (∀ i, i < L → -5000 ≤ K i ∧ K i ≤ 5000) →
      gives (.vscl t d a b g) fun i => match X i with
        | .fin s n e => rn (.fin s (n * 2 ^ (K i).toNat) (e * 2 ^ (-K i).toNat), 0)
        | .inf _ => (lane a i, 0)
        | .nan q => (t.canonNan, if q then flIV else 0))) ∧
  (∀ (rd : Rd) (t : Ty) (d a b : Nat) (g : Guard), t ≠ .e2m1 →
    let w := t.bytes
    let L := 256 / w
    let M := 2 ^ (8 * w)
    let lane := fun (row i : Nat) => rd.row row / 2 ^ (8 * w * i) % M
    let val := fun (x : Nat) => if t.isSigned = true ∧ M / 2 ≤ x then (x : Int) - M else (x : Int)
    let X := fun (i : Nat) => floatOf t (lane a i)
    let Y := fun (i : Nat) => floatOf t (lane b i)
    let enabled := fun (i : Nat) => ((rd.c.k g.k).getLsbD (i * w) != g.neg)
    let sets := fun (i : Instr) (ci : Int → Int → Bool) (cf : FVal → FVal → Bool) (nan : Bool) => ∃ v, vopOf i = some v ∧
      let truth := fun (j : Nat) => if t.isInt then ci (val (lane a j)) (val (lane b j))
        else if (X j).isNan || (Y j).isNan then nan else cf (X j) (Y j)
      let fl := fun (j : Nat) => if !t.isInt && ((X j).isSig || (Y j).isSig) then flIV else 0
      ((∀ j, j < L → enabled j = false) → v.out rd = none) ∧
      ((∃ j, j < L ∧ enabled j = true) → ∃ r, v.out rd = some (.kreg d, r) ∧
        r.flags = (List.range L).foldl (fun f j => if enabled j then f ||| fl j else f) 0 ∧
        ∀ j e, j < L → e < w → r.mask.testBit (w * j + e) = enabled j ∧
          (enabled j = true → r.val.testBit (w * j + e) = truth j))
    let eq_ := fun (x y : FVal) => !x.lt y && !y.lt x
    sets (.vcmpeq t d a b g) (fun x y => decide (x = y)) eq_ false ∧
    sets (.vcmpne t d a b g) (fun x y => decide (x ≠ y)) (fun x y => !eq_ x y) true ∧
    sets (.vcmplt t d a b g) (fun x y => decide (x < y)) FVal.lt false ∧
    sets (.vcmple t d a b g) (fun x y => decide (x ≤ y)) (fun x y => !y.lt x) false)

/-- R97, R101, R102, R103, R105, R108 and R110 on integer lanes: for every enabled lane the result is the value given,
wrapped to the lane's width; the bytes of the other lanes are not written; no flag is raised; and with no lane enabled there
is no result. R101, R102, R104, R105 and R109: the operations of the integer types that saturate (m = 1); the packed dot
products; the bitwise operations and the shifts by a row or by a count, which look at bits alone; and VLANE. R108 and R110 in
every type, floating ones too: VBCAST, VPERM and VROT give each enabled lane the bits of the lane that they name, of a
scalar, or zeros, and raise no flag. -/
def Obligations.VectorIntegerLanes : Prop :=
  (∀ (rd : Rd) (t : Ty) (d a b n : Nat) (g : Guard), t.isInt = true →
    let w := t.bytes
    let L := 256 / w
    let M := 2 ^ (8 * w)
    let lane := fun (row i : Nat) => rd.row row / 2 ^ (8 * w * i) % M
    let val := fun (x : Nat) => if t.isSigned = true ∧ M / 2 ≤ x then (x : Int) - M else (x : Int)
    let A := fun (i : Nat) => val (lane a i)
    let B := fun (i : Nat) => val (lane b i)
    let Z := fun (i : Nat) => val (lane d i)
    let enabled := fun (i : Nat) => ((rd.c.k g.k).getLsbD (i * w) != g.neg)
    let gives := fun (i : Instr) (f : Nat → Int) => ∃ v, vopOf i = some v ∧
      ((∀ j, j < L → enabled j = false) → v.out rd = none) ∧
      ((∃ j, j < L ∧ enabled j = true) → ∃ r, v.out rd = some (.row (rd.c.vbase + d), r) ∧ r.flags = 0 ∧
        ∀ j, j < L → (∀ e, e < w → r.mask.testBit (w * j + e) = enabled j) ∧
          (enabled j = true → (r.val / 2 ^ (8 * w * j) % M : Nat) = (f j) % (M : Int)))
    (decide (t ∈ [.i8, .i16, .i32, .i64, .n8, .n16, .n32, .n64]) = true) ∧
    gives (.vadd t d a b g false) (fun j => A j + B j) ∧
    gives (.vsub t d a b g false) (fun j => A j - B j) ∧
    gives (.vmul t d a b g false) (fun j => A j * B j) ∧
    gives (.vfma t d a b g false) (fun j => Z j + A j * B j) ∧
    gives (.vfms t d a b g false) (fun j => Z j - A j * B j) ∧
    gives (.vmin t d a b g false) (fun j => min (A j) (B j)) ∧
    gives (.vmax t d a b g false) (fun j => max (A j) (B j)) ∧
    gives (.vneg t d a g false) (fun j => - A j) ∧
    gives (.vabs t d a g false) (fun j => if t.isSigned then (A j).natAbs else A j) ∧
    gives (.vmov t d a g) A ∧
    (n < L → gives (.vbcast t d a n g) (fun _ => A n)) ∧
    gives (.vbcastScalar t d n g) (fun _ => ((rd.c.s n).toNat : Int)) ∧
    gives (.vshlImm t d a n g) (fun j => A j * 2 ^ n) ∧
    (n < 8 * w → gives (.vshrImm t d a n g) (fun j => (lane a j : Int) / 2 ^ n)) ∧
    gives (.vperm t d a b g false) (fun j => A (lane b j % L)) ∧
    gives (.vperm t d a b g true) (fun j => if lane b j < L then A (lane b j) else 0) ∧
    gives (.vrot t d a n g false) (fun j => A ((j + n) % L)) ∧
    gives (.vrot t d a n g true) (fun j => if j + n < L then A (j + n) else 0)) ∧
  (∀ (rd : Rd) (t : Ty) (d a b n : Nat) (g : Guard) (m : Bool), t ≠ .e2m1 →
    let w := t.bytes
    let L := 256 / w
    let M := 2 ^ (8 * w)
    let lane := fun (row i : Nat) => rd.row row / 2 ^ (8 * w * i) % M
    let signed := fun (x : Nat) => if M / 2 ≤ x then (x : Int) - M else (x : Int)
    let val := fun (x : Nat) => if t.isSigned = true then signed x else (x : Int)
    let A := fun (i : Nat) => val (lane a i)
    let B := fun (i : Nat) => val (lane b i)
    let Z := fun (i : Nat) => val (lane d i)
    let on_ := fun (w i : Nat) => ((rd.c.k g.k).getLsbD (i * w) != g.neg)
    let narrow := fun (M : Nat) (m : Bool) (v : Int) =>
      let lo : Int := if t.isSigned then -((M : Int) / 2) else 0
      let hi : Int := if t.isSigned then (M : Int) / 2 - 1 else M - 1
      if m = true ∧ (v < lo ∨ hi < v) then ((max lo (min hi v) % (M : Int)).toNat, flSAT) else ((v % (M : Int)).toNat, 0)
    let gives := fun (w : Nat) (i : Instr) (f : Nat → Nat × Flags) => ∃ v, vopOf i = some v ∧
      ((∀ j, j < 256 / w → on_ w j = false) → v.out rd = none) ∧
      ((∃ j, j < 256 / w ∧ on_ w j = true) → ∃ r, v.out rd = some (.row (rd.c.vbase + d), r) ∧
        r.flags = (List.range (256 / w)).foldl (fun fl j => if on_ w j then fl ||| (f j).2 else fl) 0 ∧
        ∀ j, j < 256 / w → (∀ e, e < w → r.mask.testBit (w * j + e) = on_ w j) ∧
          (on_ w j = true → r.val / 2 ^ (8 * w * j) % 2 ^ (8 * w) = (f j).1))
    let sat := fun (i : Instr) (f : Nat → Int) => gives w i fun j => narrow M true (f j)
    let bits := fun (i : Instr) (f : Nat → Nat) => gives w i fun j => (f j, 0)
    let cnt := fun (j : Nat) => lane b j % (8 * w)
    (t.isInt = true →
      sat (.vadd t d a b g true) (fun j => A j + B j) ∧ sat (.vsub t d a b g true) (fun j => A j - B j) ∧
      sat (.vmul t d a b g true) (fun j => A j * B j) ∧ sat (.vfma t d a b g true) (fun j => Z j + A j * B j) ∧
      sat (.vfms t d a b g true) (fun j => Z j - A j * B j) ∧ sat (.vneg t d a g true) (fun j => - A j) ∧
      sat (.vabs t d a g true) (fun j => if t.isSigned then (A j).natAbs else A j) ∧
      sat (.vmin t d a b g true) (fun j => min (A j) (B j)) ∧ sat (.vmax t d a b g true) (fun j => max (A j) (B j))) ∧
    (t = .i8 ∨ t = .n8 ∨ t = .i16 ∨ t = .n16 →
      let dot := fun (P j : Nat) =>
        let z : Nat := rd.row d / 2 ^ (32 * j) % 2 ^ 32
        narrow (2 ^ 32) m ((if t.isSigned = true ∧ 2 ^ 31 ≤ z then (z : Int) - 2 ^ 32 else (z : Int)) +
          ((List.range P).map fun i => A (P * j + i) * B (P * j + i)).sum)
      gives 4 (.vdot4 t d a b g m) (dot 4) ∧ gives 4 (.vdot2 t d a b g m) (dot 2)) ∧
    (t.isInt = false →
      let dot := fun (P j : Nat) =>
        let ps := (List.range P).map fun i => mulVal (floatOf t (lane a (P * j + i))) (floatOf t (lane b (P * j + i)))
        let q := exactSum (ps.map Prod.fst ++ [floatOf .f32 (rd.row d / 2 ^ (32 * j) % 2 ^ 32)])
        let y := roundTo .f32 .rne 0 q.1
        (y.1, ps.foldl (fun f p => f ||| p.2) (y.2 ||| q.2))
      gives 4 (.vdot4 t d a b g m) (dot 4) ∧ gives 4 (.vdot2 t d a b g m) (dot 2)) ∧
    bits (.vand t d a b g) (fun j => lane a j &&& lane b j) ∧ bits (.vor t d a b g) (fun j => lane a j ||| lane b j) ∧
    bits (.vxor t d a b g) (fun j => lane a j ^^^ lane b j) ∧ bits (.vnot t d a g) (fun j => M - 1 - lane a j) ∧
    bits (.vshl t d a b g) (fun j => lane a j * 2 ^ cnt j % M) ∧ bits (.vshr t d a b g) (fun j => lane a j / 2 ^ cnt j) ∧
    bits (.vsra t d a b g) (fun j => ((signed (lane a j) / 2 ^ cnt j) % (M : Int)).toNat) ∧
    bits (.vshlImm t d a n g) (fun j => lane a j * 2 ^ n % M) ∧
    (n < 8 * w → bits (.vshrImm t d a n g) (fun j => lane a j / 2 ^ n) ∧
      bits (.vsraImm t d a n g) (fun j => ((signed (lane a j) / 2 ^ n) % (M : Int)).toNat)) ∧
    (n < L → (∃ v, vopOf (.vlaneInsert t d a n g) = some v ∧ (on_ w n = false → v.out rd = none) ∧
        (on_ w n = true → ∃ r, v.out rd = some (.row (rd.c.vbase + d), r) ∧ r.flags = 0 ∧
          (∀ e, e < 256 → r.mask.testBit e = decide (w * n ≤ e ∧ e < w * n + w)) ∧
          r.val / 2 ^ (8 * w * n) % M = (rd.c.s a).toNat % M)) ∧
      ∃ v, vopOf (.vlaneExtract t d a n g) = some v ∧ (on_ w n = false → v.out rd = none) ∧
        (on_ w n = true → ∃ r, v.out rd = some (.sreg d, r) ∧ r.flags = 0 ∧
          BitVec.ofNat 64 r.val = BitVec.ofInt 64 (A n)))) ∧
  (∀ (rd : Rd) (t : Ty) (d a b n : Nat) (g : Guard), t ≠ .e2m1 →
    let w := t.bytes
    let L := 256 / w
    let M := 2 ^ (8 * w)
    let lane := fun (row i : Nat) => rd.row row / 2 ^ (8 * w * i) % M
    let enabled := fun (i : Nat) => ((rd.c.k g.k).getLsbD (i * w) != g.neg)
    let gives := fun (i : Instr) (f : Nat → Nat) => ∃ v, vopOf i = some v ∧
      ((∀ j, j < L → enabled j = false) → v.out rd = none) ∧
      ((∃ j, j < L ∧ enabled j = true) → ∃ r, v.out rd = some (.row (rd.c.vbase + d), r) ∧ r.flags = 0 ∧
        ∀ j, j < L → (∀ e, e < w → r.mask.testBit (w * j + e) = enabled j) ∧
          (enabled j = true → r.val / 2 ^ (8 * w * j) % M = f j))
    (n < L → gives (.vbcast t d a n g) fun _ => lane a n) ∧
    gives (.vbcastScalar t d n g) (fun _ => (rd.c.s n).toNat % M) ∧
    gives (.vperm t d a b g false) (fun j => lane a (lane b j % L)) ∧
    gives (.vperm t d a b g true) (fun j => if lane b j < L then lane a (lane b j) else 0) ∧
    (n < L → gives (.vrot t d a n g false) (fun j => lane a ((j + n) % L)) ∧
      gives (.vrot t d a n g true) fun j => if j + n < L then lane a (j + n) else 0))

/-- R107 and R116: VSEL writes every lane, a where the guard is true and b where it is false; VMOV writes a's enabled lanes;
VCNT writes in each enabled lane the number of set bits, or of leading zeros. -/
def Obligations.VectorSelectAndCount : Prop :=
  ∀ (rd : Rd) (t : Ty) (d a b : Nat) (g : Guard), t ≠ .e2m1 →
    let w := t.bytes
    let L := 256 / w
    let M := 2 ^ (8 * w)
    let lane := fun (row i : Nat) => rd.row row / 2 ^ (8 * w * i) % M
    let enabled := fun (i : Nat) => ((rd.c.k g.k).getLsbD (i * w) != g.neg)
    let writes := fun (i : Instr) (on_ : Nat → Bool) (f : Nat → Nat) => ∃ v, vopOf i = some v ∧
      ((∃ j, j < L ∧ on_ j = true) → ∃ r, v.out rd = some (.row (rd.c.vbase + d), r) ∧
        ∀ j, j < L → (∀ e, e < w → r.mask.testBit (w * j + e) = on_ j) ∧
          (on_ j = true → r.val / 2 ^ (8 * w * j) % M = f j)) ∧
      ((∀ j, j < L → on_ j = false) → v.out rd = none)
    writes (.vsel t d a b g) (fun _ => true) (fun j => if enabled j then lane a j else lane b j) ∧
    writes (.vmov t d a g) enabled (lane a) ∧
    (t.isInt = true → writes (.vcnt t d a g) enabled (fun j => (List.range (8 * w)).countP fun e => (lane a j).testBit e) ∧
      ∃ z : Nat → Nat, writes (.vcntLz t d a g) enabled z ∧
        ∀ j, j < L → z j ≤ 8 * w ∧ (∀ e, e < z j → (lane a j).testBit (8 * w - 1 - e) = false) ∧
          (z j < 8 * w → (lane a j).testBit (8 * w - 1 - z j) = true))

/-! ## The M slot -/

/-- R142, with R126, R127 and R138 to R141: MCFG, MCFGI, MFMT, MSHAD, MRESTART, MKEEP and MDROP take no engine slot; each is
accepted and complete in its issue cycle, with a signal at either point on its way to the end of the cycle. -/
def Obligations.MatrixConfiguration : Prop :=
  ∀ (s : State) (y : Sync) (sr imm mask e : Nat) (off : Int) (src : FmtSrc), Admits y s →
    let A := s.me.s sr
    let lo := A.extractLsb' 0 32
    let set := fun (f : Shadow → Shadow) => (settled y s).modMe fun c => { c with sh := f c.sh }
    let I := BitVec.ofNat 32 imm
    let I16 := BitVec.ofNat 32 (imm * 16)
    (Issues (.mcfg .aaddr sr y) s (set fun h => { h with aaddr := lo }) ∧
      Issues (.mcfg .baddr sr y) s (set fun h => { h with baddr := lo }) ∧
      Issues (.mcfg .maddr sr y) s (set fun h => { h with maddr := lo }) ∧
      Issues (.mcfg .saddr sr y) s (set fun h => { h with saddr := lo }) ∧
      Issues (.mcfg .k sr y) s (set fun h => { h with k := lo }) ∧
      Issues (.mcfg .astr sr y) s (set fun h => { h with astr := lo }) ∧
      Issues (.mcfg .bstr sr y) s (set fun h => { h with bstr := lo }) ∧
      Issues (.mcfg .banda sr y) s (set fun h => { h with banda := A.extractLsb' 0 16 }) ∧
      Issues (.mcfg .bandb sr y) s (set fun h => { h with bandb := A.extractLsb' 0 16 })) ∧
    (Issues (.mcfgi .aaddr imm y) s (set fun h => { h with aaddr := I16 }) ∧
      Issues (.mcfgi .baddr imm y) s (set fun h => { h with baddr := I16 }) ∧
      Issues (.mcfgi .maddr imm y) s (set fun h => { h with maddr := I16 }) ∧
      Issues (.mcfgi .saddr imm y) s (set fun h => { h with saddr := I16 }) ∧
      Issues (.mcfgi .k imm y) s (set fun h => { h with k := I }) ∧
      Issues (.mcfgi .astr imm y) s (set fun h => { h with astr := I }) ∧
      Issues (.mcfgi .bstr imm y) s (set fun h => { h with bstr := I }) ∧
      Issues (.mcfgi .banda imm y) s (set fun h => { h with banda := BitVec.ofNat 16 imm }) ∧
      Issues (.mcfgi .bandb imm y) s (set fun h => { h with bandb := BitVec.ofNat 16 imm })) ∧
    (Issues (.mrestart off y) s ((settled y s).modMe fun c => { c with rlabel := some (c.pc + BitVec.ofInt 64 (2 * off)) }) ∧
      Issues (.mrestartOff y) s ((settled y s).modMe fun c => { c with rlabel := none }) ∧
      Issues (.mshad y) s ((settled y s).modMe fun c => { c with mshad := true })) ∧
    ((∀ n, n < 16 → mask.testBit n = true → s.me.vbase + 64 * n + 63 < s.me.vlim) →
      Issues (.mkeep mask y) s ((settled y s).modMe fun c => { c with keep := c.keep ||| BitVec.ofNat 16 mask }) ∧
      Issues (.mdrop mask y) s ((settled y s).modMe fun c => { c with keep := c.keep &&& ~~~BitVec.ofNat 16 mask })) ∧
    (entOk lo = true →
      let n := match src with | .entry => e | .lc0 => s.me.lc0.lc.toNat % 16 | .lc1 => s.me.lc1.lc.toNat % 16
      Issues (.mfmt src e sr y) s ((settled y s).modMe fun c => { c with fmt := tput c.fmt n lo }))

/-- R141, R138 and R64: a mask bit for a tile outside the allotment takes REG_RANGE, and an entry that R64 does not accept
ILLEGAL_TYPE. R130 to R132, R136 and R137: a matrix operation whose tile lies in the allotment, whose entry its command
accepts and whose layout passes takes an engine slot with a copy of the shadow set: active if the engine is empty, else
pending. A commit uses up a request of MSHAD; MZERO commits nothing. R37, R130, R131 and R136: a tile outside the allotment
takes REG_RANGE; with both engine slots taken the bundle stays blocked; an entry the command does not accept takes
ILLEGAL_TYPE; a layout that fails takes MATRIX_BANK with its reason. -/
def Obligations.MatrixCommit : Prop :=
  (∀ (s : State) (y : Sync) (mask e sr n : Nat) (src : FmtSrc),
    (n < 16 → mask.testBit n = true → ¬ s.me.vbase + 64 * n + 63 < s.me.vlim →
      Traps (.mkeep mask y) s ⟨.regRange, 4, 0, 0⟩ ∧ Traps (.mdrop mask y) s ⟨.regRange, 4, 0, 0⟩) ∧
    (Admits y s → entOk ((s.me.s sr).extractLsb' 0 32) = false →
      Traps (.mfmt src e sr y) s ⟨.illegalType, 4, 0, 0⟩)) ∧
  (∀ (s : State) (y : Sync) (tile e : Nat) (src : FmtSrc) (acc : Bool), Admits y s →
    s.me.vbase + 64 * tile + 63 < s.me.vlim →
    ((s.core (coreOf s.cur)).act = none ∨ (s.core (coreOf s.cur)).pend = none) →
    let c := s.me
    let n := match src with | .entry => e | .lc0 => c.lc0.lc.toNat % 16 | .lc1 => c.lc1.lc.toNat % 16
    let ent := entOf (c.fmtE n)
    let sig := if y.spt = true ∧ y.sinc ≠ 0 then some (y.ssem, y.sinc) else none
    let op := fun (k : MatKind) (i : Nat) (a sh : Bool) =>
      ({ kind := k, ctx := s.cur, tile := c.vbase + 64 * tile, tnum := tile, eidx := i, entry := c.fmtE i, acc := a, sh := c.sh,
         stream := streamOf k (entOf (c.fmtE i)) c.sh.k.toNat, start := none, olds := [], base := [], writes := [],
         sees := (0, 0), shadow := sh, opnum := 0,
         id := s.bids, done := ⟨s.cur, c.task, none, sig⟩ } : MatOp)
    let slot := fun (t : State) (m : MatOp) =>
      let u := t.modCore (coreOf s.cur) fun x => if x.act.isNone then { x with act := some m } else { x with pend := some m }
      { u with agenda := u.agenda ++ [⟨.matrixStart, [coreOf s.cur]⟩] }
    let base := signalAtAccept y { (taken y s) with bids := s.bids + 1 }
    let commit := fun (i : Instr) (k : MatKind) => kindOk k ent = true → bankReason k ent c.sh = none →
      Issues i s (slot (base.modMe fun x => { x with mshad := false }) (op k n acc c.mshad))
    commit (.mma tile src e acc y) .mma ∧ commit (.mmas tile src e acc y) .mmas ∧ commit (.mmac tile src e acc y) .mmac ∧
    Issues (.mzero tile y) s (slot base (op .mzero 0 false false))) ∧
  (∀ (s : State) (y : Sync) (tile e : Nat) (src : FmtSrc) (acc : Bool),
    let c := s.me
    let n := match src with | .entry => e | .lc0 => c.lc0.lc.toNat % 16 | .lc1 => c.lc1.lc.toNat % 16
    let ent := entOf (c.fmtE n)
    let core := s.core (coreOf s.cur)
    let fits := s.me.vbase + 64 * tile + 63 < s.me.vlim
    let free := core.act = none ∨ core.pend = none
    let forms := [((.mma tile src e acc y : Instr), MatKind.mma), (.mmas tile src e acc y, .mmas), (.mmac tile src e acc y, .mmac)]
    (¬ fits → ∀ i ∈ (.mzero tile y : Instr) :: forms.map Prod.fst, Traps i s ⟨.regRange, 4, 0, 0⟩) ∧
    (fits → Admits y s → ¬ free → ∀ i ∈ (.mzero tile y : Instr) :: forms.map Prod.fst, Blocks i s id) ∧
    (fits → Admits y s → free → ∀ f ∈ forms,
      (kindOk f.2 ent = false → Traps f.1 s ⟨.illegalType, 4, 0, 0⟩) ∧
      (kindOk f.2 ent = true → ∀ r, bankReason f.2 ent c.sh = some r → Traps f.1 s ⟨.matrixBank, 4, r, 0⟩)))

/-- R130's table: the reason is the first check that fails, in the order of the table. R132's table: the streaming cycles of
an operation. R47, R48, R58 to R60, R65, R125, R128, R129, R133 and R136 at MATRIX_COMPLETE: what an operation leaves in its
tile. Its operands are the bytes that memory held before it began to stream, and in each 64-byte beat the first n of the
writes that it met since, n free for each beat (R134, R295; log entry 26). A cell adds its groups to the accumulator that the
tile held at its start, or to 0, each group's exact sum rounded once in the accumulator's type, or wrapped or saturated for
INT32; a position that a mask leaves clear gives +0. The row holds its accumulators, converted where the entry asks, from
byte 0 up. Rows outside the tile, memory and the other contexts stay. -/
def Obligations.MatrixLayoutTimeAndResult : Prop :=
  (∀ (k : MatKind) (e : Ent) (h : Shadow) (r : Nat),
    let grp := fun (x : BitVec 32) => x.toNat / 2 ^ 18 % 4
    let masks := k = .mmas
    let scales := e.scale = 2
    let off := fun (x : BitVec 32) => ¬ 16 ∣ x.toNat
    let fails : Nat → Prop := fun n =>
      (n = 1 ∧ (h.k.toNat = 0 ∨ ¬ e.group ∣ h.k.toNat ∨ 4096 < h.k.toNat ∨ (k = .mmac ∧ 1024 < h.k.toNat))) ∨
      (n = 2 ∧ (off h.aaddr ∨ off h.baddr ∨ off h.astr ∨ off h.bstr ∨ (masks ∧ off h.maddr) ∨ (scales ∧ off h.saddr))) ∨
      (n = 3 ∧ ∃ x ∈ regions k e h, 0xFFFFF < x.2) ∨
      (n = 4 ∧ ∃ x ∈ regions k e h, x.1 / 2 ^ 18 % 4 ≠ x.2 / 2 ^ 18 % 4) ∨
      (n = 5 ∧ grp h.aaddr = grp h.baddr) ∨
      (n = 6 ∧ masks ∧ (grp h.maddr = grp h.aaddr ∨ grp h.maddr = grp h.baddr)) ∨
      (n = 7 ∧ scales ∧ (grp h.saddr = grp h.aaddr ∨ (masks ∧ grp h.saddr = grp h.maddr)))
    bankReason k e h = some r ↔ fails r ∧ ∀ q, q < r → ¬ fails q) ∧
  (∀ (e : Ent) (K : Nat),
    (e.a = .bf16 → e.acc = .f32 → streamOf .mma e K = K ∧ streamOf .mmas e K = K / 2) ∧
    ((e.a = .e4m3 ∨ e.a = .e5m2 ∨ e.a = .i8 ∨ e.a = .n8) → (e.acc = .f32 ∨ e.acc = .i32) →
      streamOf .mma e K = K / 2 ∧ streamOf .mmas e K = K / 4) ∧
    ((e.a = .e4m3 ∨ e.a = .e5m2) → e.acc = .bf16 → streamOf .mma e K = K ∧ streamOf .mmas e K = K / 2) ∧
    (e.a = .e2m1 → e.acc = .f32 → streamOf .mma e K = K / 4 ∧ streamOf .mmas e K = K / 8) ∧
    (e.a = .e2m1 → e.acc = .bf16 → streamOf .mma e K = K / 2 ∧ streamOf .mmas e K = K / 4) ∧
    streamOf .mmac e K = 2 * K ∧ streamOf .mzero e K = 4) ∧
  (∀ (s : State) (core t : Nat) (m : MatOp),
    s.sel = [core] → (s.core core).act = some m → m.start = some t → m.ctx / 4 = core → m.kind ≠ .mzero → s.turn = [] →
    t + m.stream + 11 ≤ s.clock → m.done.sig = none → entOk m.entry = true → kindOk m.kind (entOf m.entry) = true →
    let E := entOf m.entry
    let h := m.sh
    let K := h.k.toNat
    let G := if E.a = .bf16 then 16 else if E.a = .e2m1 then 64 else 32
    let cols := if m.kind = .mmac then 64 else if E.acc = .bf16 then 128 else 64
    ∃ seen : Nat → Nat, (m.start = some m.sees.1 → ∀ i, m.sees.2 ≤ seen i) ∧
    let byte := fun (x : Nat) =>
      let p := 0xFFF * 2 ^ 52 + m.ctx / 256 * 2 ^ 48 + 0xA * 2 ^ 44 + m.ctx / 16 % 16 * 2 ^ 40 + m.ctx / 4 % 4 * 2 ^ 38 + x % 2 ^ 20
      ((m.writes.take (seen (x / 64))).foldl (fun v w => if w.1 ≤ p ∧ p < w.1 + w.2.length then w.2.getD (p - w.1) 0 else v)
        (memGet m.base p)).toNat
    let elem := fun (ty : Ty) (x k : Nat) => if ty = .e2m1 then byte (x + k / 2) / 16 ^ (k % 2) % 16
      else if ty.bytes = 1 then byte (x + k) else byte (x + 2 * k) + 256 * byte (x + 2 * k + 1)
    let pair := fun (p q : FVal × Flags) => ((mulVal p.1 q.1).1, (mulVal p.1 q.1).2 ||| p.2 ||| q.2)
    let block := fun (x : Nat) (v : FVal) => if E.scale = 2 then
        mulVal v (.fin false (if byte x / 32 = 0 then byte x % 32 else (32 + byte x % 32) * 2 ^ (byte x / 32 - 1)) 128)
      else (v, 0)
    let band := fun (w : BitVec 16) (v : FVal × Flags) =>
      if E.scale = 0 then v else ((mulVal v.1 (floatOf .bf16 w.toNat)).1, (mulVal v.1 (floatOf .bf16 w.toNat)).2 ||| v.2)
    let A := fun (i k : Nat) => band h.banda (block (h.saddr.toNat + i * (K / 8) + k / 8)
      (valOf E.a (elem E.a (h.aaddr.toNat + i * h.astr.toNat) k)))
    let Bat := fun (j k p : Nat) => band h.bandb (block (h.saddr.toNat + 64 * (K / 8) + j * (K / 8) + k / 8)
      (valOf E.b (elem E.b (h.baddr.toNat + j * h.bstr.toNat) p)))
    let maskBit := fun (j g i : Nat) => byte (h.maddr.toNat + (j * K / 16 + g) * 2 + i / 8) / 2 ^ (i % 8) % 2
    let before := fun (j k : Nat) => ((List.range (k % 16)).map (maskBit j (k / 16))).sum
    let N := 2 ^ E.spn
    let term := fun (i j k : Nat) =>
      if m.kind = .mmas then
        (if maskBit j (k / 16) (k % 16) = 1 ∧ before j k < N then pair (A i k) (Bat j k (k / 16 * N + before j k))
         else (.fin false 0 1, 0))
      else pair (A i k) (Bat j k k)
    let sum := fun (l : List (FVal × Flags)) =>
      ((exactSum (l.map Prod.fst)).1, l.foldl (fun f x => f ||| x.2) (exactSum (l.map Prod.fst)).2)
    let cA := fun (i k part : Nat) => band h.banda (valOf .bf16 (elem .bf16 (h.aaddr.toNat + i * h.astr.toNat) (2 * k + part)), 0)
    let cB := fun (j k part : Nat) => band h.bandb (valOf .bf16 (elem .bf16 (h.baddr.toNat + j * h.bstr.toNat) (2 * k + part)), 0)
    let cplx := fun (i j part k : Nat) =>
      let p := pair (cA i k 0) (cB j k part)
      let r := pair (cA i k 1) (cB j k (1 - part))
      sum [p, (if part = 0 then r.1.negate else r.1, r.2)]
    let at_ := fun (i j k : Nat) => if m.kind = .mmac then cplx i (j / 2) (j % 2) k else term i j k
    let step := fun (i j : Nat) (acc : Nat × Flags) (g : Nat) =>
      let q := sum ((List.range G).map fun n => at_ i j (g * G + n))
      let z := exactSum [valOf E.acc acc.1, q.1]
      let y := if E.acc = .i32 then
          (let v : Int := match z.1 with | .fin neg n d => (if neg then -(n : Int) else n) / d | _ => 0
           if E.asat = true ∧ v < -2 ^ 31 then (2 ^ 31, flSAT) else if E.asat = true ∧ 2 ^ 31 ≤ v then (2 ^ 31 - 1, flSAT)
           else ((v % 2 ^ 32).toNat, 0))
        else roundTo E.acc .rne 0 z.1
      (y.1, acc.2 ||| q.2 ||| z.2 ||| y.2)
    let old := fun (i j : Nat) => if m.acc then ((m.olds.getD i 0).toNat) / 2 ^ (E.acc.bits * j) % 2 ^ E.acc.bits else 0
    let cell := fun (i j : Nat) => (List.range (K / G)).foldl (step i j) (old i j, 0)
    let out := fun (i j : Nat) => match E.out with
      | none => cell i j
      | some ty => ((roundTo ty E.rnd 0 (valOf E.acc (cell i j).1)).1,
          (cell i j).2 ||| (roundTo ty E.rnd 0 (valOf E.acc (cell i j).1)).2)
    let width := match E.out with | none => E.acc.bits | some ty => ty.bits
    let wrongMask := m.kind = .mmas ∧ ∃ j g, j < cols ∧ g < K / 16 ∧ ((List.range 16).map (maskBit j g)).sum ≠ N
    ∃ u : State, Steps .matrixComplete s u ∧ u.mem = s.mem ∧ (u.core core).act = (s.core core).pend ∧ (u.core core).pend = none ∧
      (∀ i j, i < 64 → j < cols → ((u.core core).row (m.tile + i)).toNat / 2 ^ (width * j) % 2 ^ width = (out i j).1) ∧
      (∀ i, i < 64 → ((u.core core).row (m.tile + i)).toNat < 2 ^ (width * cols)) ∧
      (∀ n, (n < m.tile ∨ m.tile + 64 ≤ n) → (u.core core).row n = (s.core core).row n) ∧
      (∀ k, k ≠ m.ctx → u.ctx k = s.ctx k) ∧
      (let fl := (List.range 64).foldl (fun f i => (List.range cols).foldl (fun f j => f ||| (out i j).2) f) (s.ctx m.ctx).flags
       (wrongMask → (u.ctx m.ctx).flags = fl ||| flSPM) ∧ (¬ wrongMask → (u.ctx m.ctx).flags = fl) ∧
       (u.ctx m.ctx).sregs = (s.ctx m.ctx).sregs ∧ (u.ctx m.ctx).pc = (s.ctx m.ctx).pc))

/-! ## The L and S slots -/

/-- R10, R11 and R12 for the L and S slots: an address passes exactly when it names this die, the own cluster's pad or the
own core's unit pad with its reserved bits zero, in a cluster that the context's virtual device owns. KIND 0xF without
supervisor rights is the one that takes PRIVILEGE; every other failure takes ADDR_CLASS. -/
def Obligations.PadAddressClass : Prop :=
  ∀ (s : State) (k : Nat) (a : Word),
    let ep := a.toNat / 2 ^ 52
    let die := a.toNat / 2 ^ 48 % 16
    let kind := a.toNat / 2 ^ 44 % 16
    let clus := a.toNat / 2 ^ 40 % 16
    let co := a.toNat / 2 ^ 38 % 4
    let low := a.toNat % 2 ^ 44
    let reaches := (ep = 0xFFF ∨ ep = s.epid) ∧ die = k / 256 ∧ clus = k / 16 % 16 ∧
      ((kind = 0x9 ∧ low / 2 ^ 22 % 2 ^ 18 = 0) ∨ (kind = 0xA ∧ co = k / 4 % 4 ∧ low / 2 ^ 20 % 2 ^ 18 = 0))
    let owned := s.ownsClus (k / 256) (s.vdOf k) clus = true
    (s.checkAddr k .ls a = none ↔ reaches ∧ owned) ∧
    (kind = 0xF ∧ (s.ctx k).sup = false → s.checkAddr k .ls a = some .privilege) ∧
    (¬ (kind = 0xF ∧ (s.ctx k).sup = false) → ¬ (reaches ∧ owned) → s.checkAddr k .ls a = some .addrClass)

/-- R148 and R149: the loads of one value. LD delivers the bytes at EA, sign- or zero-extended, and LDK 32 bytes, 5 cycles
later from the unit pad and 12 from the cluster pad; memory stays as it is. R148, R149, R76: the stores of one value. ST
writes the low bytes of its register at EA and STK a predicate, in the issue cycle; nothing goes in flight. Every byte
outside those stored reads as before. -/
def Obligations.ScalarLoadsAndStores : Prop :=
  (∀ (s : State) (t : Ty) (d : Nat) (x : LSArgs), on s x.g →
    let a := s.me.s x.base + s.me.s x.idx + BitVec.ofInt 64 x.off
    let key := 0xFFF * 2 ^ 52 + a.toNat % 2 ^ 52
    let lat := if a.toNat / 2 ^ 44 % 16 = 0xA then 5 else 12
    let w := t.bytes
    let v := leNat (memBytes s.mem key w)
    let ext := if t.isSigned = true ∧ 2 ^ (8 * w) / 2 ≤ v then BitVec.ofInt 64 ((v : Int) - 2 ^ (8 * w)) else BitVec.ofNat 64 v
    (t.isInt = true → PadAccess s a w w → Calm s [(key, w)] → Clean s [(key, w)] →
      Issues (.ld t d x) s ((served s [(key, w)]).push s.cur
        ⟨.sreg d, ext.setWidth 2048, BitVec.allOnes 256, 0, lat, .l, x.ord⟩)) ∧
    (PadAccess s a 32 32 → Calm s [(key, 32)] → Clean s [(key, 32)] →
      Issues (.ldk d x) s ((served s [(key, 32)]).push s.cur
        ⟨.kreg d, BitVec.ofNat 2048 (leNat (memBytes s.mem key 32)), BitVec.allOnes 256, 0, lat, .l, x.ord⟩))) ∧
  (∀ (s : State) (t : Ty) (d : Nat) (x : LSArgs), on s x.g →
    let a := s.me.s x.base + s.me.s x.idx + BitVec.ofInt 64 x.off
    let key := 0xFFF * 2 ^ 52 + a.toNat % 2 ^ 52
    let w := t.bytes
    let stores := fun (i : Instr) (n v : Nat) => ∃ u : State, Issues i s u ∧
      u = (served s [(key, n)]).write key (leBytes v n) ∧
      ∀ p, memGet u.mem p = if key ≤ p ∧ p < key + n then BitVec.ofNat 8 (v / 2 ^ (8 * (p - key))) else memGet s.mem p
    (t.isInt = true → PadAccess s a w w → Calm s [(key, w)] → stores (.st t d x) w (s.me.s d).toNat) ∧
    (PadAccess s a 32 32 → Calm s [(key, 32)] → stores (.stk d x) 32 (s.me.k d).toNat))

/-- R149 and R153: the loads of rows. Each puts one row result in flight, at the pad's latency, that holds exactly the bytes
of the enabled lanes as memory has them, and that waits for a matrix operation that holds its row (R78); memory stays as it
is. What is checked reaches to the end of the last enabled lane. R149 and R153: the stores of rows. The bytes of each enabled
lane are written in the issue cycle; every byte that no enabled lane stores reads as before, and no register changes. Of
scattered lanes on one byte the highest stands. -/
def Obligations.RowLoadsAndStores : Prop :=
  (∀ (s : State) (t : Ty) (d vx : Nat) (x : LSArgs), t ≠ .e2m1 →
    let a := s.me.s x.base + s.me.s x.idx + BitVec.ofInt 64 x.off
    let key := 0xFFF * 2 ^ 52 + a.toNat % 2 ^ 52
    let row := s.me.vbase + d
    let lat := fun (b : Word) => if b.toNat / 2 ^ 44 % 16 = 0xA then 5 else 12
    let w := t.bytes
    let en := fun (i : Nat) => laneEnabled s x.g w i
    let fits := s.me.vbase + d < s.me.vlim
    let lands := fun (i : Instr) (tch : List (Nat × Nat)) (l : Nat) (src : Nat → Option Nat) => ∃ r : Result,
      Issues i s ((served s tch).push s.cur r) ∧ r.dest = s.destAt s.cur s.bids (.row row) ∧ r.left = l ∧ r.src = .l ∧ r.flags = 0 ∧ r.acq = x.ord ∧
      ∀ b, b < 256 → r.mask.getLsbD b = (src b).isSome ∧
        ∀ p, src b = some p → ∀ j, j < 8 → r.val.getLsbD (8 * b + j) = (memGet s.mem p).getLsbD j
    let form := fun (i : Instr) (lo n : Nat) =>
      let lanes := (List.range (256 / w)).filter fun e => en e && decide (lo ≤ e * w) && decide (e * w < lo + n)
      let tch := lanes.map fun e => (key + (e * w - lo), w)
      lanes ≠ [] → fits → (∀ z, lanes.getLast? = some z → PadAccess s a ((z + 1) * w - lo) 64) → Calm s tch → Clean s tch →
        lands i tch (lat a) fun b => if b / w ∈ lanes then some (key + (b - lo)) else none
    form (.ldv t d x) 0 256 ∧ form (.ldvh t false d x) 0 128 ∧ form (.ldvh t true d x) 128 128 ∧
    (let lane := fun (i : Nat) => s.me.s x.base + BitVec.ofNat 64 (4 * ((s.rowOf s.cur vx).toNat / 2 ^ (32 * i) % 2 ^ 32))
     let lanes := (List.range 64).filter fun i => laneEnabled s x.g 4 i
     let tch := lanes.map fun i => (0xFFF * 2 ^ 52 + (lane i).toNat % 2 ^ 52, 4)
     lanes ≠ [] → fits → s.me.vbase + vx < s.me.vlim → s.rowBusy s.cur vx = false →
       (∀ i ∈ lanes, PadAccess s (lane i) 4 4) → Calm s tch → Clean s tch →
       lands (.ldg t d vx x) tch (lat (s.me.s x.base)) fun b =>
         if b / 4 ∈ lanes then some (0xFFF * 2 ^ 52 + (lane (b / 4)).toNat % 2 ^ 52 + b % 4) else none)) ∧
  (∀ (s : State) (t : Ty) (d vx : Nat) (x : LSArgs), t ≠ .e2m1 →
    let a := s.me.s x.base + s.me.s x.idx + BitVec.ofInt 64 x.off
    let key := 0xFFF * 2 ^ 52 + a.toNat % 2 ^ 52
    let w := t.bytes
    let R := (s.rowOf s.cur d).toNat
    let fits := s.me.vbase + d < s.me.vlim ∧ s.rowBusy s.cur d = false
    let writes := fun (i : Instr) (at_ : Nat → Option Nat) => ∃ u : State, Issues i s u ∧ u.ctxs = s.ctxs ∧
      u.cores = s.cores ∧ u.dies = s.dies ∧ u.creg = s.creg ∧ u.wire = s.wire ∧ u.code = s.code ∧
      ∀ p, memGet u.mem p = match at_ p with | some b => BitVec.ofNat 8 (R / 2 ^ (8 * b)) | none => memGet s.mem p
    let form := fun (i : Instr) (lo n : Nat) =>
      let lanes := (List.range (256 / w)).filter fun e =>
        laneEnabled s x.g w e && decide (lo ≤ e * w) && decide (e * w < lo + n)
      lanes ≠ [] → fits → (∀ z, lanes.getLast? = some z → PadAccess s a ((z + 1) * w - lo) 64) → Calm s (lanes.map fun e => (key + (e * w - lo), w)) →
        writes i fun p => if key ≤ p ∧ p < key + n ∧ (lo + (p - key)) / w ∈ lanes then some (lo + (p - key)) else none
    form (.stv t d x) 0 256 ∧ form (.stvh t false d x) 0 128 ∧ form (.stvh t true d x) 128 128 ∧
    (let lane := fun (i : Nat) => s.me.s x.base + BitVec.ofNat 64 (4 * ((s.rowOf s.cur vx).toNat / 2 ^ (32 * i) % 2 ^ 32))
     let place := fun (i : Nat) => 0xFFF * 2 ^ 52 + (lane i).toNat % 2 ^ 52
     let lanes := (List.range 64).filter fun i => laneEnabled s x.g 4 i
     lanes ≠ [] → fits → s.me.vbase + vx < s.me.vlim → s.rowBusy s.cur vx = false →
       (∀ i ∈ lanes, PadAccess s (lane i) 4 4) → Calm s (lanes.map fun i => (place i, 4)) →
       writes (.sts t d vx x) fun p =>
         (lanes.reverse.find? fun i => decide (place i ≤ p) && decide (p < place i + 4)).map fun i => 4 * i + (p - place i)))

/-- R154 and R155: the pad atomics. The old value goes in flight, extended as for LD, at 8 cycles from the unit pad and 16
from the cluster pad; the new value of the table is written in the issue cycle; every other byte reads as before. -/
def Obligations.PadAtomics : Prop :=
  ∀ (s : State) (t : Ty) (d : Nat) (x : LSArgs), on s x.g →
    let a := s.me.s x.base + BitVec.ofInt 64 x.off
    let key := 0xFFF * 2 ^ 52 + a.toNat % 2 ^ 52
    let lat := if a.toNat / 2 ^ 44 % 16 = 0xA then 8 else 16
    let w := t.bytes
    let M := 2 ^ (8 * w)
    let val := fun (x : Nat) => if t.isSigned = true ∧ M / 2 ≤ x then (x : Int) - M else (x : Int)
    let old := leNat (memBytes s.mem key w)
    let v := (s.me.s x.idx).toNat % M
    let cmp := (s.me.s d).toNat % M
    let gives := fun (i : Instr) (new : Nat) (fl : Flags) => ∃ u : State, Issues i s u ∧
      u = ((served s [(key, w)]).write key (leBytes new w)).push s.cur
        ⟨.sreg d, (BitVec.ofInt 64 (val old)).setWidth 2048, BitVec.allOnes 256, fl, lat, .s, false⟩ ∧
      ∀ p, memGet u.mem p = if key ≤ p ∧ p < key + w then BitVec.ofNat 8 (new / 2 ^ (8 * (p - key))) else memGet s.mem p
    PadAccess s a w w → Calm s [(key, w)] → Clean s [(key, w)] →
      ((t = .i32 ∨ t = .i64 ∨ t = .n32 ∨ t = .n64) →
        gives (.aadd t d x) ((old + v) % M) 0 ∧
        gives (.amin t d x) (if val v < val old then v else old) 0 ∧
        gives (.amax t d x) (if val old < val v then v else old) 0 ∧
        gives (.aand t d x) (old &&& v) 0 ∧ gives (.aor t d x) (old ||| v) 0 ∧ gives (.axch t d x) v 0 ∧
        gives (.acas t d x) (if old = cmp then v else old) 0) ∧
      ((t = .f32 ∨ t = .f64) →
        let r := floatRes t (exactSum [floatOf t old, floatOf t v])
        gives (.afadd t d x) r.1 r.2)

/-- R32: an L or S operation whose guard enables no lane issues and makes no access, no check and no register write; for LDVH
and STVH no lane of their half (log entry 114). R35, R12, R148 and R149: where the scalar and the row forms trap. A row
outside the allotment takes REG_RANGE at decode; then the address, with TRAPADDR at EA (zero for PRIVILEGE): its class or the
end of its pad, then its alignment. A row form accesses the bytes up to its last enabled lane. R153, R78 and R148 for LDG and
STS: a row outside the allotment takes REG_RANGE; an index row in a tile under its context's matrix operation blocks the
bundle; then the addresses of the enabled lanes: a class that one lane fails, the end of the pad, the alignment, with
TRAPADDR at the first lane that fails (each check on every lane before the next: log entries 11 and 129). -/
def Obligations.MemoryGuardsAndTraps : Prop :=
  (∀ (s : State) (t : Ty) (d vx : Nat) (hi : Bool) (x : LSArgs), t ≠ .e2m1 → s.me.vbase + d < s.me.vlim →
    (¬ on s x.g → ∀ i ∈ ([.ld t d x, .ldk d x, .st t d x, .stk d x, .aadd t d x, .amin t d x, .amax t d x, .aand t d x,
      .aor t d x, .axch t d x, .acas t d x, .afadd t d x] : List Instr), Issues i s s) ∧
    ((∀ e, e < 256 / t.bytes → laneEnabled s x.g t.bytes e = false) →
      ∀ i ∈ ([.ldv t d x, .stv t d x] : List Instr), Issues i s s) ∧
    ((∀ e, e < 256 / t.bytes → decide (128 ≤ e * t.bytes) = hi → laneEnabled s x.g t.bytes e = false) →
      ∀ i ∈ ([.ldvh t hi d x, .stvh t hi d x] : List Instr), Issues i s s) ∧
    ((∀ e, e < 64 → laneEnabled s x.g 4 e = false) → s.me.vbase + vx < s.me.vlim → s.rowBusy s.cur vx = false →
      Issues (.ldg t d vx x) s s ∧ Issues (.sts t d vx x) s s)) ∧
  (∀ (s : State) (t : Ty) (d : Nat) (hi : Bool) (x : LSArgs),
    let ea := s.me.s x.base + s.me.s x.idx + BitVec.ofInt 64 x.off
    let ea1 := s.me.s x.base + BitVec.ofInt 64 x.off
    let loads : List (Instr × Word × Nat × Nat) := [(.ld t d x, ea, t.bytes, t.bytes), (.ldk d x, ea, 32, 32)]
    let stores : List (Instr × Word × Nat × Nat) := [(.st t d x, ea, t.bytes, t.bytes), (.stk d x, ea, 32, 32)] ++
      ([.aadd t d x, .amin t d x, .amax t d x, .aand t d x, .aor t d x, .axch t d x, .acas t d x, .afadd t d x].map
        fun i => (i, ea1, t.bytes, t.bytes))
    let bad := fun (slot : Nat) (f : Instr × Word × Nat × Nat) =>
      (s.checkAddr s.cur .ls f.2.1 = some .privilege → Traps f.1 s ⟨.privilege, slot, 0, 0⟩) ∧
      (s.checkAddr s.cur .ls f.2.1 = some .addrClass → Traps f.1 s ⟨.addrClass, slot, 0, f.2.1⟩) ∧
      (s.checkAddr s.cur .ls f.2.1 = none → ¬ offOf f.2.1 + f.2.2.1 ≤ spaceSize (kindOf f.2.1) →
        Traps f.1 s ⟨.addrClass, slot, 0, f.2.1⟩) ∧
      (s.checkAddr s.cur .ls f.2.1 = none → offOf f.2.1 + f.2.2.1 ≤ spaceSize (kindOf f.2.1) →
        ¬ f.2.2.2 ∣ f.2.1.toNat → Traps f.1 s ⟨.align, slot, 0, f.2.1⟩)
    (on s x.g → (∀ f ∈ loads, bad 5 f) ∧ (∀ f ∈ stores, bad 6 f)) ∧
    (¬ s.me.vbase + d < s.me.vlim →
      (∀ i ∈ ([.ldv t d x, .ldvh t hi d x] : List Instr), Traps i s ⟨.regRange, 5, 0, 0⟩) ∧
      (∀ i ∈ ([.stv t d x, .stvh t hi d x] : List Instr), Traps i s ⟨.regRange, 6, 0, 0⟩)) ∧
    (s.me.vbase + d < s.me.vlim → t ≠ .e2m1 → ∀ z, z < 256 / t.bytes → laneEnabled s x.g t.bytes z = true →
      let n := (z + 1) * t.bytes
      ((∀ e, z < e → e < 256 / t.bytes → laneEnabled s x.g t.bytes e = false) →
        bad 5 (.ldv t d x, ea, n, 64) ∧ bad 6 (.stv t d x, ea, n, 64)) ∧
      ((if hi then 128 ≤ z * t.bytes else z * t.bytes < 128) →
        (∀ e, z < e → e < 256 / t.bytes → (if hi then True else e * t.bytes < 128) → laneEnabled s x.g t.bytes e = false) →
        let m := if hi then n - 128 else n
        bad 5 (.ldvh t hi d x, ea, m, 64) ∧ bad 6 (.stvh t hi d x, ea, m, 64)))) ∧
  (∀ (s : State) (t : Ty) (d vx : Nat) (x : LSArgs),
    let fits := s.me.vbase + d < s.me.vlim ∧ s.me.vbase + vx < s.me.vlim
    let lane := fun (i : Nat) => s.me.s x.base + BitVec.ofNat 64 (4 * ((s.rowOf s.cur vx).toNat / 2 ^ (32 * i) % 2 ^ 32))
    let l := (List.range 64).filter fun i => laneEnabled s x.g 4 i
    let cls := fun (i : Nat) => s.checkAddr s.cur .ls (lane i)
    let past := fun (i : Nat) => decide (spaceSize (kindOf (lane i)) < offOf (lane i) + 4)
    let odd := fun (i : Nat) => decide (¬ 4 ∣ (lane i).toNat)
    ∀ f ∈ ([(.ldg t d vx x, 5), (.sts t d vx x, 6)] : List (Instr × Nat)),
      (¬ fits → Traps f.1 s ⟨.regRange, f.2, 0, 0⟩) ∧
      (fits → s.rowBusy s.cur vx = true → Blocks f.1 s id) ∧
      (fits → s.rowBusy s.cur vx = false →
        (∀ i ∈ l, ∀ c, cls i = some c → (∀ j ∈ l, j ≠ i → cls j = none) →
          Traps f.1 s ⟨c, f.2, 0, if c = .privilege then 0 else lane i⟩) ∧
        ((∀ i ∈ l, cls i = none) →
          (∀ i, l.find? past = some i → Traps f.1 s ⟨.addrClass, f.2, 0, lane i⟩) ∧
          (l.find? past = none → ∀ i, l.find? odd = some i → Traps f.1 s ⟨.align, f.2, 0, lane i⟩))))

/-- R300 and R326: the fences. FENCE.acq is blocked while a load or a pad atomic of its context has not written its
destination, an undelivered latch among them (one restored from an image, whose slot is not kept, counts: log entry 17);
FENCE.rel while an access of the context is still to be performed; FENCE.ar for either. Otherwise a fence issues with no
effect. -/
def Obligations.Fences : Prop :=
  ∀ (s : State) (sc : Scope),
    let mem := fun (r : Result) => r.src = .l ∨ r.src = .s ∨ r.src = .hdr
    let acq := (∀ r ∈ s.me.inflight, ¬ mem r) ∧ ∀ r ∈ s.me.latches, ¬ mem r
    let rel := ∀ x ∈ (s.core (coreOf s.cur)).late, x.ctx ≠ s.cur
    (acq → Issues (.fenceAcq sc) s s) ∧ (¬ acq → Blocks (.fenceAcq sc) s id) ∧
    (rel → Issues (.fenceRel sc) s s) ∧ (¬ rel → Blocks (.fenceRel sc) s id) ∧
    (acq ∧ rel → Issues (.fenceAr sc) s s) ∧ (¬ (acq ∧ rel) → Blocks (.fenceAr sc) s id)

/-! ## Local copies, tiers and translation -/

/-- R156 to R158, R162 and R231: a local copy whose operands pass its checks and that finds room in its queue, and in the
range scoreboard when it holds a range there, is accepted: it enters at the tail of its queue with its operand values and its
pins, takes its scoreboard entry, and signals if its pair says at acceptance. No byte of memory and no register changes. R74,
R156, R158 and R162: a copy whose queue is full stays blocked, and so does one that takes a range when the scoreboard is
full; one whose operands fail a check traps as it would issue. TRAPADDR is an operand's address for a range or a row length
too (log entries 45 and 147), that of the first operand in the order a, b, e (log entry 129). R158 and R163 to R168: the
checks of a local copy whose addresses have passed R12, in their order, on ranges of pads and virtual addresses: the bounds
of the die pad; TMCAST's destination and CAMO's location; the end of the pad or space, and a count above 2^32 − 1; a row
length of TGATH and TSCAT; the alignments; and the barrier register. An address that fails R12 alone is the one reported.
That a range or row-length failure reports an operand's address is log entries 45 and 147, and that it is the first operand
in the order a, b, e log entry 129. R162's table: the range that a copy holds in the scoreboard, widened to 64-byte
boundaries, when its destination lies in the own core's unit pad or the own cluster's cluster pad; else it holds none. R169:
QJOIN takes one entry, of one number, in each queue of its mask; a full one blocks it. -/
def Obligations.LocalCopies : Prop :=
  (∀ (s : State) (a b c e mask : Nat) (o : AmoOp) (t : Ty) (x : CopyArgs), Admits x.y s →
    let core := coreOf s.cur
    let C := s.core core
    let v : CopyVals := ⟨s.me.s a, s.me.s b, s.me.s c, s.me.s e⟩
    let sig := if x.y.spt = true ∧ x.y.sinc ≠ 0 then some (x.y.ssem, x.y.sinc) else none
    ∀ i ∈ ([.tmov a b c e x, .tmov2 a b c e x, .tmcast a b c e mask x, .tgath a b c e x, .tscat a b c e x, .tfill a b c e x,
      .camo o t a b c e x] : List Instr),
      let sh := shapeOf i
      let hold := copyScore s.cur sh v s.bids
      let pins := s.viewPins s.cur (viewArg sh e v) (copyRanges sh v)
      let cmd : CopyCmd := ⟨s.bids, i, s.vdOf s.cur, v.a, v.b, v.c, v.e, if x.bar = 0 then 0 else s.me.s x.bar, 0, 0, 0, [],
        none, none, none, pins, ⟨s.cur, s.me.task, none, sig⟩⟩
      (tget [] C.q x.q).length < 16 → (hold ≠ none → C.score.length < 16) → copyAddr sh a b c e x.bar s = none →
      ∃ u : State, Issues i s (signalAtAccept x.y u) ∧
        (u.core core).q = tput C.q x.q (tget [] C.q x.q ++ [cmd]) ∧ (u.core core).score = C.score ++ hold.toList ∧
        u.bids = s.bids + 1 ∧ u.mem = s.mem ∧ u.ctxs = s.ctxs ∧ u.creg = s.creg ∧ u.wire = s.wire ∧
        (u.core core).rows = C.rows ∧ ∀ n, n ≠ core → u.core n = s.core n) ∧
  (∀ (s : State) (a b c e mask : Nat) (o : AmoOp) (t : Ty) (x : CopyArgs), Admits x.y s →
    let C := s.core (coreOf s.cur)
    ∀ i ∈ ([.tmov a b c e x, .tmov2 a b c e x, .tmcast a b c e mask x, .tgath a b c e x, .tscat a b c e x, .tfill a b c e x,
      .camo o t a b c e x] : List Instr),
      let holds := copyScore s.cur (shapeOf i) ⟨s.me.s a, s.me.s b, s.me.s c, s.me.s e⟩ 0 ≠ none
      (16 ≤ (tget [] C.q x.q).length ∨ (holds ∧ 16 ≤ C.score.length) → Blocks i s id) ∧
      ((tget [] C.q x.q).length < 16 → (holds → C.score.length < 16) →
        ∀ r, copyAddr (shapeOf i) a b c e x.bar s = some r → Traps i s r)) ∧
  (∀ (s : State) (a b c e bar mask : Nat) (o : AmoOp) (t : Ty) (x : CopyArgs),
    let A := s.me.s a
    let B := s.me.s b
    let C := (s.me.s c).toNat
    let E := s.me.s e
    let v : CopyVals := ⟨A, B, s.me.s c, E⟩
    let N := C / 2 ^ 32
    let len := C % 2 ^ 32
    let w := t.bytes
    let kind := fun (p : Word) => p.toNat / 2 ^ 44 % 16
    let low := fun (p : Word) => p.toNat % 2 ^ 44
    let size := fun (p : Word) => if kind p = 0x8 then 2 ^ 25 else if kind p = 0x9 then 2 ^ 22 else if kind p = 0xA then 2 ^ 20 else 2 ^ 44
    let stride := fun (hi : Bool) (k : Nat) => BitVec.ofInt 64 ((if hi then E.extractLsb' 32 32 else E.extractLsb' 0 32).toInt * k)
    let rows := if len = 0 then 0 else N
    -- the class of an address, the first byte and length of its range, its alignment and the operand reported
    let forms : List (Instr × List (AddrClass × Word × Nat × Nat × Word)) :=
      [(.tmov a b c e x, [(.tmov, A, C, 1, A), (.tmov, B, C, 1, B)]),
       (.tmcast a b c e mask x, [(.copy, A, C, 1, A), (.copy, B, C, 1, B)]), (.tfill a b c e x, [(.copy, A, C, 1, A)]),
       (.tmov2 a b c e x, [(.copy, A, 0, 1, A), (.copy, B, 0, 1, B)] ++ ((List.range rows).map fun k =>
         [(.copy, A + stride false k, len, 1, A), (.copy, B + stride true k, len, 1, B)]).flatten),
       (.tgath a b c e x, [(.copy, A, N * len, 16, A), (.copy, B, 0, 16, B), (.copy, E, 4 * N, 4, E)]),
       (.tscat a b c e x, [(.copy, A, 0, 16, A), (.copy, B, N * len, 16, B), (.copy, E, 4 * N, 4, E)]),
       (.camo o t a b c e x, [(.ls, A, w, w, A), (.copy, B, w, w, B)])]
    ∀ f ∈ forms,
      let i := f.1
      let l := f.2
      let indexed := i = .tgath a b c e x ∨ i = .tscat a b c e x
      let takes := fun (cause : Cause) (p : Word) => copyAddr (shapeOf i) a b c e bar s = some ⟨cause, 7, 0, p⟩
      let ok := fun (p : AddrClass × Word × Nat × Nat × Word) => s.checkAddr s.cur p.1 p.2.1 = none
      let bounds := s.bound (dieOf s.cur) (s.vdOf s.cur) 0x18
      let out := fun (p : Word) (n : Nat) => decide (kind p = 0x8 ∧ 0 < n ∧
        ¬ (bounds.1 * 65536 ≤ low p % 2 ^ 25 ∧ low p % 2 ^ 25 + n ≤ bounds.2 * 65536)) && s.ownDie (dieOf s.cur) p
      let long := fun (p : Word) (n : Nat) => decide (size p < low p % size p + n ∨ (¬ indexed ∧ 2 ^ 32 ≤ n))
      let place := (i = .tmcast a b c e mask x ∧ ¬ (kind A = 0xA ∧ A.toNat / 2 ^ 40 % 16 = s.cur / 16 % 16)) ∨
        (i = .camo o t a b c e x ∧ kind B ≠ 0x8 ∧ kind B ≠ 0x0)
      let rowBad := indexed ∧ (len = 0 ∨ ¬ 16 ∣ len)
      let odd := fun (p : AddrClass × Word × Nat × Nat × Word) => decide (¬ p.2.2.2.1 ∣ p.2.1.toNat)
      let barBad := fun (p : Word) => s.checkAddr s.cur .copy p ≠ none ∨ out p 1 = true ∨ (kind p ≠ 0x8 ∧ kind p ≠ 0x9)
      0 < w → (∀ p ∈ l, kind p.2.1 ≠ 0xF) →
      (∀ p ∈ l, s.checkAddr s.cur p.1 p.2.1 = some .addrClass → (∀ q ∈ l, q ≠ p → ok q) → takes .addrClass p.2.2.2.2) ∧
      ((∀ p ∈ l, ok p) →
        (∀ p, l.find? (fun p => out p.2.1 p.2.2.1) = some p → takes .addrClass p.2.2.2.2) ∧
        (l.find? (fun p => out p.2.1 p.2.2.1) = none →
          (place → takes .addrClass (if i = .camo o t a b c e x then B else A)) ∧
          (¬ place →
            (∀ p, l.find? (fun p => long p.2.1 p.2.2.1) = some p → takes .addrClass p.2.2.2.2) ∧
            (l.find? (fun p => long p.2.1 p.2.2.1) = none →
              (rowBad → takes .align A) ∧
              (¬ rowBad →
                (∀ p, l.find? odd = some p → takes .align p.2.2.2.2) ∧
                (l.find? odd = none →
                  let W := s.me.s bar
                  (bar ≠ 0 → kind W ≠ 0xF → (barBad W → takes .addrClass W) ∧ (¬ barBad W → ¬ 32 ∣ W.toNat → takes .align W)) ∧
                  (bar = 0 ∨ (kind W ≠ 0xF ∧ ¬ barBad W ∧ 32 ∣ W.toNat) →
                    s.viewTrap s.cur (viewArg (shapeOf i) e v) (copyRanges (shapeOf i) v) = none →
                    copyAddr (shapeOf i) a b c e bar s = none)))))))) ∧
  (∀ (k mask id : Nat) (o : AmoOp) (t : Ty) (v : CopyVals),
    let kind := fun (p : Word) => p.toNat / 2 ^ 44 % 16
    let own := fun (p : Word) => p.toNat / 2 ^ 40 % 16 = k / 16 % 16 ∧ (kind p = 0x9 ∨ (kind p = 0xA ∧ p.toNat / 2 ^ 38 % 4 = k / 4 % 4))
    let key := fun (p : Word) => 0xFFF * 2 ^ 52 + p.toNat % 2 ^ 52
    let holds := fun (sh : CopyShape) (lo hi : Nat) => copyScore k sh v id = some ⟨id, lo / 64 * 64, hi / 64 * 64 + 63⟩
    let range := fun (sh : CopyShape) (n : Nat) => (own v.a → 0 < n → holds sh (key v.a) (key v.a + n - 1)) ∧
      (¬ own v.a → copyScore k sh v id = none)
    let C := v.c.toNat
    let N := C / 2 ^ 32
    let len := C % 2 ^ 32
    let row := fun (i : Nat) => v.a + BitVec.ofInt 64 ((v.e.extractLsb' 0 32).toInt * i)
    let size := if kind v.a = 0x9 then 2 ^ 22 else 2 ^ 20
    let unit := 0xFFF * 2 ^ 52 + k / 256 * 2 ^ 48 + 0xA * 2 ^ 44 + k / 16 % 16 * 2 ^ 40 + k / 4 % 4 * 2 ^ 38 + v.a.toNat % 2 ^ 20
    range .move C ∧ range .fill C ∧ range (.atom o t) t.bytes ∧ range .gather (N * len) ∧
    (own v.a → holds .scatter (key v.a) (key v.a + (size - v.a.toNat % size) - 1)) ∧
    (¬ own v.a → copyScore k .scatter v id = none) ∧
    (mask.testBit (k / 4 % 4) = true → kind v.a = 0xA → 0 < C → holds (.cast mask) unit (unit + C - 1)) ∧
    (mask.testBit (k / 4 % 4) = false → copyScore k (.cast mask) v id = none) ∧
    (0 < len → (∀ i, i < N → own (row i)) → ∀ p q, p < N → q < N → (∀ i, i < N → key (row p) ≤ key (row i) ∧ key (row i) ≤ key (row q)) →
      holds .rows (key (row p)) (key (row q) + len - 1)) ∧
    ((∀ i, i < N → ¬ own (row i)) → ¬ own v.a → copyScore k .rows v id = none)) ∧
  (∀ (s : State) (mask : Nat) (y : Sync), Admits y s →
    let core := coreOf s.cur
    let queue := fun (t : State) (q : Nat) => tget [] (t.core core).q q
    ((∀ q, q < 4 → mask.testBit q = true → (queue s q).length < 16) →
      ∃ (u : State) (cmd : CopyCmd), Issues (.qjoin mask y) s (signalAtAccept y u) ∧ cmd.op = .qjoin mask y ∧
        cmd.id = s.bids ∧ (∀ q, queue u q = if q < 4 ∧ mask.testBit q = true then queue s q ++ [cmd] else queue s q) ∧
        u.mem = s.mem ∧ u.ctxs = s.ctxs) ∧
    ((∃ q, q < 4 ∧ mask.testBit q = true ∧ 16 ≤ (queue s q).length) → Blocks (.qjoin mask y) s id))

/-- R167 and R161 at the engine: the write of a TFILL at the head of its queue that lies in one chunk of a pad, when the
cycle's beat is its queue's. Each byte at address y takes byte (y mod 8) of s_b, the command comes to its end, and every
other byte of memory reads as before. (Which queues the rotation counts: log entry 121.) R160, R161, R163 to R166 and R168 at
the engine, for a row of one chunk whose addresses lie in pads of its die, at the head of its queue: once the engine has made
the cycle's beat it only reads, and its beat may be the queue's when no queue before it in rotation has one ready (log entry
121). The row's bytes are read into the command's buffer before any is written (log entry 44), and its index first where the
shape has one; the beat writes exactly those bytes at the row's destination (in a TMCAST the unit pad of each core of the
mask, in one beat: log entry 115) and the command comes to its next row; a TGATH row out of the limits reads zeros and a
TSCAT row out of them is passed over with no write; a CAMO writes the new value of R154's table at its location and keeps the
old one for its slot. -/
def Obligations.CopyBeats : Prop :=
  (∀ (s : State) (core q n a b c e : Nat) (x : CopyCmd) (g : CopyArgs) (l : List CopyCmd),
    let die := core / 64
    let key := 0xFFF * 2 ^ 52 + x.a.toNat % 2 ^ 52
    let kind := x.a.toNat / 2 ^ 44 % 16
    s.sel = [core, q, n] → s.turn ≠ [] → tget [] (s.core core).q q = x :: l → (∀ z ∈ l, z.id ≠ x.id) →
    x.op = .tfill a b c e g → x.row = 0 → x.rd = 0 → x.wr = 0 → x.buf = [] → x.idx = none → x.hold = none → x.bar = 0 →
    (s.die die).halted = false → (s.core core).beatAt ≠ some s.clock → q < 4 →
    (∀ i, i < (q + 3 - (s.core core).beatQ) % 4 → s.beatReady core (((s.core core).beatQ + 1 + i) % 4) = false) →
    0 < x.c.toNat → x.c.toNat ≤ 64 - x.a.toNat % 64 → (kind = 0x9 ∨ kind = 0xA) →
    (x.a.toNat / 2 ^ 52 = 0xFFF ∧ x.a.toNat / 2 ^ 48 % 16 = die) → s.bankBusy (addrBanks x.a x.c.toNat) = false →
    ∃ t : State, Steps .copyComplete s t ∧
      (∀ p, memGet t.mem p = if key ≤ p ∧ p < key + x.c.toNat
        then x.b.extractLsb' (8 * ((x.a.toNat + (p - key)) % 8)) 8 else memGet s.mem p) ∧
      tget [] (t.core core).q q = { x with row := 1 } :: l ∧ t.ctxs = s.ctxs ∧ t.wire = s.wire) ∧
  (∀ (s : State) (core q a b c e mask : Nat) (o : AmoOp) (ty : Ty) (g : CopyArgs) (x : CopyCmd) (l : List CopyCmd),
    let die := core / 64
    let key := fun (w : Word) => 0xFFF * 2 ^ 52 + w.toNat % 2 ^ 52
    let kind := fun (w : Word) => w.toNat / 2 ^ 44 % 16
    let inPad := fun (w : Word) => kind w = 0x9 ∨ kind w = 0xA
    let pad := fun (w : Word) (n : Nat) => w.toNat / 2 ^ 52 = 0xFFF ∧ w.toNat / 2 ^ 48 % 16 = die ∧ inPad w ∧
      offOf w + n ≤ spaceSize (kindOf w) ∧ n ≤ 64 - w.toNat % 64
    let R := x.row
    let C := x.c.toNat
    let stride := fun (i : Nat) => ((BitVec.ofNat 32 (x.e.toNat / 2 ^ i)).toInt * R : Int)
    let idx := x.idx.getD 0
    let len2 := C % 2 ^ 32
    let cast := (([0, 1, 2, 3] : List Nat).filter fun n => mask.testBit n).map fun n =>
      BitVec.ofNat 64 (0xFFF * 2 ^ 52 + die * 2 ^ 48 + 0xA * 2 ^ 44 + core / 4 % 16 * 2 ^ 40 + n * 2 ^ 38 + offOf x.a)
    -- a form with its rows, its row's length, its source and its destinations
    let forms : List (Instr × Nat × Nat × Word × List Word) :=
      [(.tmov a b c e g, 1, C, x.b, [x.a]), (.tmcast a b c e mask g, 1, C, x.b, cast),
       (.tmov2 a b c e g, C / 2 ^ 32, len2, x.b + BitVec.ofInt 64 (stride 32), [x.a + BitVec.ofInt 64 (stride 0)]),
       (.tgath a b c e g, C / 2 ^ 32, len2, x.b + BitVec.ofInt 64 (idx * len2), [x.a + BitVec.ofNat 64 (R * len2)]),
       (.tscat a b c e g, C / 2 ^ 32, len2, x.b + BitVec.ofNat 64 (R * len2), [x.a + BitVec.ofInt 64 (idx * len2)])]
    let indexed := x.op = .tgath a b c e g ∨ x.op = .tscat a b c e g
    let fits := fun (i : Int) (w : Word) => inPad w ∧ 0 ≤ i ∧ offOf w + i * len2 + len2 ≤ spaceSize (kindOf w)
    let inside := fits idx
    let side := if x.op = .tgath a b c e g then x.b else x.a
    let head := fun (t : State) (y : CopyCmd) => tget [] (t.core core).q q = y :: l
    let next : CopyCmd := { x with row := R + 1, rd := 0, wr := 0, buf := [], idx := none }
    let free := fun (w : Word) (n : Nat) => s.bankBusy (addrBanks w n) = false
    let fresh := x.rd = 0 ∧ x.wr = 0 ∧ x.buf = []
    let beat := (s.core core).beatAt = some s.clock
    let turn := ¬ beat ∧ ∀ i, i < (q + 3 - (s.core core).beatQ) % 4 → s.beatReady core (((s.core core).beatQ + 1 + i) % 4) = false
    q < 4 → s.turn ≠ [] → head s x → (∀ z ∈ l, z.id ≠ x.id) →
    x.hold = none → x.bar = 0 → (s.die die).halted = false →
    -- the index of a row
    (indexed → fresh → x.idx = none → R < C / 2 ^ 32 → 0 < len2 → s.sel = [core, q, 1] → beat → inPad x.a →
      let i := x.e + BitVec.ofNat 64 (4 * R)
      let v := (BitVec.ofNat 32 (leNat (memBytes s.mem (key i) 4))).toInt
      let skip := x.op = .tscat a b c e g ∧ ¬ fits v x.a
      pad i 4 → free i 4 → ∃ t, Steps .copyComplete s t ∧ t.mem = s.mem ∧ t.ctxs = s.ctxs ∧
        (skip → head t next) ∧ (¬ skip → head t { x with idx := some v })) ∧
    -- the read of a row
    (∀ f ∈ forms, x.op = f.1 → fresh → (indexed → x.idx ≠ none ∧ inside side) → R < f.2.1 → 0 < f.2.2.1 → s.sel = [core, q, 1] →
      beat → pad f.2.2.2.1 f.2.2.1 → free f.2.2.2.1 f.2.2.1 →
      ∃ t, Steps .copyComplete s t ∧ t.mem = s.mem ∧ t.ctxs = s.ctxs ∧
        head t { x with buf := memBytes s.mem (key f.2.2.2.1) f.2.2.1, rd := f.2.2.1 }) ∧
    (x.op = .tgath a b c e g → fresh → x.idx ≠ none → inPad x.b → ¬ inside x.b → R < C / 2 ^ 32 → 0 < len2 →
      s.sel = [core, q, 1] → beat →
      ∃ t, Steps .copyComplete s t ∧ t.mem = s.mem ∧ head t { x with buf := List.replicate len2 0, rd := len2 }) ∧
    -- the write of a row
    (∀ f ∈ forms, x.op = f.1 → x.wr = 0 → x.rd = f.2.2.1 → x.buf.length = f.2.2.1 → (indexed → x.idx ≠ none) →
      (x.op = .tscat a b c e g → inside x.a) → (x.op = .tmcast a b c e mask g → kind x.a = 0xA) → R < f.2.1 → 0 < f.2.2.1 →
      s.sel = [core, q, 0] → turn → f.2.2.2.2 ≠ [] → (∀ w ∈ f.2.2.2.2, pad w f.2.2.1 ∧ free w f.2.2.1) →
      ∃ t, Steps .copyComplete s t ∧ t.ctxs = s.ctxs ∧ t.wire = s.wire ∧ head t next ∧
        (∀ w ∈ f.2.2.2.2, ∀ i, i < f.2.2.1 → memGet t.mem (key w + i) = x.buf.getD i 0) ∧
        ∀ p, (∀ w ∈ f.2.2.2.2, ¬ (key w ≤ p ∧ p < key w + f.2.2.1)) → memGet t.mem p = memGet s.mem p) ∧
    (x.op = .tscat a b c e g → fresh → x.idx ≠ none → inPad x.a → ¬ inside x.a → R < C / 2 ^ 32 → 0 < len2 →
      s.sel = [core, q, 0] → ∃ t, Steps .copyComplete s t ∧ t.mem = s.mem ∧ t.ctxs = s.ctxs ∧ head t next) ∧
    -- CAMO
    (x.op = .camo o ty a b c e g → fresh → R = 0 → ty.bytes ≠ 0 → s.sel = [core, q, 1] → beat →
      x.b.toNat / 2 ^ 52 = 0xFFF → x.b.toNat / 2 ^ 48 % 16 = die → kind x.b = 0x8 →
      let n := ty.bytes
      let M := 2 ^ (8 * n)
      let val := fun (v : Nat) => if ty.isSigned = true ∧ M / 2 ≤ v then (v : Int) - M else (v : Int)
      let old := leNat (memBytes s.mem (key x.b) n)
      let v := C % M
      let new := match o with
        | .add => (old + v) % M
        | .min => if val v < val old then v else old
        | .max => if val old < val v then v else old
        | .and => old &&& v
        | .or => old ||| v
        | .xchg => v
        | .cas => if old = x.e.toNat % M then v else old
        | .fadd => (roundTo ty .rne 0 (exactSum [floatOf ty old, floatOf ty v]).1).1
      (o = .fadd ∨ ty.isInt = true) → ∃ t, Steps .copyComplete s t ∧ t.ctxs = s.ctxs ∧
        head t { x with buf := memBytes s.mem (key x.b) n, rd := n } ∧
        ∀ p, memGet t.mem p = if key x.b ≤ p ∧ p < key x.b + n then BitVec.ofNat 8 (new / 2 ^ (8 * (p - key x.b)))
          else memGet s.mem p) ∧
    (x.op = .camo o ty a b c e g → R = 0 → x.wr = 0 → x.rd = ty.bytes → x.buf.length = ty.bytes → ty.bytes ≠ 0 →
      s.sel = [core, q, 0] → turn → pad x.a ty.bytes → free x.a ty.bytes →
      ∃ t, Steps .copyComplete s t ∧ t.ctxs = s.ctxs ∧ head t next ∧
        ∀ p, memGet t.mem p = if key x.a ≤ p ∧ p < key x.a + ty.bytes then x.buf.getD (p - key x.a) 0 else memGet s.mem p))

/-- R221 and R182: MIGR enters the die's migration queue and counts on its handle; a full queue, or a handle whose OUT cannot
rise, blocks it. R222 and R223: the supervisor's TLBINV removes the entries of its virtual device that its range meets,
TLBINV.all all of them; DIRTY writes its bitmap over granules whose table walks end, and clears D unless it is DIRTY.keep.
Both are complete in their issue cycle, with their signal settled then (the model's reading: log entry 52). DIRTY's walks
raise a machine check for each uncorrectable chunk that a table entry they read lies in (R331). Without supervisor rights
each takes PRIVILEGE. -/
def Obligations.MigrationAndTranslation : Prop :=
  (∀ (s : State) (a b c tier : Nat) (h : Option Nat) (y : Sync), Admits y s →
    let die := dieOf s.cur
    let room := (s.die die).migrQ.length < 64 ∧ ∀ n, h = some n → (s.me.h n).out ≠ 2 ^ 32 - 1
    let sig := if y.spt = true ∧ y.sinc ≠ 0 then some (y.ssem, y.sinc) else none
    let cmd : MigrCmd := ⟨s.bids, s.vdOf s.cur, (s.me.s a).toNat % 2 ^ 44, (s.me.s b).toNat, tier,
      0xFFF * 2 ^ 52 + (s.me.s c).toNat % 2 ^ 52, 0, 0, 0, 0, ⟨s.cur, s.me.task, h, sig⟩⟩
    let counted := fun (t : State) => match h with
      | none => t
      | some n => t.push s.cur ⟨.out n, 0, BitVec.allOnes 256, 0, 1, .c, false⟩
    (room → migrTrap a b c s = none →
      Issues (.migr a b c tier h y) s (counted ({ (signalAtAccept y (taken y s)) with bids := s.bids + 1 }.modDie die
        fun d => { d with migrQ := d.migrQ ++ [cmd] }))) ∧
    (room → ∀ t, migrTrap a b c s = some t → Traps (.migr a b c tier h y) s t) ∧
    (¬ room → Blocks (.migr a b c tier h y) s id)) ∧
  (∀ (s : State) (a b c : Nat) (y : Sync), Admits y s →
    let die := dieOf s.cur
    let vd := s.vdOf s.cur
    let va := (s.me.s a).toNat % 2 ^ 44
    let len := (s.me.s b).toNat
    let key := 0xFFF * 2 ^ 52 + (s.me.s c).toNat % 2 ^ 52
    (s.me.sup = false → ∀ i ∈ ([.tlbinv a b y, .tlbinvAll y, .dirty a b c y, .dirtyKeep a b c y] : List Instr),
      Traps i s ⟨.privilege, 8, 0, 0⟩) ∧
    (s.me.sup = true → s.vaTrap .y (s.me.s a) (s.me.s b) 65536 = none →
      Issues (.tlbinv a b y) s ((settled y s).modDie die fun d => { d with tlb := d.tlb.filter fun x =>
        !(decide (x.vd = vd) && decide (x.va < va + len) && decide (va < x.va + pageSize x.lvl)) })) ∧
    (s.me.sup = true → Issues (.tlbinvAll y) s ((settled y s).modDie die fun d => { d with tlb := d.tlb.filter fun x => decide (x.vd ≠ vd) })) ∧
    (s.me.sup = true → dirtyTrap a b c s = none → ∀ l, s.dirtyBits die vd va (len / 65536) = .ok l →
      let entries := ((List.range (len / 65536)).map fun i => s.entriesOf die vd (va + 65536 * i)).flatten
      let met := nub (entries.filterMap fun off => s.badIn (hbmKey die off) 8)
      let seen := { settled y s with agenda := s.agenda ++ met.map fun c => (⟨.machineCheck, [die, c, s.cur]⟩ : Ev) }
      let bits := seen.write key (leBytes (packBits (l.map Prod.fst)) (len / 65536 / 8))
      Issues (.dirtyKeep a b c y) s bits ∧
      Issues (.dirty a b c y) s ((l.filterMap Prod.snd).foldl (fun t p => t.clearD die p) bits)))

/-! ## Semaphores, barriers and handles -/

/-- R174: the semaphore instructions, on a semaphore of the allotment or, with G, of a context of the core whose task has the
issuer's JOBID. SEMWAIT's threshold and its pair's are added where they name one semaphore. R173: how the updates of one
semaphore combine at the end of a cycle: the thresholds are subtracted, the last SEMSET replaces what is left, every
increment is added, and a sum above 65,535 leaves 65,535. A semaphore with no update keeps its value. -/
def Obligations.SemaphoreInstructions : Prop :=
  (∀ (s : State) (n c imm : Nat) (gl : Bool) (y : Sync),
    let core := coreOf s.cur
    let m := if gl then n else s.me.sbase + n
    let may := if gl then ∃ k ∈ ([4 * core, 4 * core + 1, 4 * core + 2, 4 * core + 3] : List Nat),
        (s.ctx k).st ≠ .free ∧ (s.ctx k).job = s.me.job ∧ (s.ctx k).sbase ≤ n ∧ n < (s.ctx k).slim
      else s.me.sbase + n < s.me.slim
    let amount := if c = 0 then imm else (s.me.s c).toNat % 65536
    let need := fun (j : Nat) => (if y.wthr ≠ 0 ∧ j = s.me.sbase + y.wsem then y.wthr else 0) + if j = m then amount else 0
    (may → Admits y s →
      Issues (.semadd n gl c imm y) s ((settled y s).semUpd core (.add m amount)) ∧
      Issues (.semset n gl c y) s ((settled y s).semUpd core (.set m ((s.me.s c).toNat % 65536))) ∧
      Issues (.semrd n gl c y) s ((settled y s).pushS c (BitVec.ofNat 64 ((s.core core).sem m)) 2 .y) ∧
      (need m ≤ (s.core core).left m → (y.wthr ≠ 0 → need (s.me.sbase + y.wsem) ≤ (s.core core).left (s.me.sbase + y.wsem)) →
        Issues (.semwait n gl c imm y) s (signalled y ((taken y s).semUpd core (.sub m amount)))) ∧
      (¬ need m ≤ (s.core core).left m → Blocks (.semwait n gl c imm y) s id)) ∧
    (¬ may → ∀ i ∈ ([.semadd n gl c imm y, .semset n gl c y, .semrd n gl c y, .semwait n gl c imm y] : List Instr),
      Traps i s ⟨.regRange, 8, 0, 0⟩)) ∧
  (∀ (s : State) (core n : Nat),
    let l := (s.core core).semUpd
    let subs := (l.filterMap fun u => match u with | .sub m x => if m = n then some x else none | _ => none).sum
    let sets := l.filterMap fun u => match u with | .set m x => if m = n then some x else none | _ => none
    let adds := (l.filterMap fun u => match u with | .add m x => if m = n then some x else none | _ => none).sum
    let v := (s.core core).sem n
    let t := s.semsEnd core
    ((∃ u ∈ l, u.sem = n) → (t.core core).sem n = min 65535 ((sets.getLast?.getD (v - subs)) + adds)) ∧
    ((∀ u ∈ l, u.sem ≠ n) → (t.core core).sem n = v) ∧ (t.core core).semUpd = [] ∧ (t.core core).rows = (s.core core).rows)

/-- R178, R180: the barrier instructions on an address that passes their checks send their update to the barrier unit;
BARWAIT passes when PHASE differs from its parity, as the object has it (log entry 32), and no update that comes before it is
still on its way (log entry 111), and else stays blocked; its read of the object raises a machine check when the object meets
an uncorrectable chunk (R331), whether it passes or not. A bad address traps. Their signals are settled at issue (log entry
34). R179: one arrival at a barrier. -/
def Obligations.BarrierInstructions : Prop :=
  (∀ (s : State) (a b c imm : Nat) (y : Sync), Admits y s →
    let A := s.me.s a
    let B := s.me.s b
    let key := 0xFFF * 2 ^ 52 + dieOf s.cur * 2 ^ 48 + A.toNat / 2 ^ 44 % 16 * 2 ^ 44 + A.toNat % 2 ^ 44
    let send := fun (o : BarOp) => (settled y s).modDie (dieOf s.cur) fun d => { d with barQ := d.barQ ++ [⟨s.cur, key, o, s.clock, s.bids, s.me.synced⟩] }
    let phase := (memGet s.mem (key + 18)).toNat % 2
    let early := ∃ u ∈ (s.die (dieOf s.cur)).barQ, u.key = key ∧ (u.src = s.cur ∨ u.at_ ≤ s.me.synced)
    let checked := fun (t : State) => match s.badIn key 32 with
      | some c => { t with agenda := t.agenda ++ [⟨.machineCheck, [dieOf s.cur, c, s.cur]⟩] }
      | none => t
    (s.barTrap .y A = none →
      Issues (.barinit a b y) s (send (.init (B.toNat % 2 ^ 32))) ∧
      Issues (.bararr a b imm y) s (send (.arrive (if b = 0 then imm else B.toNat % 2 ^ 32))) ∧
      Issues (.barexp a b y) s (send (.expect B.toNat)) ∧
      Issues (.barwaitT a b c y) s (send (.arm (s.me.s c).toNat (B.toNat % 2))) ∧
      (phase ≠ B.toNat % 2 ∧ ¬ early → Issues (.barwait a b y) s (checked (settled y s))) ∧
      (phase = B.toNat % 2 ∨ early → Blocks (.barwait a b y) s checked)) ∧
    (∀ t, s.barTrap .y A = some t →
      ∀ i ∈ ([.barinit a b y, .bararr a b imm y, .barexp a b y, .barwaitT a b c y, .barwait a b y] : List Instr),
        Traps i s t)) ∧
  (∀ b : Bar,
    (0 < b.pend → b.arrive = { b with pend := b.pend - 1 }) ∧
    (b.pend = 0 → b.early < max 1 b.exp → b.early < 65535 → b.arrive = { b with early := b.early + 1 }) ∧
    (b.pend = 0 → ¬ (b.early < max 1 b.exp ∧ b.early < 65535) → b.arrive = { b with flags := b.flags ||| 2 }))

/-- R183: the handle instructions. A wait whose counts agree passes and one whose counts do not stays blocked; HSTAT reads
the counts or the bytes after 2 cycles; HREL sets every field to 0. -/
def Obligations.HandleInstructions : Prop :=
  ∀ (s : State) (h c : Nat) (y : Sync), Admits y s →
    let x := s.me.h h
    let word := x.out % 2 ^ 16 * 2 ^ 48 + x.loc % 2 ^ 16 * 2 ^ 32 + x.rem % 2 ^ 16 * 2 ^ 16 + x.err % 2 ^ 8 * 2 ^ 8
    (x.loc = x.out → Issues (.hwaitL h y) s (settled y s)) ∧ (x.loc ≠ x.out → Blocks (.hwaitL h y) s id) ∧
    (x.rem = x.out → Issues (.hwaitR h y) s (settled y s)) ∧ (x.rem ≠ x.out → Blocks (.hwaitR h y) s id) ∧
    Issues (.hstat h c 0 y) s ((settled y s).pushS c (BitVec.ofNat 64 word) 2 .y) ∧
    Issues (.hstat h c 1 y) s ((settled y s).pushS c (BitVec.ofNat 64 x.bytes) 2 .y) ∧
    (x.rem = x.out →
      Issues (.hrel h y) s ((settled y s).modMe fun m => { m with hnd := tput m.hnd h ⟨0, 0, 0, 0, 0⟩ })) ∧
    (x.rem ≠ x.out → Blocks (.hrel h y) s id)

/-! ## Tasks, dependencies and jobs -/

/-- R188 and R189: TSPAWN and TSPAWN.r. The image is judged by the codes in their order; a spawn that fails a check delivers
the code below zero, and −5 counts in DISC; one that passes takes a free record with the fields of the image, or sends the
image, and the job's PART rises. A table with no room blocks it; an image that may not be read, or a target that is no die,
traps. -/
def Obligations.TaskSpawns : Prop :=
  ∀ (s : State) (c a b : Nat) (y : Sync), Admits y s →
    let die := dieOf s.cur
    let vd := s.vdOf s.cur
    let A := s.me.s a
    let B := (s.me.s b).toNat
    let rng := [(0xFFF * 2 ^ 52 + A.toNat % 2 ^ 52, 192)]
    let img := memBytes s.mem (0xFFF * 2 ^ 52 + A.toNat % 2 ^ 52) 192
    let f := numAt img
    let here := ∃ cl, cl < 16 ∧ (f 146 2).testBit cl = true ∧ s.ownsClus die vd cl = true
    let code : Bool → Nat → Prop := fun loc n =>
      (n = 1 ∧ 16 < f 153 1) ∨ (n = 2 ∧ 256 < f 154 2) ∨
      (n = 3 ∧ (f 156 4 ≠ 0 ∨ f 0 1 % 2 ≠ 0 ∨ f 8 8 ≠ 0 ∨ 4 ≤ f 152 1 ∨ f 160 32 ≠ 0)) ∨
      (n = 4 ∧ loc = true ∧ ¬ here) ∨ (n = 5 ∧ s.cancelled die (f 148 4) = true)
    let first := fun loc n => code loc n ∧ ∀ m, m < n → ¬ code loc m
    let passes := fun loc => ∀ n, ¬ code loc n
    let bd := s.bound die vd 0x20
    let room := s.jobRoom die (f 148 4) = true
    let rec_ := ∃ i, i < 4096 ∧ bd.1 ≤ i ∧ i < bd.2 ∧ (s.trec die i).st = 0
    let res := fun (v : Int) => (⟨.sreg c, (BitVec.ofInt 64 v).setWidth 2048, BitVec.allOnes 256, 0, 12, .y, false⟩ : Result)
    let part := fun (t : State) => ((t.job die (f 148 4)).map fun j => j.part).getD 0
    let fails := fun (i : Instr) (loc : Bool) => ∀ n, first loc n →
      Issues i s (signalled y ((if n = 5 then (served (taken y s) rng).discAdd die vd (f 148 4)
        else served (taken y s) rng).push s.cur (res (-(n : Int)))))
    (PadAccess s A 192 64 → Calm s rng → Clean s rng →
      fails (.tspawn c a y) true ∧ (B < 16 → fails (.tspawnR c a b y) false) ∧
      (passes true → room → rec_ → ∃ (i : Nat) (u : State), Issues (.tspawn c a y) s u ∧
        i < 4096 ∧ bd.1 ≤ i ∧ i < bd.2 ∧ (s.trec die i).st = 0 ∧
        (let r := u.trec die i
         r.vd = vd ∧ r.gen = ((s.trec die i).gen + 1) % 4096 ∧ r.pc.toNat = f 0 8 ∧ r.dep = f 144 2 ∧ r.aff = f 146 2 ∧
         r.job = f 148 4 ∧ r.prio = f 152 1 ∧ r.rows = f 153 1 ∧ r.sems = f 154 2 ∧ r.live = 0 ∧
         r.vals = (List.range 16).map (fun n => BitVec.ofNat 64 (f (16 + 8 * n) 8)) ∧
         r.st = (if f 144 2 = 0 then 2 else 1) ∧
         u.me.inflight = s.me.inflight ++ [res (die * 2 ^ 24 + r.gen * 2 ^ 12 + i : Nat)]) ∧
        (∀ j, j ≠ i → u.trec die j = s.trec die j) ∧ part u = part s + 1 ∧ u.mem = s.mem ∧
        ∀ k, k ≠ s.cur → u.ctx k = s.ctx k) ∧
      (passes false → room → B < 16 → ∃ u : State, Issues (.tspawnR c a b y) s u ∧
        (⟨s.place die, s.place B, .spawn img s.bids vd⟩ : Msg) ∈ u.wire ∧
        (u.die die).spawns = (s.die die).spawns ++ [⟨s.bids, vd, f 148 4,
          ⟨s.cur, s.me.task, none, if y.spt = true ∧ y.sinc ≠ 0 then some (y.ssem, y.sinc) else none⟩⟩] ∧
        u.me.inflight = s.me.inflight ++ [res 0] ∧ (u.die die).recs = (s.die die).recs ∧ part u = part s + 1 ∧
        u.mem = s.mem)) ∧
    (PadAccess s A 192 64 → passes true → ¬ (room ∧ rec_) → Blocks (.tspawn c a y) s id) ∧
    (PadAccess s A 192 64 → passes false → B < 16 → ¬ room → Blocks (.tspawnR c a b y) s id) ∧
    (PadAccess s A 192 64 → 16 ≤ B → Traps (.tspawnR c a b y) s ⟨.addrClass, 8, 0, s.me.s b⟩) ∧
    (∀ t, s.lsTrap .y A 192 64 = some t → Traps (.tspawn c a y) s t ∧ Traps (.tspawnR c a b y) s t)

/-- R190 to R196, R200: the other instructions of the scheduler. TDEP and TCANCEL send their messages; TSUSP and TEXIT stay
blocked while R192's commands are unfinished, and else leave the task; TMATCH arms a free entry; TJOBQ asks once, stays
blocked until its answer has come, and delivers it after 2 cycles. TDEP ignores bits [63:32] of its register (log entry 153),
TMATCH takes any task in its low half (log entry 148), and which commands TSUSP and TEXIT wait for in their own bundle is log
entry 154. -/
def Obligations.TaskInstructions : Prop :=
  ∀ (s : State) (a b c h imm : Nat) (y : Sync), Admits y s →
    let die := dieOf s.cur
    let A := s.me.s a
    let B := s.me.s b
    let C := s.me.s c
    let V := A.toNat
    let S := settled y s
    let t := V % 2 ^ 32
    let cont := A.getLsbD 0 = false ∧ (List.range 64).countP (fun i => A.getLsbD i) ≤ 16 ∧ B.getLsbD 0 = false
    let leave := fun (u : Option Susp) => S.modMe fun x => { x with st := .leaving u }
    let ent := V % 512
    let mayMat := fun (e : Nat) => (s.bound die (s.vdOf s.cur) 0x28).1 ≤ e ∧ e < (s.bound die (s.vdOf s.cur) 0x28).2 ∧ e < 512
    let spec := V / 2 ^ 44 = 0 ∧ V / 2 ^ 24 % 2 ^ 8 = 0 ∧ V / 2 ^ 9 % 2 ^ 7 = 0 ∧ mayMat ent ∧ B.toNat % 2 ^ 32 ≠ 0
    let armed := (tget Match.reset (s.die die).matches_ ent).armed
    let arm := fun (act : MatchAct) => S.modDie die fun d => { d with
      matches_ := tput d.matches_ ent ⟨true, V / 2 ^ 16 % 256, V / 2 ^ 32 % 2 ^ 12, B.toNat % 2 ^ 32, 0, act⟩ }
    Issues (.tdep a imm y) s { S with wire := s.wire ++ [⟨s.place die, s.place (t / 2 ^ 24 % 16), .tdep t imm⟩] } ∧
    Issues (.tcancel a y) s { S with wire := s.wire ++ (List.range 16).map fun d =>
      ⟨s.place die, s.place d, .cancel t (s.vdOf s.cur)⟩ } ∧
    (s.quiet s.cur none = true → Issues (.texit y) s (leave none)) ∧
    (s.quiet s.cur none = false → Blocks (.texit y) s id ∧ Blocks (.tsuspM c a b y) s id) ∧
    (s.quiet s.cur (some h) = true → cont →
      Issues (.tsuspL h a b y) s (leave (some ⟨0, h, A, B⟩)) ∧ Issues (.tsuspR h a b y) s (leave (some ⟨1, h, A, B⟩))) ∧
    (s.quiet s.cur (some h) = false → Blocks (.tsuspL h a b y) s id ∧ Blocks (.tsuspR h a b y) s id) ∧
    (s.quiet s.cur none = true → cont → mayMat C.toNat → Issues (.tsuspM c a b y) s (leave (some ⟨2, C.toNat, A, B⟩))) ∧
    (s.quiet s.cur (some h) = true → A.getLsbD 0 = true → Traps (.tsuspL h a b y) s ⟨.regRange, 8, 0, 0⟩) ∧
    (s.quiet s.cur (some h) = true → A = 0 → B.getLsbD 0 = true → Traps (.tsuspR h a b y) s ⟨.align, 8, 0, B⟩) ∧
    (spec → armed = false → Issues (.tmatch a b c y) s (arm (.decr (C.toNat % 2 ^ 32))) ∧
      (s.me.sbase + C.toNat % 256 < s.me.slim →
        Issues (.tmatchS a b c y) s (arm (.sem (coreOf s.cur) (s.me.sbase + C.toNat % 256))))) ∧
    (spec → armed = true → Blocks (.tmatch a b c y) s id) ∧
    (V / 2 ^ 44 ≠ 0 → Traps (.tmatch a b c y) s ⟨.illegalBundle, 8, 0, 0⟩ ∧
      Traps (.tmatchS a b c y) s ⟨.illegalBundle, 8, 0, 0⟩) ∧
    (s.me.ask = none → Blocks (.tjobq c a y) s fun u =>
      { (u.modMe fun x => { x with ask := some ⟨s.bids, none⟩ }) with
        bids := s.bids + 1
        wire := s.wire ++ [⟨s.place die, s.place (t % 16), .jobAsk t s.cur s.bids⟩] }) ∧
    (∀ n, s.me.ask = some ⟨n, none⟩ → Blocks (.tjobq c a y) s id) ∧
    (∀ n v, s.me.ask = some ⟨n, some v⟩ →
      Issues (.tjobq c a y) s ((S.pushS c (BitVec.ofNat 64 v) 2 .y).modMe fun x => { x with ask := none }))

/-- R186, R190, R193 and R194 at the record of a task: a decrement lowers DEP, no further than 0, and makes a waiting or
suspended task ready when it reaches 0; one for a task that is gone changes no record. A task that exits leaves its record
free; one that suspends leaves its continuation in it, with DEP 1, and is ready at once when its condition holds already. In
both cases the context is free. A task of a cancelled job that was running when the cancel came suspends as any other does
(log entry 150). -/
def Obligations.TaskRecords : Prop :=
  ∀ (s : State) (t n k : Nat),
    let die := taskDie t
    let i := taskIdx t
    let r := s.trec die i
    let live := t < 2 ^ 28 ∧ r.st ≠ 0 ∧ r.gen = t / 2 ^ 12 % 2 ^ 12
    let u := s.decr t n
    let v := u.trec die i
    let c := s.ctx k
    let own := taskIdx c.task
    (live → v.dep = r.dep - n ∧ v.st = (if r.dep ≠ 0 ∧ r.dep ≤ n ∧ (r.st = 1 ∨ r.st = 4) then 2 else r.st) ∧ v.gen = r.gen ∧
      v.pc = r.pc ∧ v.vals = r.vals) ∧
    (¬ live → u.dies = s.dies) ∧ (∀ j, j ≠ i → u.trec die j = s.trec die j) ∧ u.ctxs = s.ctxs ∧ u.mem = s.mem ∧
    (c.st = .leaving none → (s.leave k).ctx k = Ctx.reset ∧ ((s.leave k).trec (dieOf k) own).st = 0 ∧
      ((s.leave k).trec (dieOf k) own).gen = (s.trec (dieOf k) own).gen) ∧
    (∀ (h : Nat) (live pc : Word) (kind : Nat), c.st = .leaving (some ⟨kind, h, live, pc⟩) → kind < 2 → taskDie c.task = dieOf k →
      let w := s.leave k
      let z := w.trec (dieOf k) own
      let now := if kind = 0 then (c.h h).loc = (c.h h).out else (c.h h).rem = (c.h h).out
      w.ctx k = Ctx.reset ∧ z.pc = pc ∧ z.live = live ∧ z.himg = c.h h ∧ z.hnum = h ∧ z.wkind = kind ∧
      z.vals = ((List.range 64).filter fun i => live.getLsbD i).map c.s ∧
      (¬ now → z.st = 4 ∧ z.dep = 1) ∧ (now → s.taskLive c.task = true → z.st = 2 ∧ z.dep = 0))

/-- The events of the scheduler (R15 to R18, R23, R184 to R200), each for the message that it takes or the task that it is
about. A job's wave, at its period or for a question (R199), takes the counts of every member in one step (the model's
reading: log entry 36), once the join notices on their way to it have arrived (log entry 141), and its answers tell an
unknown job as 0 (R200). A discard lets PART fall by 1, raises DISC and frees the record (R198). A dispatched task's requests
wait for its earlier ones that have not completed remotely (R267, R304). -/
def Obligations.SchedulerEvents : Prop :=
  ∀ (s : State) (src die : Nat),
    let S := arrived s
    (∀ t n, Arrives s src die (.tdep t n) → Steps .tdepArrival s (S.decr t n)) ∧
    (∀ l id vd, Arrives s src die (.spawn l id vd) →
      let kept := fun (from_ : Nat) => from_ / 16 = s.epid ∧ (s.reg (from_ % 16) vd 0 0x78).getLsbD 0 = true
      let held := (∃ m ∈ s.wire.take (s.arg 0), m.dst = s.place die ∧ ¬ kept m.src ∧ ∃ l' id', m.body = .spawn l' id' vd) ∨
        (s.reg die vd 0 0x78).getLsbD 0 = true ∨ kept src ∨ s.jobRoom die (numAt l 148 4) = false
      (held ∨ s.freeRecs die vd = [] → Steps .remoteSpawnArrival s s) ∧
      (¬ held → ∀ i u, S.acceptTask die vd l 0 = some (i, u) →
        Steps .remoteSpawnArrival s ((if u.cancelled die (numAt l 148 4) = true ∨ u.affOk die vd (numAt l 146 2) = false
          then u.discard die i else u).send (s.place die) src (.spawnAck id (numAt l 148 4))))) ∧
    (∀ id job x, Arrives s src die (.spawnAck id job) → (s.die die).spawns.find? (fun z => z.id == id) = some x →
      Steps .spawnAckArrival s (((S.partAdd die x.vd x.job (-1)).modDie die fun d =>
        { d with spawns := d.spawns.filter fun z => z.id != id }).sigDone x.done)) ∧
    (∀ job vd, Arrives s src die (.cancel job vd) → s.jobRoom die job = true → Steps .cancelArrival s
      (((s.die die).recs.filter fun e => e.2.job == job && (e.2.st == 1 || e.2.st == 2 || e.2.st == 4)).foldl
        (fun t e => t.discard die e.1) ((S.jobEnsure die vd job).modJob die job fun j => { j with cancel := true }))) ∧
    (∀ i j,
      let r := s.trec die i
      let u := s.discard die i
      s.job die r.job = some j →
        u.job die r.job = some { j with part := j.part - 1, chg := (j.chg + 1) % 2 ^ 32, disc := (j.disc + 1) % 2 ^ 32 } ∧
        u.trec die i = { Rec.reset with gen := r.gen, vd := r.vd } ∧ (u.trec die i).st = 0 ∧ u.ctxs = s.ctxs ∧ u.cores = s.cores ∧
        u.wire = s.wire ∧ (r.armed = none → u.mem = s.mem ∧ ∀ n, n ≠ i → u.trec die n = s.trec die n)) ∧
    (∀ job m vd, Arrives s src die (.join job m vd) → s.jobRoom die job = true →
      Steps .jobJoinNotice s ((S.jobEnsure die vd job).modJob die job fun j => { j with mask := j.mask ||| 2 ^ m })) ∧
    (∀ job, Arrives s src die (.jobDone job) →
      Steps .jobDoneNotice s (S.modDie die fun d => { d with jobs := d.jobs.filter fun j => j.num != job })) ∧
    (∀ k id v x, Arrives s src die (.jobAnswer k id v) → (s.ctx k).ask = some ⟨id, x⟩ →
      Steps .tjobqAnswer s (S.modCtx k fun c => { c with ask := some ⟨id, some v⟩ })) ∧
    (∀ d job q, s.sel = [d, job, q] →
      let joins := s.wire.findIdx? fun m => m.dst == s.place d && match m.body with | .join j _ _ => j == job | _ => false
      (∀ i u, d < 16 → joins = some i → s.jobRoom d job = true → (q ≠ 1 ∨ ∃ m ∈ s.wire, m.dst = s.place d ∧ ∃ k id, m.body = .jobAsk job k id) →
        Steps .jobWave (stepJobJoinNotice i s) u → Steps .jobWave s u) ∧
      (joins = none →
      let asks := fun (m : Msg) (k id : Nat) => m ∈ s.wire ∧ m.dst = s.place d ∧ m.body = .jobAsk job k id
      (q = 1 → (∀ m k id, ¬ asks m k id) → Steps .jobWave s s) ∧
      ((q = 1 → ∃ m k id, asks m k id) → ∃ (u : State) (v : Nat), Steps .jobWave s u ∧
        (∀ m k id, asks m k id → (⟨s.place d, m.src, .jobAnswer k id v⟩ : Msg) ∈ u.wire ∧ m ∉ u.wire) ∧
        u.ctxs = s.ctxs ∧ u.mem = s.mem ∧
        (s.job d job = none → v = 0 ∧ u.dies = s.dies) ∧
        ∀ j, s.job d job = some j →
          let ds := (List.range 16).filter fun m => j.mask.testBit m
          let found := ds.map fun m => match s.job m job with | some x => (x.part, x.chg) | none => ((0 : Int), 0)
          let now := j.wave = some (j.mask, found) ∧ ∀ e ∈ found, e.1 = 0
          let sum := ((ds.map (s.discAt job)).sum) % 2 ^ 32
          u.job d job = some { j with wave := some (j.mask, found), sumDisc := sum, done := j.done || decide now } ∧
          v = (if j.done || decide now then 2 ^ 63 else 0) + (if j.cancel then 2 ^ 62 else 0) + sum ∧
          (now → j.done = false → ∀ m ∈ ds, (⟨s.place d, s.place m, .jobDone job⟩ : Msg) ∈ u.wire) ∧
          (¬ now → (∀ m k id, ¬ asks m k id) → u.wire = s.wire)))) ∧
    (∀ d i core x, s.sel = [d, i, core, x] →
      let r := s.trec d i
      let ck := 64 * d + core
      let k := 4 * ck + x % 4
      s.mayDispatch d i = true → core ∈ s.placesFor d i → (s.ctx k).st = .free →
        ∃ (vb sb : Nat) (u : State), Steps .taskDispatch s u ∧ s.rowRun ck r.rows = some vb ∧ s.semRun ck r.sems = some sb ∧
          (let c := u.ctx k
           c.st = .running ∧ c.task = d * 2 ^ 24 + r.gen * 2 ^ 12 + i ∧ c.job = r.job ∧ c.pc = r.pc ∧ c.vbase = vb ∧
           c.vlim = vb + 64 * r.rows ∧ c.sbase = sb ∧ c.slim = sb + r.sems ∧ c.flags = 0 ∧ c.trapen = 0 ∧ c.kregs = [] ∧
           (r.live = 0 → r.vals.length = 16 → (∀ n, n < 16 → c.s (n + 1) = r.vals.getD n 0)) ∧
           c.h r.hnum = r.himg ∧ c.before = s.requestsOf d c.task) ∧
          (∀ m, sb ≤ m → m < sb + r.sems → (u.core ck).sem m = 0) ∧ (u.trec d i).st = 3 ∧ (u.core ck).rows = (s.core ck).rows ∧
          (∀ j, j ≠ k → u.ctx j = s.ctx j) ∧ u.mem = s.mem) ∧
    (∀ d i, s.sel = [d, i] →
      let r := s.trec d i
      (r.st = 2 → r.level < 3 → 65536 ≤ s.clock - r.waited →
        Steps .taskPriorityRise s (s.setRec d i { r with level := r.level + 1, waited := r.waited + 65536 })))

/-! ## Hull memory -/

/-- R237 to R241: the view instructions. VWNEW answers a code or a new region with its root view; VWDUP makes a view inside
another and VWNAR narrows one, each with its delta of coverage; VWDROP frees one; VWQ reads one; VWSYNC waits for the deltas
that its context has queued. A stale handle and a wider interval trap. -/
def Obligations.HullInstructions : Prop :=
  ∀ (s : State) (a b c : Nat) (y : Sync), Admits y s →
    let die := dieOf s.cur
    let vd := s.vdOf s.cur
    let W := (s.me.s a).toNat
    let N := (s.me.s b).toNat
    let lo := N % 2 ^ 32
    let hi := N / 2 ^ 32
    let d := s.die die
    let meets := fun (lo hi g : Nat) => lo < hi ∧ lo / 65536 ≤ g ∧ g ≤ (hi - 1) / 65536
    let res := fun (v : Word) => (⟨.sreg c, v.setWidth 2048, BitVec.allOnes 256, 0, 2, .y, false⟩ : Result)
    let code := fun (n : Nat) =>
      (n = 1 ∧ (N = 0 ∨ N % 65536 ≠ 0 ∨ 0xFFFF0000 < N)) ∨ (n = 2 ∧ ∀ i, i < 16128 → (s.view die i).live = true) ∨
      (n = 3 ∧ ∀ i, i < 4096 → (s.region die i).live = true) ∨
      (n = 4 ∧ (d.hfree.length < N / 65536 ∨ (s.reg die vd 3 0x10).toNat < s.hpused die vd + N / 65536)) ∨
      (n = 5 ∧ s.hullRun die vd N = none)
    let free := ∃ i, i < 16128 ∧ (s.view die i).live = false
    let newView := fun (u : State) (v : View) => ∃ i, i < 16128 ∧ (s.view die i).live = false ∧
      u.view die i = { v with gen := if ((s.view die i).gen + 1) % 65536 = 0 then 1 else ((s.view die i).gen + 1) % 65536 } ∧
      u.me.inflight = s.me.inflight ++ [res (BitVec.ofNat 64 ((u.view die i).gen * 2 ^ 14 + i))] ∧
      ∀ j, j ≠ i → u.view die j = s.view die j
    let queues := fun (u : State) (r : Nat) (up : Bool) (p : Nat → Prop) => ∃ G,
      (u.die die).deltas = d.deltas ++ [⟨d.deltaSeq, r, up, G⟩] ∧ (∀ g, g ∈ G ↔ p g) ∧ u.me.vwSeq = d.deltaSeq + 1
    (∀ n, code n → (∀ m, m < n → ¬ code m) →
      Issues (.vwnew c b y) s ((settled y s).pushS c (BitVec.ofInt 64 (-(n : Int))) 2 .y)) ∧
    (∀ va r, s.hullAsk die vd (s.me.s b) = .run va r → ∃ u : State, Issues (.vwnew c b y) s u ∧
      newView u ⟨0, true, vd, r, 0, N⟩ ∧ u.region die r = ⟨true, vd, va, N, [], [], []⟩) ∧
    (∀ off, s.hullAsk die vd (s.me.s b) = .node off → Blocks (.vwnew c b y) s fun u => u.tableNode die vd off) ∧
    ((∀ z ∈ d.deltas, s.me.vwSeq ≤ z.seq) → Issues (.vwsync y) s (settled y s)) ∧
    ((∃ z ∈ d.deltas, z.seq < s.me.vwSeq) → Blocks (.vwsync y) s id) ∧
    (s.viewOf die vd (s.me.s a) = none → ∀ i ∈ ([.vwdup c a b y, .vwnar a b y, .vwdrop a y, .vwq c a 0 y] : List Instr),
      Traps i s ⟨.viewStale, 8, 0, 0⟩) ∧
    (∀ i,
      let v := s.view die i
      let r := s.region die v.region
      W = v.gen * 2 ^ 14 + i → v.gen < 65536 → i < 16128 → v.live = true → v.vd = vd →
      (¬ (v.lo ≤ lo ∧ lo ≤ hi ∧ hi ≤ v.hi) → Traps (.vwdup c a b y) s ⟨.viewWiden, 8, 0, 0⟩ ∧
        Traps (.vwnar a b y) s ⟨.viewWiden, 8, 0, 0⟩) ∧
      (v.lo ≤ lo → lo ≤ hi → hi ≤ v.hi → d.deltas.length < 1024 →
        (free → ∃ u : State, Issues (.vwdup c a b y) s u ∧ newView u ⟨0, true, vd, v.region, lo, hi⟩ ∧
          queues u v.region true (meets lo hi) ∧ u.mem = s.mem) ∧
        (∃ u : State, Issues (.vwnar a b y) s u ∧ u.view die i = { v with lo := lo, hi := hi } ∧
          (∀ j, j ≠ i → u.view die j = s.view die j) ∧ u.me.inflight = s.me.inflight ∧ u.mem = s.mem ∧
          ((∃ g, meets v.lo v.hi g ∧ ¬ meets lo hi g) → queues u v.region false fun g => meets v.lo v.hi g ∧ ¬ meets lo hi g) ∧
          ((∀ g, meets v.lo v.hi g → meets lo hi g) → (u.die die).deltas = d.deltas))) ∧
      (v.lo ≤ lo → lo ≤ hi → hi ≤ v.hi → ¬ free →
        Issues (.vwdup c a b y) s ((settled y s).pushS c (BitVec.ofInt 64 (-2)) 2 .y)) ∧
      (d.deltas.length < 1024 → ∃ u : State, Issues (.vwdrop a y) s u ∧ u.view die i = { v with live := false } ∧
        (∀ j, j ≠ i → u.view die j = s.view die j) ∧ queues u v.region false (meets v.lo v.hi) ∧ u.mem = s.mem) ∧
      (1024 ≤ d.deltas.length → Blocks (.vwdrop a y) s id) ∧
      Issues (.vwq c a 0 y) s ((settled y s).pushS c (BitVec.ofNat 64 (v.hi * 2 ^ 32 + v.lo)) 2 .y) ∧
      Issues (.vwq c a 1 y) s ((settled y s).pushS c (BitVec.ofNat 64 (0xFFF * 2 ^ 52 + die * 2 ^ 48 + r.base)) 2 .y) ∧
      Issues (.vwq c a 2 y) s ((settled y s).pushS c (BitVec.ofNat 64 r.len) 2 .y))

/-! ## Exposure windows -/

/-- R248 and R249: WCREATE judges the descriptor by its codes in their order, and else takes the entry with the next
generation and gives its key after 2 cycles; WFREE does nothing to a free entry, and waits for a request being performed. -/
def Obligations.WindowTable : Prop :=
  ∀ (s : State) (w c a : Nat) (y : Sync), Admits y s →
    let die := dieOf s.cur
    let vd := s.vdOf s.cur
    let A := s.me.s a
    let rng := [(0xFFF * 2 ^ 52 + A.toNat % 2 ^ 52, 32)]
    let x := descOf (memBytes s.mem (0xFFF * 2 ^ 52 + A.toNat % 2 ^ 52) 32)
    let W := s.win die w
    let res := fun (v : Word) => (⟨.sreg c, v.setWidth 2048, BitVec.allOnes 256, 0, 2, .y, false⟩ : Result)
    let code := fun (n : Nat) =>
      (n = 1 ∧ W.live = true) ∨
      (n = 2 ∧ (x.zero ≠ 0 ∨ 8 ≤ x.rights ∨ 64 ≤ x.group ∨ 4 ≤ x.mode ∨ x.len = 0 ∨ 2 ^ 32 < x.len)) ∨
      (n = 3 ∧ s.checkRange s.cur .copy x.base x.len ≠ none) ∨ (n = 4 ∧ s.place die ∉ s.groupPlaces die x.group)
    let mine := (s.bound die vd 0x30).1 ≤ w ∧ w < (s.bound die vd 0x30).2
    let room := (s.die die).deltas.length < 1024
    (mine → PadAccess s A 32 32 → Calm s rng → Clean s rng →
      (∀ n, code n → (∀ m, m < n → ¬ code m) → (room ∨ s.descHull s.cur x = false) →
        Issues (.wcreate w c a y) s
          ((signalled y (served (taken y s) rng)).push s.cur (res (BitVec.ofInt 64 (-(n : Int)))))) ∧
      ((∀ n, ¬ code n) → s.descView s.cur x = none → (room ∨ s.descHull s.cur x = false) → ∃ u : State,
        Issues (.wcreate w c a y) s u ∧
        u.win die w = { Win.reset with
          live := true
          gen := if (W.gen + 1) % 65536 = 0 then 1 else (W.gen + 1) % 65536
          vd := vd
          base := x.base
          len := x.len
          view := s.descHull s.cur x
          group := x.group
          mode := x.mode
          rights := x.rights } ∧
        u.me.inflight = s.me.inflight ++ [res (BitVec.ofNat 64 ((u.win die w).gen * 65536 + 256 + w))] ∧
        (u.dreg die 4 (0x28 + 8 * w)).toNat = 0 ∧ (∀ n, n ≠ w → u.win die n = s.win die n) ∧ u.mem = s.mem) ∧
      ((∀ n, ¬ code n) → ∀ r, s.descView s.cur x = some r → Traps (.wcreate w c a y) s ⟨r, 8, 0, 0⟩) ∧
      ((∀ n, ¬ code n) → s.descView s.cur x = none → ¬ room → s.descHull s.cur x = true → Blocks (.wcreate w c a y) s id)) ∧
    (mine → ∀ t, s.lsTrap .y A 32 32 = some t → Traps (.wcreate w c a y) s t) ∧
    (mine → W.live = false → Issues (.wfree w y) s (settled y s)) ∧
    (mine → W.live = true → s.winBusy die w = false → (room ∨ W.view = false) →
      Issues (.wfree w y) s ((settled y s).freeWin s.cur w) ∧
      ((∀ k, (s.ctx k).held = none) → ((settled y s).freeWin s.cur w).win die w = { Win.reset with gen := W.gen })) ∧
    (mine → W.live = true → s.winBusy die w = true → Blocks (.wfree w y) s fun u => u.modWin die w fun z => { z with closing := true }) ∧
    (¬ mine → ∀ i ∈ ([.wcreate w c a y, .wfree w y, .wfence w c y, .wfenceClose w c y, .wpost w c y, .wstart w c y, .wcompl w c y,
      .wwait w c y, .wlockSh w c y, .wlockEx w c y, .wunlock w c y] : List Instr), Traps i s ⟨.regRange, 8, 0, 0⟩)

/-- R247 and R258 to R263: the W instructions on an entry of their own mode and on any other. One that ends at once writes
its status after a cycle; status 1 and 4, and a fence of a window that is FINAL, change nothing else, WCUR among it (R247,
R259; log entry 60). WFENCE, WCOMPL and WUNLOCK otherwise hold their context. A fence or a WCOMPL tells its counts once the
commands accepted before it have left the port (log entries 54 and 108); a WCOMPL waits for one under way. A lock request is
known by its task and its window, and so is its answer (log entry 61); it is forgotten as its WLOCK ends (log entry 158). -/
def Obligations.WindowInstructions : Prop :=
  ∀ (s : State) (w c : Nat) (y : Sync), Admits y s →
    (s.bound (dieOf s.cur) (s.vdOf s.cur) 0x30).1 ≤ w → w < (s.bound (dieOf s.cur) (s.vdOf s.cur) 0x30).2 →
    let die := dieOf s.cur
    let x := s.win die w
    let C := (s.me.s c).toNat
    let res := fun (st : Nat) => (⟨.sreg c, (BitVec.ofNat 64 st).setWidth 2048, BitVec.allOnes 256, 0, 1, .y, false⟩ : Result)
    let done : Done := ⟨s.cur, s.me.task, none, if y.spt = true ∧ y.sinc ≠ 0 then some (y.ssem, y.sinc) else none⟩
    let still := fun (u : State) => u.mem = s.mem ∧ u.creg = s.creg ∧ ∀ k, k ≠ s.cur → u.ctx k = s.ctx k
    let ends := fun (u : State) (st : Nat) (wc : Option Nat) => still u ∧ u.cores = (settled y s).cores ∧ u.me = { s.me with
      wcur := wc
      wdown := none
      inflight := s.me.inflight ++ [res st] }
    let same := fun (u : State) => u.dies = s.dies ∧ u.wire = s.wire
    let holds := fun (u : State) (op : HeldOp) (wc : Option Nat) (p : Nat) => still u ∧ u.cores = (signalAtAccept y (taken y s)).cores ∧
      u.me = { s.me with
        wcur := wc
        held := some ⟨op, w, c, p, false, done⟩
        wdown := none }
    let tells := fun (u : State) (p : Nat) (m : Body) => s.isDown die p = false → (⟨s.place die, p, m⟩ : Msg) ∈ u.wire
    let fenced := x.live = true ∧ x.mode = 1
    let posted := x.live = true ∧ x.mode = 2
    let locked := x.live = true ∧ x.mode = 3
    let bad := if x.live = true then 4 else 1
    let ps := s.maskPlaces die x C
    let fits := C < 2 ^ (s.groupPlaces die x.group).length
    let exposed := s.maskPlaces die x x.exposed
    let wait := fun (u : State) => u.modMe fun z => { z with wdown := some (z.wdown.getD []) }
    let skips := fun (p : Nat) => s.skips p
    let queued := fun (q : RemCmd → Bool) => ((s.remotes die).filter fun z => z.names w && q z).map fun z => z.id
    let fences : List (Instr × Bool) := [(.wfence w c y, false), (.wfenceClose w c y, true)]
    let locks : List (Instr × Bool) := [(.wlockSh w c y, false), (.wlockEx w c y, true)]
    let nothing := fun (i : Instr) (st : Nat) => ∃ u : State, Issues i s u ∧ ends u st s.me.wcur ∧ same u
    let mine := fun (z : LockAsk) => z.task == s.me.task && z.win == w
    let gone := fun (u : State) => u.wire = s.wire ∧
      u.die die = { s.die die with lockAsks := (s.die die).lockAsks.filter fun z => !mine z }
    let forgets := fun (i : Instr) (st : Nat) => ∃ u : State, Issues i s u ∧ ends u st s.me.wcur ∧ gone u
    (¬ fenced → ∀ f ∈ fences, nothing f.1 bad) ∧
    (¬ posted → ∀ i ∈ ([.wpost w c y, .wstart w c y, .wcompl w c y, .wwait w c y] : List Instr), nothing i bad) ∧
    (¬ locked → (∀ f ∈ locks, forgets f.1 bad) ∧ nothing (.wunlock w c y) bad) ∧
    (fenced → x.fst = .final → ∀ f ∈ fences, nothing f.1 0) ∧
    (fenced → x.fst = .isOpen → x.n = 0 →
      (∃ u : State, Issues (.wfence w c y) s u ∧ ends u 0 (some w) ∧ u.wire = s.wire ∧ u.win die w = { x with
        n := 1
        fst := .isOpen
        sent := []
        recv := x.recvNext
        ann := x.annNext
        recvNext := []
        annNext := []
        stamped := []
        downs := []
        early := []
        told := false }) ∧
      ∃ u : State, Issues (.wfenceClose w c y) s u ∧ ends u 0 (some w) ∧ u.wire = s.wire ∧ (u.win die w).fst = .final ∧
        (u.win die w).n = 0) ∧
    (fenced → x.fst = .isOpen → x.n ≠ 0 → ∀ f ∈ fences,
      let early := queued fun _ => true
      ∃ u : State, Issues f.1 s u ∧ holds u .fence (some w) 0 ∧ u.win die w = { x with
        sent := if early = [] then [] else x.sent
        fst := .closing f.2
        early := early
        told := decide (early = [])
        downs := (s.members die x).filter fun p => s.isDown die p && !x.fenced p } ∧
        (early = [] → ∀ p ∈ s.members die x, tells u p (.announce w x.n (tget 0 x.sent p))) ∧ (early ≠ [] → u.wire = s.wire)) ∧
    (∀ b, fenced → x.fst = .closing b → ∀ f ∈ fences, Blocks f.1 s id) ∧
    (posted → ¬ fits → nothing (.wpost w c y) 4 ∧ nothing (.wstart w c y) 4) ∧
    (posted → fits → x.exposing = false → ∃ u : State, Issues (.wpost w c y) s u ∧ ends u 0 (some w) ∧ u.win die w = { x with
      xn := x.xn + 1
      exposing := true
      exposed := C
      recv := []
      compl := [] } ∧ ∀ p ∈ ps, tells u p (.post w (x.xn + 1))) ∧
    (posted → fits → x.exposing = true → Blocks (.wpost w c y) s id) ∧
    (let there := fun (p : Nat) => thas x.posts p = true ∧ thas x.ax p = false
     (posted → fits → (∀ p ∈ ps, there p ∨ skips p = true) → ∃ (u : State) (st : Nat), Issues (.wstart w c y) s u ∧
       ends u st (some w) ∧ ((∀ p ∈ ps, there p) → st = 0) ∧ ((∃ p ∈ ps, ¬ there p) → st = 5) ∧
       ∀ p ∈ ps, there p → let z := u.win die w
         tget 0 z.ax p = tget 0 x.posts p ∧ tget 0 z.sent p = 0 ∧ ((x.posts.map Prod.fst).Nodup → thas z.posts p = false)) ∧
     (posted → fits → (∃ p ∈ ps, ¬ there p ∧ skips p = false) → Blocks (.wstart w c y) s wait)) ∧
    (posted → x.ends = [] → x.ax = [] → ∃ u : State, Issues (.wcompl w c y) s u ∧ ends u 0 (some w) ∧ same u) ∧
    (posted → x.ends = [] → x.ax ≠ [] →
      let early := queued fun z => (x.ax.map Prod.fst).contains z.place
      ∃ u : State, Issues (.wcompl w c y) s u ∧ holds u .compl (some w) 0 ∧
        (u.win die w).ends = x.ax.map Prod.fst ∧ (u.win die w).early = early ∧ (u.win die w).ax = x.ax ∧
        (early = [] → ∀ e ∈ x.ax, tells u e.1 (.complete w (tget 0 x.sent e.1))) ∧ (early ≠ [] → u.wire = s.wire)) ∧
    (posted → x.ends ≠ [] → Blocks (.wcompl w c y) s id) ∧
    (let whole := fun (p : Nat) => tfind x.compl p = some (tget 0 x.recv p)
     (posted → (x.exposing = false ∨ ∀ p ∈ exposed, whole p ∨ skips p = true) → ∃ (u : State) (st : Nat),
       Issues (.wwait w c y) s u ∧ ends u st (some w) ∧ u.win die w = { x with exposing := false } ∧
       (x.exposing = false ∨ (∀ p ∈ exposed, whole p) → st = 0) ∧ (x.exposing = true → (∃ p ∈ exposed, ¬ whole p) → st = 5)) ∧
     (posted → x.exposing = true → (∃ p ∈ exposed, ¬ whole p ∧ skips p = false) → Blocks (.wwait w c y) s wait)) ∧
    (locked → s.lockPlace w c = none → ∀ f ∈ locks, forgets f.1 4) ∧
    (∀ p, locked → s.lockPlace w c = some p → ∀ f ∈ locks,
      let asked := (s.die die).lockAsks.find? mine
      let waits := asked = none ∨ ∃ z, asked = some z ∧ z.answer = none
      (∀ z st, asked = some z → z.answer = some st → ∃ u : State, Issues f.1 s u ∧
        ends u st (if st = 1 ∨ st = 4 then s.me.wcur else some w) ∧ gone u) ∧
      (skips p = true → waits → ∃ u : State, Issues f.1 s u ∧ ends u 5 (some w) ∧ gone u) ∧
      (skips p = false → asked = none → Blocks f.1 s fun u =>
        ((wait u).modDie die fun d => { d with lockAsks := d.lockAsks ++ [⟨s.me.task, w, p, none⟩] }).send (s.place die) p
          (.lockReq w s.cur s.me.task f.2)) ∧
      (skips p = false → asked ≠ none → waits → Blocks f.1 s wait)) ∧
    (locked → s.lockPlace w c = none → nothing (.wunlock w c y) 4) ∧
    (∀ p, locked → s.lockPlace w c = some p →
      (s.isDown die p = false → ∃ u : State, Issues (.wunlock w c y) s u ∧ holds u .unlock s.me.wcur p ∧ same u) ∧
      (s.isDown die p = true → nothing (.wunlock w c y) 5))

/-- R258 to R262 and R265: the events of the windows: announcements, POSTs and COMPLETEs that arrive, the end of a fence, and
the requests, grants, releases and acknowledgements of locks (log entries 61 and 158): a request gets status 5 from a virtual
device that is frozen, down or being reset (R361, R332, R358) and 1 from an entry that is closing (R249); and of hull memory:
a coverage delta taken from the queue raises or lowers the counts of its granules (R234, R235) and frees its region record
once nothing is covered or queued (log entry 42). -/
def Obligations.WindowEvents : Prop :=
  ∀ (s : State) (src die w : Nat),
    let S := arrived s
    let x := s.win die w
    let put := fun (z : Win) => S.setWin die w z
    let q := (s.die die).lockQ
    let tell := fun (b : Body) => S.port die src b
    (∀ e n, Arrives s src die (.announce w e n) → x.live = true → x.mode = 1 →
      (e = x.n → Steps .fenceAnnounce s (put { x with ann := tput x.ann src n })) ∧
      (e = x.n + 1 → Steps .fenceAnnounce s (put { x with annNext := tput x.annNext src n }))) ∧
    (∀ n, Arrives s src die (.post w n) → x.live = true → x.mode = 2 →
      Steps .postArrival s (put { x with posts := tput x.posts src n })) ∧
    (∀ n, Arrives s src die (.complete w n) → x.live = true → x.mode = 2 → x.exposing = true →
      Steps .completeArrival s (put { x with compl := tput x.compl src n })) ∧
    (s.sel = [die, w] → x.live = true → x.mode = 1 → x.told = true → s.stampedOut die x = false →
      (∀ p ∈ s.members die x, p ∈ x.downs ∨ tfind x.ann p = some (tget 0 x.recv p)) →
      let st := if x.downs = [] then 0 else 5
      (x.fst = .closing false → Steps .wfenceComplete s ((s.setWin die w { x with
        n := x.n + 1
        fst := .isOpen
        sent := []
        recv := x.recvNext
        ann := x.annNext
        recvNext := []
        annNext := []
        stamped := []
        downs := []
        early := []
        told := false }).wDoneAll die w .fence st)) ∧
      (x.fst = .closing true → Steps .wfenceComplete s ((s.setWin die w { x with
        fst := .final
        recvNext := []
        annNext := []
        stamped := []
        downs := []
        early := []
        told := false }).wDoneAll die w .fence st))) ∧
    (∀ k t ex, Arrives s src die (.lockReq w k t ex) →
      let me : LockWait := ⟨w, src, k, t, ex⟩
      let ahead := ∃ z ∈ q, z.win = w
      let shut := s.shutVd die x.vd = true
      let fits := (x.holders = [] ∨ (ex = false ∧ x.excl = false)) ∧ x.holders.length < 64
      (x.live = true → shut → Steps .lockRequestArrival s (tell (.lockGrant w k t 5))) ∧
      (x.live = false ∨ (x.closing = true ∧ ¬ shut) → Steps .lockRequestArrival s (tell (.lockGrant w k t 1))) ∧
      (x.live = true → ¬ shut → x.closing = false → (x.mode ≠ 3 ∨ src ∉ s.members die x) →
        Steps .lockRequestArrival s (tell (.lockGrant w k t 4))) ∧
      (x.live = true → ¬ shut → x.closing = false → x.mode = 3 → src ∈ s.members die x →
        (fits → ¬ ahead → Steps .lockRequestArrival s ((put { x with
          holders := x.holders ++ [(src, t)]
          excl := ex }).port die src (.lockGrant w k t 0))) ∧
        (¬ (fits ∧ ¬ ahead) → q.length < 64 →
          Steps .lockRequestArrival s (S.modDie die fun d => { d with lockQ := d.lockQ ++ [me] })) ∧
        (¬ (fits ∧ ¬ ahead) → 64 ≤ q.length → Steps .lockRequestArrival s (tell (.lockBusy w k t ex s.clock))))) ∧
    (∀ k t, Arrives s src die (.lockRel w k t) →
      ((src, t) ∈ x.holders → Steps .lockReleaseArrival s
        (((put { x with holders := x.holders.erase (src, t) }).grantWaiters die w 64).port die src (.relAck w k t 0))) ∧
      ((src, t) ∉ x.holders → Steps .lockReleaseArrival s (tell (.relAck w k t 4)))) ∧
    (∀ k t st, Arrives s src die (.lockGrant w k t st) →
      Steps .lockGrantArrival s (S.modDie die fun d => { d with lockAsks := d.lockAsks.map fun z =>
        if z.task = t ∧ z.win = w ∧ z.place = src ∧ z.answer = none then ({ z with answer := some st } : LockAsk) else z })) ∧
    (∀ k t ex n, Arrives s src die (.lockBusy w k t ex n) →
      let waits := ∃ z ∈ (s.die die).lockAsks, z.task = t ∧ z.win = w ∧ z.place = src ∧ z.answer = none
      (s.clock < n + 1024 → Steps .lockRetry s s) ∧
      (n + 1024 ≤ s.clock → waits → Steps .lockRetry s (tell (.lockReq w k t ex))) ∧
      (n + 1024 ≤ s.clock → ¬ waits → Steps .lockRetry s S)) ∧
    (∀ k t st h, Arrives s src die (.relAck w k t st) → (s.ctx k).held = some h → h.op = .unlock → h.win = w → (s.ctx k).task = t →
      Steps .releaseAcknowledgement s ((S.modCtx k fun c =>
        { c.setS h.c (BitVec.ofNat 64 st) with held := none }).sigDone h.done)) ∧
    (∀ z l, s.sel = [die] → (s.die die).deltas = z :: l → Steps .chordDeltaApply s
      ((z.granules.foldl (fun t g => t.coverBy die z.region z.up g) (s.modDie die fun d => { d with deltas := l })).endRegion die
        z.region)) ∧
    (s.sel = [die] → (s.die die).deltas = [] → Steps .chordDeltaApply s s)

/-! ## Remote commands and the port -/

/-- R250 to R253, R268, R271 and R288: the remote commands. With room in the remote queue and an OUT that can rise, one that
passes its checks enters at the tail with its operands, its key, or WCUR when it names no key register, and the ORD bit of
its flow; the comparand of a cas is what its slot holds then, and its read owes its banks when they are busy (log entry 144);
a count of 0 sends nothing and is complete at once (R253). The checks of R158 and R251 come in their order, each on every
operand before the next, with TRAPADDR at the first operand that fails (log entries 129 and 147); a host's address is checked
like any other (log entry 128). FLOWCFG waits for the remote commands on the flows of its mask, among which CSENDs do not
count (the model's reading: log entry 67), and then writes their ordering bits. -/
def Obligations.RemoteCommands : Prop :=
  ∀ (s : State) (a b c e tag : Nat) (rop : RedOp) (xop : AccOp) (mop : AmoOp) (t : Ty) (x : XArgs), Admits x.y s →
    let core := coreOf s.cur
    let A := s.me.s a
    let B := s.me.s b
    let C := s.me.s c
    let K := (s.me.s e).toNat
    let place := fun (w : Word) =>
      (if w.toNat / 2 ^ 52 = 0xFFF then s.epid else w.toNat / 2 ^ 52) * 16 + w.toNat / 2 ^ 48 % 16
    let keyed := e ≠ 0
    let kind := fun w : Word => w.toNat / 2 ^ 44 % 16
    let sig := if x.y.spt = true ∧ x.y.sinc ≠ 0 then some (x.y.ssem, x.y.sinc) else none
    let cmd := fun (i : Instr) (p : Nat) (key rel : Bool) (tg : Nat) =>
      ({ id := s.bids, op := i, vd := s.vdOf s.cur, place := p, a := A, b := B, c := C
         gv := key && decide keyed && decide (K / 2 ^ 8 % 2 = 1), gen := if key = true ∧ keyed then K / 2 ^ 16 % 2 ^ 16 else 0
         win := if key = true ∧ keyed then K % 2 ^ 8 else s.me.wcur.getD 0, flow := x.flow, tc := x.tc, tag := tg, rel := rel
         ord := s.me.ord.getLsbD x.flow, buf := [], owed := [], chan := 0, seq := 0, hold := none, done := ⟨s.cur, s.me.task, x.hnd, sig⟩ } : RemCmd)
    let room := (s.core core).remote.length < 32 ∧ ∀ h, x.hnd = some h → (s.me.h h).out ≠ 2 ^ 32 - 1
    let counted := fun (d : Nat → Dest) => match x.hnd with
      | none => []
      | some h => [(⟨d h, 0, BitVec.allOnes 256, 0, 1, .c, false⟩ : Result)]
    let plain : List (Instr × Nat × Bool × Bool × Nat) := [(.xget a b c e x, place B, true, false, 0),
      (.xput a b c e tag x, place A, true, false, tag), (.xputRel a b c e tag x, place A, true, true, tag),
      (.xacc xop t a b c e tag x, place A, true, false, tag)]
    let amo : Instr := .xamo mop t a b c e x
    let red : Instr := .xred rop t a b c tag x
    let regs := fun (i : Instr) => if i = red then 0 else e
    let passes := fun (i : Instr) => remTrap (remShape i) a b c (regs i) s = none
    let enters := fun (i : Instr) (z : RemCmd) => ∃ u : State, Issues i s u ∧
      (u.core core).remote = (s.core core).remote ++ [z] ∧ u.bids = s.bids + 1 ∧ u.dies = s.dies ∧ u.wire = s.wire ∧
      u.mem = s.mem ∧ u.me.inflight = s.me.inflight ++ counted .out ∧ ∀ k, k ≠ s.cur → u.ctx k = s.ctx k
    let all := red :: amo :: plain.map Prod.fst
    let mask := A.toNat % 2 ^ 16
    let mine := fun (d : Done) => d.task = s.me.task
    let flows := fun (i : Instr) => ∀ p q, remShape i ≠ .red p q
    let open_ := (∃ z ∈ s.remotes (dieOf s.cur), mine z.done ∧ mask.testBit z.flow = true ∧ flows z.op) ∨
      ∃ o ∈ (s.die (dieOf s.cur)).outst, mine o.done ∧ mask.testBit o.flow = true ∧ remShape o.op ≠ .slot ∧ flows o.op
    (room → C ≠ 0 → ∀ f ∈ plain, passes f.1 → enters f.1 (cmd f.1 f.2.1 f.2.2.1 f.2.2.2.1 f.2.2.2.2)) ∧
    (room → passes red → C ≠ 0 ∧ enters red (cmd red 0xFFFF false false tag)) ∧
    (room → t.bytes ≠ 0 → passes amo → (mop ≠ .cas → enters amo (cmd amo (place A) true false 0)) ∧
      (mop = .cas → ∃ (u : State) (buf : List Byte) (owed : List Nat), Issues amo s u ∧
        (u.core core).remote = (s.core core).remote ++ [{ cmd amo (place A) true false 0 with
          buf := buf
          owed := owed }] ∧ u.wire = s.wire ∧ u.me.inflight = s.me.inflight ++ counted .out ∧
        (kind B = 0x9 ∨ kind B = 0xA ∨ kind B = 0x8 → t.bytes ≤ 64 - B.toNat % 64 → t.bytes ≤ 8 →
          buf = memBytes s.mem (0xFFF * 2 ^ 52 + dieOf s.cur * 2 ^ 48 + B.toNat % 2 ^ 48) t.bytes ∧
          owed = (if s.bankBusy (addrBanks B t.bytes) = true then addrBanks B t.bytes else []) ∧ u.mem = s.mem))) ∧
    (room → C = 0 → ∀ f ∈ plain, passes f.1 → ∃ u : State, Issues f.1 s u ∧ u.cores = (settled x.y s).cores ∧ u.dies = s.dies ∧
      u.wire = s.wire ∧ u.mem = s.mem ∧ u.me = { s.me with inflight := s.me.inflight ++ counted .whole }) ∧
    (¬ room → ∀ i ∈ all, Blocks i s id) ∧
    (room → ∀ i ∈ all, ∀ r, remTrap (remShape i) a b c (regs i) s = some r → Traps i s r) ∧
    (∀ w : Word, kind w ≠ 0xF →
      (s.checkAddr s.cur .remote w = none → kind w ∈ [0x0, 0x8, 0x9, 0xA]) ∧
      (s.checkAddr s.cur .copy w = none → kind w ∈ [0x0, 0x8, 0x9, 0xA] ∧ s.ownDie (dieOf s.cur) w = true)) ∧
    (let n := t.bytes
     let N := C.toNat
     let size := fun (p : Word) => if kind p = 0x8 then 2 ^ 25 else if kind p = 0x9 then 2 ^ 22 else if kind p = 0xA then 2 ^ 20 else 2 ^ 44
     -- the class of an address, its range and alignment, and whether the command names a key
     let forms : List (Instr × List (AddrClass × Word × Nat × Nat)) := [(.xget a b c e x, [(.copy, A, N, 1), (.remote, B, N, 1)]),
       (.xput a b c e tag x, [(.remote, A, N, 1), (.copy, B, N, 1)]), (.xputRel a b c e tag x, [(.remote, A, N, 1), (.copy, B, N, 1)]),
       (.xacc xop t a b c e tag x, [(.remote, A, N, n), (.copy, B, N, n)]), (amo, [(.remote, A, n, n), (.copy, B, n, n)]),
       (red, [(.red, A, 0, 64), (.copy, B, N, 64)])]
     let here := dieOf s.cur
     let bounds := s.bound here (s.vdOf s.cur) 0x18
     let ok := fun p : AddrClass × Word × Nat × Nat => s.checkAddr s.cur p.1 p.2.1 = none
     let out := fun p : AddrClass × Word × Nat × Nat => s.ownDie here p.2.1 && decide (kind p.2.1 = 0x8 ∧ 0 < p.2.2.1 ∧
       ¬ (bounds.1 * 65536 ≤ p.2.1.toNat % 2 ^ 25 ∧ p.2.1.toNat % 2 ^ 25 + p.2.2.1 ≤ bounds.2 * 65536))
     let long := fun p : AddrClass × Word × Nat × Nat => decide (size p.2.1 < p.2.1.toNat % 2 ^ 44 % size p.2.1 + p.2.2.1 ∨ 2 ^ 32 ≤ p.2.2.1)
     let odd := fun p : AddrClass × Word × Nat × Nat => decide (¬ p.2.2.2 ∣ p.2.1.toNat)
     ∀ f ∈ forms, 0 < n → (∀ p ∈ f.2, kind p.2.1 ≠ 0xF) →
       let i := f.1
       let takes := fun (cause : Cause) (w : Word) => remTrap (remShape i) a b c (regs i) s = some ⟨cause, 7, 0, w⟩
       let l := f.2
       let keyBad := i ≠ red ∧ e ≠ 0 ∧ (K / 2 ^ 32 ≠ 0 ∨ K / 2 ^ 9 % 2 ^ 7 ≠ 0)
       let stranger := i = red ∧ (s.dreg here 5 (0x40 + 8 * (A.toNat % 2 ^ 44 / 2 ^ 32))).getLsbD 0 = false
       let countBad := (i = .xacc xop t a b c e tag x ∧ ¬ n ∣ N) ∨ (i = red ∧ (N = 0 ∨ ¬ 64 ∣ N ∨ 65536 < N))
       let hull := let w := if i = .xget a b c e x then A else B
         kind w = 0 ∧ s.meetsAperture here (s.vdOf s.cur) (w.toNat % 2 ^ 44) (if i = amo then n else N) = true
       (∀ p ∈ l, s.checkAddr s.cur p.1 p.2.1 = some .addrClass → (∀ q ∈ l, q ≠ p → ok q) → takes .addrClass p.2.1) ∧
       ((∀ p ∈ l, ok p) →
         (∀ p, l.find? out = some p → takes .addrClass p.2.1) ∧
         (l.find? out = none →
           (stranger → takes .addrClass A) ∧
           (¬ stranger →
             (∀ p, l.find? long = some p → takes .addrClass p.2.1) ∧
             (l.find? long = none →
               (keyBad → takes .addrClass (s.me.s e)) ∧
               (¬ keyBad →
                 (countBad → takes .align A) ∧
                 (¬ countBad →
                   (∀ p, l.find? odd = some p → takes .align p.2.1) ∧
                   (l.find? odd = none → (hull → takes .viewRange 0) ∧
                     (¬ hull → remTrap (remShape i) a b c (regs i) s = none))))))))) ∧
    (¬ open_ → Issues (.flowcfg a b x.y) s ((settled x.y s).modMe fun m =>
      { m with ord := (m.ord &&& ~~~ BitVec.ofNat 16 A.toNat) ||| (BitVec.ofNat 16 B.toNat &&& BitVec.ofNat 16 A.toNat) })) ∧
    (open_ → Blocks (.flowcfg a b x.y) s id)

/-- R257: the checks of a request at its target in their order, each with the reason that it gives. R254 to R257, R268, R269,
R272, R289, R331, R332, R358, R359 and R361 at the port: a request that has begun is performed piece by piece. The last piece
of a put into a pad writes exactly its bytes and is acknowledged; one out of its flow's order waits in the reorder buffer of
512 and past that is refused with RETRY (R269), where the fabric is not in lane order (R272), and one behind a begun request
of its flow waits; one that fails a check, one whose walks read an uncorrectable chunk (R331), and one to a virtual device
that is frozen (R361), down (R332) or being reset (R358), ends with its reason. A put to the launch window that is no launch
slot, or whose slot lies outside MATBND, ends with WIN_RANGE (R359; the model's reading: log entry 91). -/
def Obligations.RequestEvents : Prop :=
  (∀ (s : State) (die : Nat) (r : Req),
    let w := s.win die r.win
    let right := match r.kind with | .get => 0 | .acc _ _ => 2 | .amo _ _ => 2 | _ => 1
    let stale := r.gv = true ∧ (w.live = false ∨ w.gen ≠ r.gen)
    let gone := w.live = false ∨ w.closing = true
    let may := r.src ∈ s.groupPlaces die w.group ∧ w.rights.testBit right = true ∧ (w.mode = 1 → r.skind = 1) ∧
      (w.mode = 2 → r.skind = 2) ∧ (w.mode = 3 → (r.src, r.task) ∈ w.holders)
    let epoch := (w.fst = .isOpen ∧ (r.stamp = w.n ∨ (r.stamp = w.n + 1 ∧ w.n = 0))) ∨
      (w.fst = .closing false ∧ (r.stamp = w.n ∨ r.stamp = w.n + 1)) ∨ (w.fst = .closing true ∧ r.stamp = w.n)
    let stamp := (w.mode = 1 → epoch) ∧
      (w.mode = 2 → w.exposing = true ∧ r.stamp = w.xn ∧ r.src ∈ s.maskPlaces die w w.exposed)
    let range := s.ownDie die r.addr = true ∧ kindOf r.addr = kindOf w.base ∧ lowOf w.base ≤ lowOf r.addr ∧
      lowOf r.addr + r.count ≤ lowOf w.base + w.len
    (stale → s.checkReq die r = some (3, false)) ∧
    (¬ stale → gone → s.checkReq die r = some (1, false)) ∧
    (¬ stale → ¬ gone → ¬ may → s.checkReq die r = some (4, false)) ∧
    (¬ stale → ¬ gone → may → ¬ stamp → s.checkReq die r = some (1, false)) ∧
    (¬ stale → ¬ gone → may → stamp → ¬ range → s.checkReq die r = some (2, true)) ∧
    (¬ stale → ¬ gone → may → stamp → range → s.checkReq die r = none)) ∧
  (∀ (s : State) (src die n : Nat) (r : Req),
    Arrives s src die (.req r) → s.arg 0 = n →
    let w := s.win die r.win
    let key := 0xFFF * 2 ^ 52 + r.addr.toNat % 2 ^ 52
    let kind := r.addr.toNat / 2 ^ 44 % 16
    let ready := (w.live = true → s.shutVd die w.vd = false) ∧ (s.die die).halted = false
    (r.kind = .put → r.prog = some 0 → s.arg 1 = 1 → r.pins = [] → w.mode = 0 → (s.die die).deadVds.contains r.vd = false →
      (s.lane die = false ∨ n = 0) → 0 < r.count → r.count ≤ 64 - r.addr.toNat % 64 → r.data.length = r.count →
      (kind = 0x8 ∨ kind = 0x9 ∨ kind = 0xA) → r.addr.toNat / 2 ^ 48 % 16 = die →
      s.bankBusy (addrBanks r.addr r.count) = false → s.isDown die r.src = false →
      (s.die die).matches_ = [] → ∃ u : State, Steps .remoteRequest s u ∧
        (∀ p, memGet u.mem p = if key ≤ p ∧ p < key + r.count then r.data.getD (p - key) 0 else memGet s.mem p) ∧
        (⟨s.place die, r.src, .ack r.id 0 r.count r.tc⟩ : Msg) ∈ u.wire ∧ u.ctxs = s.ctxs ∧ u.cores = s.cores) ∧
    (r.kind ≠ .result → r.prog.isSome = true → s.arg 1 = 1 → Steps .remoteRequest s (s.reqPerform die n r)) ∧
    (r.kind ≠ .result → r.prog = none → s.arg 1 = 0 → ready → r.ordered = true → s.lane die = false →
      ((s.die die).flowIn r).next < r.seq →
      ((s.die die).rob.length < 512 →
        Steps .remoteRequest s ((arrived s).modDie die fun d => { d with rob := d.rob ++ [r] })) ∧
      (512 ≤ (s.die die).rob.length → Steps .remoteRequest s ((arrived s).port die r.src (.retry r s.clock)))) ∧
    (r.kind ≠ .result → r.prog = none → s.arg 1 = 0 → (s.die die).halted = false →
      ((s.lane die = true ∧ n = 0) ∨ (s.lane die = false ∧ s.flowBegun die r = false ∧
        (r.ordered = true → r.seq ≤ ((s.die die).flowIn r).next))) →
      (w.live = true → s.shutVd die w.vd = true → Steps .remoteRequest s (s.reqEnd die n r 5 false)) ∧
      (ready → ∀ code cnt, s.checkReq die r = some (code, cnt) → Steps .remoteRequest s (s.reqEnd die n r code cnt)) ∧
      (ready → s.checkReq die r = none → ∀ c, s.reqBad die w.vd r = some c →
        Steps .remoteRequest s ((s.portCheck die c).reqEnd die n r 7 true)) ∧
      (ready → s.checkReq die r = none → kindOf r.addr ≠ 0 → s.isLaunch die r = false →
        Steps .remoteRequest s ((s.pin die (s.reqPins die r)).setReq n { r with
          prog := some 0
          vd := w.vd
          pins := s.reqPins die r
          data := if r.kind = .get then [] else r.data }))) ∧
    (r.kind = .result → r.prog.isSome = true → s.arg 1 = 1 → Steps .reduceResultArrival s (s.reqPerform die n r)) ∧
    (r.kind = .result → r.prog = none → s.arg 1 = 0 → (s.die die).halted = false →
      let win := (s.dreg die 5 (0x40 + 8 * r.win)).toNat / 256 % 256
      let r1 : Req := { r with
        flow := r.win
        seq := r.addr.toNat
        win := win
        addr := (s.win die win).base + r.addr }
      Steps .reduceResultArrival s ((s.setReq n r1).reqStart die n r1)) ∧
    (s.launchDue die n r = true → ∀ slot, s.launchSlot die r = some slot → Steps .launch s (s.launchSlotRun die n slot r)) ∧
    (s.launchDue die n r = true → s.launchSlot die r = none → Steps .launch s (s.reqEnd die n r 2 true)))

/-- R255, R265, R267, R269, R273, R274, R289, R291 and R356 at the port of the origin: sending, acknowledgements, data that
lands, retries, the window of a cap, places that go down and come up, and reductions that end without a result. That a place
that goes down loses what is on its way to it (log entry 56), that the bytes of a cap are those of the data carried (log
entry 57), what the switches keep of an abandoned key (log entry 69) and that a request to be sent again waits as any other
does (log entry 125) are the model's readings. A request carries its stamp (R256); a port that is dead refuses with
TARGET_DOWN (R332), and a place comes up again only when its reset is done (R358). The cap is 1000 bytes per GB/s and window,
and a larger request may go first in one (log entry 58). A class is served while its credit lasts, one of weight 0 only when
no other waits; what would pass its device's cap waits for the next window. -/
def Obligations.OriginEvents : Prop :=
  ∀ (s : State) (src die p : Nat),
    let S := arrived s
    let d := s.die die
    (∀ x, (∀ o t, remShape x.op ≠ .red o t) → s.isDown die x.place = false → x.vd ∉ d.deadVds →
      ((s.win die x.win).live = false ∨ (s.win die x.win).mode = 0 ∨ (s.win die x.win).mode = 3) →
      ∃ q : Req, (s.sendRem die x).wire = s.wire ++ [⟨s.place die, x.place, .req q⟩] ∧ q.id = x.id ∧ q.win = x.win ∧
        q.gv = x.gv ∧ q.gen = x.gen ∧ q.flow = x.flow ∧ q.tc = s.classOf die x ∧ q.skind = 0 ∧ q.tag = x.tag ∧ q.prog = none ∧
        q.addr = (if remShape x.op = .get then x.b else x.a) ∧ (s.sendRem die x).mem = s.mem ∧
        ∃ o : Outst, ((s.sendRem die x).die die).outst = d.outst ++ [o] ∧ o.id = x.id ∧ o.place = x.place ∧ o.done = x.done) ∧
    (∀ x, (x.vd ∈ d.deadVds ∨ ((∀ o t, remShape x.op ≠ .red o t) ∧ s.isDown die x.place = true)) →
      s.sendRem die x = (s.remFail x 5).freeFlow die x.done.ctx x.flow x.place) ∧
    (s.sel = [die, 0, 0] → s.waiting die = [] → Steps .portArbitration s s) ∧
    (∀ w, s.sel = [die, 0, 0] → s.waiting die = [w] → s.weight die (s.classOfWaiter die w) = 0 → s.classOfWaiter die w < 4 →
      let vd := s.vdOfWaiter die w
      let t := { s with free := s.free + 1 }.modDie die fun z => { z with used := tput z.used vd (tget 0 z.used vd + w.bytes) }
      Steps .portArbitration s (match w with
        | .head c x => (t.modCore (64 * die + c) fun y => { y with remote := y.remote.drop 1 }).sendRem die x
        | .put i x => (t.modDie die fun z => { z with outq := z.outq.eraseIdx i }).sendRem die x
        | .again i q r =>
          let v := t.modDie die fun z => { z with resend := z.resend.eraseIdx i }
          match d.request r.id with
          | some o => if o.vd ∈ d.deadVds then v.remEnd die o 5 else v.send (s.place die) q (.req r)
          | none => v.send (s.place die) q (.req r))) ∧
    (s.sel = [die, 0, 0] → Steps .portArbitration s (s.round die)) ∧
    (let waits := fun (t : State) (cl : Nat) => ∃ w ∈ t.waiting die, t.classOfWaiter die w = cl
     let W := fun (t : State) (cl : Nat) => (t.dreg die 5 0x08).toNat / 256 ^ cl % 256
     let credit := fun (t : State) (cl : Nat) => tget 0 (t.die die).credit cl
     let sends := fun (t : State) (w : Waiter) (c : Tbl Nat) => ({ t with free := t.free + 1 }.modDie die fun z => { z with
       used := tput z.used (t.vdOfWaiter die w) (tget 0 z.used (t.vdOfWaiter die w) + w.bytes)
       credit := c }).leaveWaiter die w
     ((∃ cl, cl < 4 ∧ W s cl ≠ 0 ∧ waits s cl) →
       s.round die = (((s.roundClass die 0).roundClass die 1).roundClass die 2).roundClass die 3) ∧
     ((∀ cl, cl < 4 → W s cl ≠ 0 → ¬ waits s cl) → (∃ cl, cl < 4 ∧ waits s cl) → ∃ (cl : Nat) (w : Waiter), cl < 4 ∧
       w ∈ s.waiting die ∧ s.classOfWaiter die w = cl ∧ (∀ j, j < cl → ¬ waits s j) ∧ s.round die = sends s w (s.die die).credit) ∧
     (∀ cl, (W s cl = 0 ∨ ¬ waits s cl → s.roundClass die cl = s) ∧ (W s cl ≠ 0 → waits s cl → s.roundClass die cl =
       (s.modDie die fun z => { z with credit := tput z.credit cl (credit s cl + 256 * W s cl) }).serveClass die cl
         (s.portLoad die + 1))) ∧
     ∀ cl n, (¬ waits s cl → s.serveClass die cl (n + 1) = s.modDie die fun z => { z with credit := tput z.credit cl 0 }) ∧
       (waits s cl → ∃ w ∈ s.waiting die, s.classOfWaiter die w = cl ∧
         (credit s cl < w.bytes → s.serveClass die cl (n + 1) = s) ∧
         (w.bytes ≤ credit s cl → s.serveClass die cl (n + 1) =
           (sends s w (tput (s.die die).credit cl (credit s cl - w.bytes))).serveClass die cl n))) ∧
    (∀ w, (s.reg die (s.vdOfWaiter die w) 5 0).toNat ≠ 0 → tget 0 d.used (s.vdOfWaiter die w) ≠ 0 →
      1000 * (s.reg die (s.vdOfWaiter die w) 5 0).toNat < tget 0 d.used (s.vdOfWaiter die w) + w.bytes →
      w ∉ s.waiting die) ∧
    (p < 64 → s.sel = [die, p, 1] → Steps .portArbitration s (s.readRem (64 * die + p))) ∧
    (s.sel = [die] → Steps .vdcapWindow s (s.modDie die fun z => { z with used := [] })) ∧
    (∀ id err n tc, Arrives s src die (.ack id err n tc) →
      (∀ o, d.outst.find? (fun z => z.id == id) = some o → Steps .remoteAck s (S.remEnd die o err)) ∧
      (d.outst.find? (fun z => z.id == id) = none → Steps .remoteAck s S)) ∧
    (∀ id l k o tc, Arrives s src die (.data id l tc) → s.arg 1 = k → ((s.landChunks die id l k).die die).request id = some o →
      (o.bytes ≤ o.landed → Steps .getDataLand s { s.landChunks die id l k with
        wire := (s.landChunks die id l k).wire.eraseIdx (s.arg 0) }) ∧
      (o.landed < o.bytes → Steps .getDataLand s (s.landChunks die id l k))) ∧
    (∀ r n, Arrives s src die (.retry r n) → (s.clock < n + 256 → Steps .flowRetry s s) ∧
      (n + 256 ≤ s.clock → (d.request r.id).isSome = true → s.isDown die src = false →
        Steps .flowRetry s (S.modDie die fun z => { z with resend := z.resend ++ [(src, r)] })) ∧
      (n + 256 ≤ s.clock → (d.request r.id = none ∨ s.isDown die src = true) → Steps .flowRetry s S)) ∧
    (s.sel = [die, p] →
      (let stays := p / 16 = s.epid ∧ ((s.die (p % 16)).halted = true ∨ ∃ x ∈ (s.die (p % 16)).resets, 3 ≤ x.scope)
       (stays → Steps .placeUp s s) ∧
       (¬ stays → Steps .placeUp s (s.modDie die fun z => { z with down := z.down.filter fun q => q != p }))) ∧
      (p ∈ d.down → Steps .placeDown s s) ∧
      (p ∉ d.down →
        let s1 := s.dropWaits die p
        let lost := (s1.die die).outst.filter fun o => o.place == p
        let s2 := (lost.foldl (fun t o => t.remEnd die o 5) (s1.dropBeats die (lost.map fun o => o.id))).flowsEnd (s.place die) p
        let s3 := s2.modDie die fun z => { z with
          down := z.down ++ [p]
          flows := z.flows.filter fun f => f.place != p
          resend := z.resend.filter fun e => e.1 != p }
        let retry := fun (m : Msg) => match m.body with | .retry _ _ => true | _ => false
        Steps .placeDown s { s3 with wire := s3.wire.filter fun m =>
          !((m.src == s.place die && m.dst == p) || (m.src == p && m.dst == s.place die && retry m)) })) ∧
    (∀ (t : State) (q : Nat), p / 16 = s.epid → t.epid = s.epid →
      let u := t.flowsEnd q p
      (u.die (p % 16)).flowsIn = (t.die (p % 16)).flowsIn.filter (fun f => f.src != q) ∧
      (u.die (p % 16)).rob = (t.die (p % 16)).rob.filter (fun r => r.src != q) ∧ u.ctxs = t.ctxs ∧ u.wire = t.wire) ∧
    (∀ i o rop t, s.sel = [die, i] → d.outst[i]? = some o → remShape o.op = .red rop t →
      (o.sentAt + (s.dreg die 5 0x8040).toNat ≤ s.clock → Steps .reduceTimeout s
        ((s.redAbandon (s.place die) o.win o.landing.toNat o.flow).remEnd die o 6)) ∧
      (s.clock < o.sentAt + (s.dreg die 5 0x8040).toNat → Steps .reduceTimeout s s)) ∧
    (∀ g off tag, Arrives s src die (.redFail g off tag) → Steps .reduceKeyAbort s (S.redLanded die g off tag 6))

/-! ## Channels -/

/-- R278, R280 and R281: CSEND enters its copy queue, with the ORD bits of its acceptance (log entry 161); CRECV takes the
slot at HEAD once it is filled and gives its address; CRET gives back the slot at RET, or −1 when none is held. A register
that names no channel of the role takes REG_RANGE. -/
def Obligations.ChannelInstructions : Prop :=
  ∀ (s : State) (q a b c : Nat) (x : XArgs), Admits x.y s →
    let die := dieOf s.cur
    let core := coreOf s.cur
    let n := (s.me.s a).toNat
    let ch := s.chan die n
    let names := fun (role : Nat) => n < 256 ∧ (s.bound die (s.vdOf s.cur) 0x38).1 ≤ n ∧
      n < (s.bound die (s.vdOf s.cur) 0x38).2 ∧ ch.role = role ∧ ch.vd = s.vdOf s.cur
    let room := (tget [] (s.core core).q q).length < 16 ∧ ∀ h, x.hnd = some h → (s.me.h h).out ≠ 2 ^ 32 - 1
    let sig := if x.y.spt = true ∧ x.y.sinc ≠ 0 then some (x.y.ssem, x.y.sinc) else none
    let cmd : CopyCmd := ⟨s.bids, .csend q a b x, s.vdOf s.cur, s.me.s a, s.me.s b, s.me.ord.setWidth 64, 0, 0, 0, 0, 0, [], none, none, none, [],
      ⟨s.cur, s.me.task, x.hnd, sig⟩⟩
    let counted := match x.hnd with
      | none => []
      | some h => [(⟨.out h, 0, BitVec.allOnes 256, 0, 1, .c, false⟩ : Result)]
    let slot := ch.ring + BitVec.ofNat 64 (ch.head % ch.depth * ch.slotBytes)
    let res := fun (v : Word) => (⟨.sreg c, v.setWidth 2048, BitVec.allOnes 256, 0, 2, .y, false⟩ : Result)
    (room → csendTrap a b s = none → ∃ u : State, Issues (.csend q a b x) s u ∧
      (u.core core).q = tput (s.core core).q q (tget [] (s.core core).q q ++ [cmd]) ∧
      u.me.inflight = s.me.inflight ++ counted ∧ u.dies = s.dies ∧ u.mem = s.mem ∧ u.wire = s.wire ∧ u.bids = s.bids + 1) ∧
    (room → ∀ r, csendTrap a b s = some r → Traps (.csend q a b x) s r) ∧
    (room → ¬ names 1 → Traps (.csend q a b x) s ⟨.regRange, 7, 0, 0⟩) ∧
    (¬ room → Blocks (.csend q a b x) s id) ∧
    (names 2 → ch.head ∈ ch.filled → ∃ u : State, Issues (.crecv c a x.y) s u ∧ u.chan die n = { ch with head := ch.head + 1 } ∧
      (∀ m, m ≠ n → u.chan die m = s.chan die m) ∧ u.me.inflight = s.me.inflight ++ [res slot] ∧ u.mem = s.mem ∧ u.wire = s.wire) ∧
    (names 2 → ch.head ∉ ch.filled → Blocks (.crecv c a x.y) s id) ∧
    (names 2 → ch.ret < ch.head → ∃ (u : State) (w : PermitWait), Issues (.cret c a x.y) s u ∧
      u.chan die n = { ch with
        ret := ch.ret + 1
        filled := ch.filled.erase ch.ret } ∧
      (u.die die).permitWaits = (s.die die).permitWaits ++ [w] ∧ w.task = s.me.task ∧ w.ch = n ∧ w.num = ch.ret ∧
      u.me.inflight = s.me.inflight ++ [res 0] ∧ u.mem = s.mem ∧ u.wire = s.wire) ∧
    (names 2 → ch.head ≤ ch.ret → Issues (.cret c a x.y) s ((settled x.y s).pushS c 0xFFFFFFFFFFFFFFFF 2 .y)) ∧
    (¬ names 2 → Traps (.crecv c a x.y) s ⟨.regRange, 8, 0, 0⟩ ∧ Traps (.cret c a x.y) s ⟨.regRange, 8, 0, 0⟩)

/-- R276, R278, R280, R282, R283, R285 and R286: the events of the channels. A CSEND at the head of its queue takes a permit,
those of a channel in the order in which they came to their heads; it is then read, its put of the slot goes to the port with
the ORD bit of its flow (R268), or with the one at its acceptance once its task is on its context no more (log entry 161),
and one without room in the flow table stays (R267). A permit is sent once the commands open at its CRET have ended, and is
counted where it arrives; a wait that has stalled its time traps; an audit sends its mark, is answered, sums up and times out
with a LOST_PERMIT record; an entry of the table is taken from the words of a good descriptor when it is free, cleared by
role 0, and otherwise counted. -/
def Obligations.ChannelEvents : Prop :=
  ∀ (s : State) (src die ch : Nat),
    let S := arrived s
    let c := s.chan die ch
    let d := s.die die
    let a := d.audit
    (∀ core q x, s.sel = [core, q, 1] → (tget [] (s.core core).q q).head? = some x → isCsend x.op = true → x.hold = none →
      Steps .csendSend s (s.csendRead core q x)) ∧
    (∀ (core q a b slot : Nat) (x : CopyCmd) (z : XArgs),
      let c := s.chan (core / 64) x.a.toNat
      let len := c.slotBytes
      let src := 0xFFF * 2 ^ 52 + x.b.toNat % 2 ^ 52
      let bytes := memBytes s.mem src len
      (tget [] (s.core core).q q).head? = some x → x.op = .csend q a b z → x.idx = some (slot : Int) → x.rd = 0 → x.buf = [] →
        0 < len → len ≤ 64 - x.b.toNat % 64 → (x.b.toNat / 2 ^ 44 % 16 = 0x9 ∨ x.b.toNat / 2 ^ 44 % 16 = 0xA) →
        x.b.toNat / 2 ^ 52 = 0xFFF → x.b.toNat / 2 ^ 48 % 16 = core / 64 → s.bankBusy (addrBanks x.b len) = false →
        (s.ctx x.done.ctx).before = [] → x.done.sig = none → x.done.hnd = none →
        ((∃ f ∈ (s.die (core / 64)).flows, f.ctx = x.done.ctx ∧ f.flow = z.flow ∧ f.place = c.peer) →
          ∃ put : RemCmd, ((s.csendRead core q x).die (core / 64)).outq = (s.die (core / 64)).outq ++ [put] ∧
            put.place = c.peer ∧ put.chan = c.peerch ∧ put.seq = slot ∧ put.a = c.ring + BitVec.ofNat 64 (slot % c.depth * len) ∧
            put.c = BitVec.ofNat 64 len ∧ put.buf = bytes ∧ put.flow = z.flow ∧ put.tc = z.tc ∧ put.win = c.key % 256 ∧
            ((s.ctx x.done.ctx).st ≠ .free → (s.ctx x.done.ctx).task = x.done.task → x.done.ctx < 4096 →
              put.ord = (s.ctx x.done.ctx).ord.getLsbD z.flow) ∧
            ((s.ctx x.done.ctx).st = .free ∨ (s.ctx x.done.ctx).task ≠ x.done.task → put.ord = (x.c.setWidth 16).getLsbD z.flow) ∧
            tget [] ((s.csendRead core q x).core core).q q = (tget [] (s.core core).q q).filter (fun y => y.id != x.id) ∧
            (s.csendRead core q x).mem = s.mem) ∧
        ((∀ f ∈ (s.die (core / 64)).flows, ¬ (f.ctx = x.done.ctx ∧ f.flow = z.flow ∧ f.place = c.peer)) →
          1024 ≤ (s.die (core / 64)).flows.length → s.csendRead core q x = s)) ∧
    (∀ n,
      let first := firstHead (s.csendHeads die) ch
      let able := c.role = 1 ∧ c.permits ≠ 0 ∧ d.halted = false ∧ c.vd ∉ d.deadVds
      (¬ able ∨ first = none → s.givePermits die ch (n + 1) = s) ∧
      (∀ e, able → first = some e → e ∈ s.csendHeads die ∧ e.2.2.a.toNat = ch ∧ e.2.2.idx = none ∧
        (∀ y ∈ s.csendHeads die, y.2.2.a.toNat = ch → e.2.2.headAt.getD 0 ≤ y.2.2.headAt.getD 0) ∧
        s.givePermits die ch (n + 1) = ((s.setCmd e.1 e.2.1 { e.2.2 with idx := some c.seq }).setChan die ch { c with
          permits := c.permits - 1
          seq := c.seq + 1 }).givePermits die ch n)) ∧
    (∀ i w, s.sel = [die, i] → d.permitWaits[i]? = some w →
      ((∀ z ∈ w.waits, z ∉ s.openIds die w.task) → Steps .cretPermitSend s
        ((s.modDie die fun z => { z with permitWaits := z.permitWaits.eraseIdx i }).port die (s.chan die w.ch).peer
          (.permit (s.chan die w.ch).peerch w.num))) ∧
      ((∃ z ∈ w.waits, z ∈ s.openIds die w.task) → Steps .cretPermitSend s s)) ∧
    (∀ num, Arrives s src die (.permit ch num) → c.role = 1 → ∃ u : State, Steps .permitArrival s u ∧
      u.chan die ch = { c with permits := c.permits + 1 } ∧ (∀ m, m ≠ ch → u.chan die m = s.chan die m) ∧ u.ctxs = s.ctxs ∧
      u.mem = s.mem ∧ u.wire = S.wire) ∧
    (∀ k role sl, s.sel = [k] → s.stallDue k = true → s.chanWait k = some (ch, role, sl) → (s.ctx k).sup = false →
      ∃ u : State, Steps .chanStall s u ∧ (u.ctx k).sup = true ∧ (u.ctx k).cause = 0x0E ∧ (u.ctx k).detail = ch ∧
        (u.ctx k).trappc = (s.ctx k).pc ∧ (u.ctx k).tslot = sl.code ∧ (u.ctx k).stall = 0 ∧ ∀ j, j ≠ k → u.ctx j = s.ctx j) ∧
    (s.sel = [die, ch] → c.role = 1 → a.st ≠ 1 → s.isDown die c.peer = false → ∃ u : State, Steps .chaudit s u ∧
      (u.die die).audit = { Audit.reset with
        st := 1
        ch := ch
        p := c.permits
        sseq := c.seq } ∧ u.wire = s.wire ++ [⟨s.place die, c.peer, .mark c.peerch c.seq⟩] ∧ u.mem = s.mem) ∧
    (s.sel = [die, ch] → (c.role ≠ 1 ∨ a.st = 1) → Steps .chaudit s s) ∧
    (∀ sseq, Arrives s src die (.mark ch sseq) → c.role = 2 →
      let f := (c.filled.filter fun q => decide (q < sseq)).length
      Steps .auditMark s (S.port die src (.back c.peerch c.ret f (sseq - c.ret - f)))) ∧
    (∀ ri f dn, Arrives s src die (.back ch ri f dn) → a.st = 1 → a.ch = ch → ∃ u : State, Steps .auditBack s u ∧
      (let k := (a.got.filter fun n => decide (n < ri)).length
       (u.die die).audit = { a with
         back := some ri
         f := f
         d := dn
         k := k
         st := if a.p + k + dn + f = c.depth then 2 else 1 }) ∧ (u.die die).auditAt = some s.clock ∧ u.mem = s.mem) ∧
    (∀ t, s.sel = [die] → d.auditAt = some t →
      (a.st = 1 → t + (s.dreg die 5 0x38).toNat ≤ s.clock → ∃ u : State, Steps .auditTimeout s u ∧
        (u.die die).audit = { a with st := 3 } ∧ (u.die die).auditAt = none) ∧
      (a.st = 1 → t + (s.dreg die 5 0x38).toNat ≤ s.clock → ∃ r : List Byte,
        Steps .auditTimeout s (({ s with free := s.free + 1 }.modDie die fun z => { z with
          audit := { a with st := 3 }
          auditAt := none }).fatal die r) ∧ r.length = 64 ∧
        (let e := s.chan die a.ch
         numAt r 0 2 = 0x21 ∧ numAt r 2 4 = 0xFFFFFF00 + die % 256 ∧ numAt r 6 1 = a.ch % 256 ∧ numAt r 7 1 = 1 ∧
         numAt r 8 2 = e.peer % 2 ^ 16 ∧ numAt r 10 1 = e.peerch % 256 ∧ numAt r 16 4 = 0 ∧ numAt r 24 8 = s.cycle die % 2 ^ 64 ∧
         numAt r 32 2 = a.p % 2 ^ 16 ∧ numAt r 34 2 = a.k % 2 ^ 16 ∧ numAt r 36 2 = a.d % 2 ^ 16 ∧ numAt r 38 2 = a.f % 2 ^ 16)) ∧
      (s.clock < t + (s.dreg die 5 0x38).toNat → Steps .auditTimeout s s)) ∧
    (∀ w0 w1 w2 w3, s.sel = [die, ch, w0, w1, w2, w3] →
      let ty := w0 / 2 ^ 16 % 256
      let slot := w1 % 2 ^ 16 * [8, 16, 32, 64, 8, 16, 32, 64, 4, 8, 8, 16, 16, 32, 64].getD ty 0
      let good := (w0 % 256 = 1 ∨ w0 % 256 = 2) ∧ w0 / 2 ^ 8 % 256 < 4 ∧ ty < 15 ∧ w0 / 2 ^ 24 % 256 = 0 ∧ w0 / 2 ^ 56 % 256 = 0 ∧
        1 ≤ w1 / 2 ^ 16 % 2 ^ 16 ∧ w1 / 2 ^ 16 % 2 ^ 16 ≤ 256 ∧ w1 / 2 ^ 32 % 2 ^ 32 = 0 ∧ 512 ∣ slot ∧ 512 ≤ slot ∧ slot ≤ 524288 ∧
        64 ∣ w2 ∧ w3.testBit 8 = true ∧ w3 / 2 ^ 9 % 2 ^ 7 = 0 ∧ w3 / 2 ^ 32 % 2 ^ 32 = 0
      (w0 % 256 = 0 → ∃ u : State, Steps .chantabWrite s u ∧ u.chan die ch = Chan.reset) ∧
      (w0 % 256 ≠ 0 → (c.role ≠ 0 ∨ ¬ good) → ∃ u : State, Steps .chantabWrite s u ∧ u.dies = s.dies ∧
        (u.dreg die 5 0x20).toNat = min 0xFFFFFFFF ((s.dreg die 5 0x20).toNat + 1)) ∧
      (w0 % 256 ≠ 0 → c.role = 0 → good → ∃ u : State, Steps .chantabWrite s u ∧ u.chan die ch = { Chan.reset with
        role := w0 % 256
        vd := w0 / 2 ^ 8 % 256
        ty := w0 / 2 ^ 16 % 256
        peer := w0 / 2 ^ 32 % 2 ^ 16
        peerch := w0 / 2 ^ 48 % 256
        eps := w1 % 2 ^ 16
        depth := w1 / 2 ^ 16 % 2 ^ 16
        ring := BitVec.ofNat 64 w2
        key := w3 % 2 ^ 32
        permits := if w0 % 256 = 1 then w1 / 2 ^ 16 % 2 ^ 16 else 0 }))

/-! ## Pre-emption, images, the Apex engine and events -/

/-- R333 and R336: PREEMPT and the image commands, which need supervisor rights. PREEMPT of a context that is free, stopped,
being killed or already asked is answered after a cycle; else the request and its limit stand with the target. PREEMPT.self
stops its own context. CTXSV and CTXLD, with their pad forms, enter their copy queue. That a context being killed is answered
with 1 at once is the model's reading (log entry 77), and so is the count of the limit, from the cycle after the request's
(log entry 79). R335 to R337 at the engine: a CTXSV at the head of its queue, at the ends of cycles. A target that is not
stopped ends it with status 1, and LEN is free then; one of whose accepted commands some are under way keeps it waiting; else
its image is taken, laid out as R335 says, and ends it with status 6 when its range does not fit. Once its beats are written,
it ends with status 0, with the context free and its record still running with the image's address, or with 1 when the target
is no longer the context that it was (log entry 162); counts that have changed meanwhile are written again (log entry 143). A
pad form ends with 1 while a context of its pad is not stopped, and else reads its dirty regions first. The slot then
receives the status and LEN. R335, R336 and R338 at the engine: a CTXLD at the head of its queue, at the end of a cycle, with
its image in the die pad. It makes R338's checks in their order, and grants the runs; an image of no latches, no not-started
commands and no kept tiles then leaves in its context what R335 says its fields hold, its record on that context and the
task's outstanding requests with it; its rows read zero. A field that must be zero and is not refuses it. -/
def Obligations.PreemptionAndImages : Prop :=
  (∀ (s : State) (q a b c e : Nat) (y : Sync), Admits y s →
    let die := dieOf s.cur
    let core := coreOf s.cur
    let V := (s.me.s a).toNat
    let t := 256 * die + V
    let T := s.ctx t
    let sig := if y.spt = true ∧ y.sinc ≠ 0 then some (y.ssem, y.sinc) else none
    let done : Done := ⟨s.cur, s.me.task, none, sig⟩
    let owned := s.ownsClus die (s.vdOf s.cur) (V / 16) = true
    let now := fun (n : Nat) => Issues (.preempt a c y) s ((settled y s).pushS c (BitVec.ofNat 64 n) 1 .y)
    let images : List Instr := [.ctxsv q a b e y, .ctxsvUpad q a b e y, .ctxsvCpad q a b e y, .ctxld q a b e y,
      .ctxldUpad q a b e y, .ctxldCpad q a b e y]
    let Q := tget [] (s.core core).q q
    let cmd := fun (i : Instr) => (⟨s.bids, i, s.vdOf s.cur, s.me.s a, s.me.s b, 0, s.me.s e, 0, 0, 0, 0, [], none, none, none, [],
      done⟩ : CopyCmd)
    (s.me.sup = true → V < 256 → owned →
      (T.st = .free → now 2) ∧ (∀ n, T.st = .stopped n → now 3) ∧ (∀ r, T.st = .dying r → now 1) ∧
      (T.st = .running → T.pre.isSome = true → now 3) ∧
      (T.st = .running → T.pre = none → Issues (.preempt a c y) s (signalAtAccept y
        (({ (taken y s) with bids := s.bids + 1 }).modCtx t fun x =>
          { x with pre := some ⟨s.preemptLim die (s.vdOf t), s.clock, some (s.bids, c, done)⟩ })))) ∧
    (s.me.sup = true → 256 ≤ V → Traps (.preempt a c y) s ⟨.illegalBundle, 8, 0, 0⟩) ∧
    (s.me.sup = true → V < 256 → ¬ owned → Traps (.preempt a c y) s ⟨.regRange, 8, 0, 0⟩) ∧
    (s.me.sup = true → Issues (.preemptSelf y) s ((settled y s).modMe fun x => { x with st := .ending })) ∧
    (s.me.sup = false → Traps (.preempt a c y) s ⟨.privilege, 8, 0, 0⟩ ∧ Traps (.preemptSelf y) s ⟨.privilege, 8, 0, 0⟩ ∧
      ∀ i ∈ images, Traps i s ⟨.privilege, 7, 0, 0⟩) ∧
    (s.me.sup = true → Q.length < 16 → imageTrap a b e s = none → ∀ i ∈ images, ∃ u : State, Issues i s u ∧
      (u.core core).q = tput (s.core core).q q (Q ++ [cmd i]) ∧ u.ctxs = s.ctxs ∧ u.dies = s.dies ∧ u.mem = s.mem ∧
      u.wire = s.wire ∧ u.bids = s.bids + 1) ∧
    (s.me.sup = true → Q.length < 16 → ∀ r, imageTrap a b e s = some r → ∀ i ∈ images, Traps i s r) ∧
    (s.me.sup = true → 16 ≤ Q.length → ∀ i ∈ images, Blocks i s id)) ∧
  (∀ (s : State) (core q a b e : Nat) (y : Sync) (x : CopyCmd) (l : List CopyCmd),
    let die := core / 64
    let V := x.a.toNat
    let k := 256 * die + V % 256
    let C := s.ctx k
    let d := s.die die
    let u := s.queueEnd core q
    let queue := fun t : State => tget [] (t.core core).q q
    let kind := x.b.toNat / 2 ^ 44 % 16
    let low := x.b.toNat % 2 ^ 44
    let bounds := s.bound die x.vd 0x18
    let fits := fun n : Nat => (kind = 8 → low % 2 ^ 25 + n ≤ 2 ^ 25 ∧ bounds.1 * 65536 ≤ low % 2 ^ 25 ∧ low % 2 ^ 25 + n ≤ bounds.2 * 65536) ∧
      (kind = 0 → low + n ≤ 2 ^ 44 ∧ s.meetsAperture die x.vd low n = false)
    let still := u.mem = s.mem ∧ u.ctxs = s.ctxs ∧ u.dies = s.dies
    let ends := fun len st : Nat => queue u = { x with rd := 2, wr := 0, row := 8, buf := leBytes st 4 ++ leBytes len 4 } :: l
    let logged := ∃ z ∈ (s.core core).log, z.id = x.id
    let matrix := (∃ m, (s.core (k / 4)).act = some m ∧ m.ctx = k) ∨ ∃ m, (s.core (k / 4)).pend = some m ∧ m.ctx = k
    let rest := C.inflight = [] ∧ ∀ z ∈ (s.core (k / 4)).late, z.ctx ≠ k
    let stopped := ∃ n, C.st = .stopped n ∧ rest ∧ (n = 2 ∨ ¬ matrix)
    let mine := fun z : Done => z.task = C.task
    let working := C.held ≠ none ∨ matrix ∨ (∃ z ∈ s.copies die, z.id ≠ x.id ∧ mine z.done) ∨ (∃ z ∈ s.remotes die, mine z.done) ∨
      (∃ z ∈ d.outq, mine z.done) ∨ (∃ z ∈ d.evQ, mine z.done) ∨ (∃ z ∈ d.migrQ, mine z.done) ∨ (∃ z ∈ d.apexQ, mine z.done) ∨
      (∃ r, d.apexRun = some r ∧ mine r.cmd.done) ∨ (∃ z ∈ d.spawns, mine z.done) ∨ ∃ z ∈ s.preempts, mine z.2
    -- R335's layout
    let tiles := (List.range 16).filter fun t => C.keep.getLsbD t && decide (C.vbase + 64 * t + 63 < C.vlim)
    let latches := C.imageLatches.length
    let lays := fun I : List Byte =>
      let f := numAt I
      let vd := (s.trec die (C.task % 2 ^ 12)).vd
      (f 0 2 = 0x40 ∧ f 2 2 = 1 ∧ f 4 4 = I.length % 2 ^ 32 ∧ f 8 4 = C.task % 2 ^ 32 ∧ f 12 4 = C.job % 2 ^ 32 ∧ f 17 1 = vd % 256 ∧
        f 18 2 = s.vdClus die vd % 2 ^ 16 ∧ f 20 1 = (C.vlim - C.vbase) / 64 % 256 ∧ f 21 1 = 0 ∧ f 22 2 = (C.slim - C.sbase) % 2 ^ 16 ∧
        f 32 2 = latches % 2 ^ 16 ∧ f 34 2 = 0 ∧ f 36 2 = C.keep.toNat ∧ f 38 10 = 0 ∧ f 48 8 = s.cycle die % 2 ^ 64 ∧ f 56 8 = 0) ∧
      (∀ n, C.st = .stopped n → f 16 1 = n % 256 ∧ f 24 8 = (if n = 2 then C.trappc else C.pc).toNat) ∧
      f 64 8 = 0 ∧ (∀ i, 1 ≤ i → i < 64 → f (64 + 8 * i) 8 = (C.s i).toNat) ∧ (∀ i, i < 12 → f (576 + 32 * i) 32 = (C.k i).toNat) ∧
      (∀ p ∈ [(960, C.lc0), (992, C.lc1)], f p.1 8 = p.2.lc.toNat ∧ f (p.1 + 8) 8 = p.2.ls.toNat ∧ f (p.1 + 16) 8 = p.2.le.toNat ∧
        f (p.1 + 24) 8 = if p.2.la then 1 else 0) ∧
      (f 1024 8 = C.flags.toNat ∧ f 1032 8 = C.trapen.toNat ∧ f 1040 8 = C.srseed.toNat ∧ f 1048 8 = C.wcur.getD 0 % 2 ^ 64 ∧
        f 1056 8 = C.ord.toNat ∧ f 1064 8 = C.trappc.toNat ∧ f 1072 8 = C.trapInfo % 2 ^ 64 ∧ f 1080 8 = C.trapaddr.toNat ∧
        (∀ i, i < 4 → f (1088 + 8 * i) 8 = (tget 0 C.sscr i).toNat) ∧ (C.rlabel = none → f 1120 8 = 0) ∧
        (∀ w, C.rlabel = some w → f 1120 8 = w.toNat / 2 * 2 + 1) ∧ f 1128 8 = (if C.mshad then 1 else 0) ∧ f 1136 16 = 0) ∧
      (∀ i, i < 16 → f (1152 + 4 * i) 4 = (C.fmtE i).toNat) ∧
      ([f 1216 4, f 1220 4, f 1224 4, f 1228 4, f 1232 4, f 1236 4, f 1240 4] = [C.sh.aaddr, C.sh.baddr, C.sh.maddr, C.sh.saddr, C.sh.k,
        C.sh.astr, C.sh.bstr].map BitVec.toNat ∧ f 1244 2 = C.sh.banda.toNat ∧ f 1246 2 = C.sh.bandb.toNat ∧ f 1248 32 = 0) ∧
      (∀ h, h < 16 → let z := C.h h; let o := 1280 + 24 * h
        f o 4 = z.out % 2 ^ 32 ∧ f (o + 4) 4 = z.loc % 2 ^ 32 ∧ f (o + 8) 4 = z.rem % 2 ^ 32 ∧ f (o + 12) 1 = z.err % 256 ∧ f (o + 13) 3 = 0 ∧
          f (o + 16) 8 = z.bytes % 2 ^ 64) ∧
      (∀ n, n < 256 → f (1664 + 2 * n) 2 = if C.sbase + n < C.slim then (s.core (k / 4)).sem (C.sbase + n) % 2 ^ 16 else 0) ∧
      (∀ i r, C.imageLatches[i]? = some r → let o := 2176 + 304 * i
        f (o + 1) 1 = 0 ∧ f (o + 4) 1 = r.left % 256 ∧ f (o + 5) 1 = r.flags.toNat ∧ f (o + 6) 10 = 0 ∧ f (o + 16) 32 = r.mask.toNat ∧
          ∀ n, (r.dest = .sreg n → f o 1 = 1 ∧ f (o + 2) 2 = n % 2 ^ 16 ∧ f (o + 48) 256 = r.val.toNat) ∧
            (r.dest = .kreg n → f o 1 = 2 ∧ f (o + 2) 2 = n % 2 ^ 16 ∧ f (o + 48) 256 = r.val.toNat) ∧
            (r.dest = .row n → f o 1 = 3 ∧ f (o + 2) 2 = (n - C.vbase) % 2 ^ 16 ∧ f (o + 48) 256 = r.val.toNat)) ∧
      I.drop (2176 + 304 * latches) = (tiles.map fun t => ((List.range 4).map fun g => regionRec g
        ((List.range 16).map fun i => leBytes (s.rowOf k (64 * t + (16 * g + i))).toNat 256).flatten).flatten).flatten
    let pad := x.op = .ctxsvUpad q a b e y ∨ x.op = .ctxsvCpad q a b e y
    let other := ∃ j, j / 256 = die ∧ (if x.op = .ctxsvUpad q a b e y then j / 4 = 64 * die + V / 4 % 64 else j / 16 = 16 * die + V / 16 % 16) ∧ (s.ctx j).st ≠ .free ∧
      ¬ ∃ n, (s.ctx j).st = .stopped n ∧ (s.ctx j).inflight = [] ∧ (∀ z ∈ (s.core (j / 4)).late, z.ctx ≠ j) ∧
        (n = 2 ∨ ¬ ((∃ m, (s.core (j / 4)).act = some m ∧ m.ctx = j) ∨ ∃ m, (s.core (j / 4)).pend = some m ∧ m.ctx = j))
    let saves := x.op = .ctxsv q a b e y
    queue s = x :: l → (∀ z ∈ l, z.id ≠ x.id) → x.live d.halted = true → (kind = 0 ∨ kind = 8) →
      (∀ n, s.sel = [core, q, n] → s.turn = [] → Steps .copyComplete s (u.joins core 64)) ∧
      (saves → x.rd = 0 →
        (¬ stopped → (∃ len, ends len 1) ∧ still) ∧ (stopped → working → u = s) ∧
        (stopped → ¬ working → still ∧ ∃ I, lays I ∧ (¬ fits I.length → ends I.length 6) ∧
          (fits I.length → queue u = { x with
            c := BitVec.ofNat 64 C.task
            idx := some (C.synced : Int)
            buf := I
            rd := 1
            wr := 0
            row := I.length } :: l))) ∧
      (pad → x.rd = 0 → (other → (∃ len, ends len 1) ∧ still) ∧ (¬ other → queue u = { x with rd := 3 } :: l ∧ still)) ∧
      (saves → x.rd = 1 → (x.wr < x.row ∨ logged → u = s) ∧
        (x.row ≤ x.wr → ¬ logged →
          let same := stopped ∧ C.task = x.c.toNat ∧ x.idx = some (C.synced : Int)
          let i := C.task % 2 ^ 12
          let now := ((s.ctxImage k).drop 1280).take 896
          (¬ same → ends x.buf.length 1 ∧ still) ∧
          (same → (s.core (k / 4)).semUpd = [] → (x.buf.drop 1280).take 896 = now → ends x.buf.length 0 ∧ u.ctx k = Ctx.reset ∧
            (∀ j, j ≠ k → u.ctx j = s.ctx j) ∧ u.trec die i = { s.trec die i with at_ := .saved x.b.toNat, vwSeq := C.vwSeq } ∧
            u.mem = s.mem) ∧
          (same → (s.core (k / 4)).semUpd = [] → (x.buf.drop 1280).take 896 ≠ now → u.ctxs = s.ctxs ∧ ∃ w, queue u = { x with
            buf := x.buf.take 1280 ++ now ++ x.buf.drop 2176
            wr := w
            row := 2176 } :: l))) ∧
      (pad → x.rd = 3 → x.wr = 0 → x.buf = [] →
        let m := if x.op = .ctxsvUpad q a b e y then (0x41, 2 ^ 8, 0xA, V / 4 % 4, V / 4 % 4, (s.core (64 * die + V / 4 % 64)).shadn.toNat)
          else (0x42, 2 ^ 10, 0x9, 0, 0xFF, 0)
        (∀ i, x.row ≤ i → i < m.2.1 → tget false s.dirty ((0xFFF * 2 ^ 52 + die * 2 ^ 48 + m.2.2.1 * 2 ^ 44 + V / 16 % 16 * 2 ^ 40 +
          m.2.2.2.1 * 2 ^ 38) / 4096 + i) = false) →
          ∃ I : List Byte, I.length = 64 ∧ numAt I 0 2 = m.1 ∧ numAt I 2 1 = die % 256 ∧ numAt I 3 1 = V / 16 % 16 ∧ numAt I 4 1 = m.2.2.2.2.1 ∧
            numAt I 5 1 = 0xFF ∧ numAt I 6 2 = 0 ∧ numAt I 8 4 = 64 ∧ numAt I 12 2 = m.2.2.2.2.2 ∧ numAt I 14 50 = 0 ∧
            (fits 64 → queue u = { x with buf := I, rd := 1, wr := 0, row := 64 } :: l) ∧ (¬ fits 64 → ends 64 6)) ∧
      (saves ∨ pad → x.rd = 2 → (x.wr < x.row ∨ logged → u = s) ∧
        (x.row ≤ x.wr → ¬ logged → u = s.endCmd core x 0 0 ∧ queue u = l)) ∧
      -- a beat of the image or of the status slot
      (saves → x.rd = 1 ∨ x.rd = 2 → s.sel = [core, q, 0] → s.turn ≠ [] → x.wr < x.row → x.row ≤ x.buf.length →
        (s.core core).beatAt ≠ some s.clock → q < 4 →
        (∀ i, i < (q + 3 - (s.core core).beatQ) % 4 → s.beatReady core (((s.core core).beatQ + 1 + i) % 4) = false) →
        let w := if x.rd = 2 then x.e else x.b + BitVec.ofNat 64 x.wr
        let n := min 64 (x.row - x.wr)
        let key := 0xFFF * 2 ^ 52 + die * 2 ^ 48 + w.toNat % 2 ^ 48
        w.toNat / 2 ^ 44 % 16 ∈ [0x8, 0x9, 0xA] → w.toNat / 2 ^ 48 % 16 = die → s.bankBusy (addrBanks w n) = false →
        ∃ t, Steps .copyComplete s t ∧ queue t = { x with wr := x.wr + n } :: l ∧ t.ctxs = s.ctxs ∧ t.wire = s.wire ∧
          ∀ p, memGet t.mem p = if key ≤ p ∧ p < key + n then x.buf.getD (x.wr + (p - key)) 0 else memGet s.mem p)) ∧
  (∀ (s : State) (core q a b e : Nat) (y : Sync) (x : CopyCmd) (l : List CopyCmd),
    let die := core / 64
    let k := 256 * die + x.a.toNat % 256
    let u := s.queueEnd core q
    let queue := fun t : State => tget [] (t.core core).q q
    let low := x.b.toNat % 2 ^ 44
    let bounds := s.bound die x.vd 0x18
    let ends := fun len st : Nat => queue u = { x with rd := 2, wr := 0, row := 8, buf := leBytes st 4 ++ leBytes len 4 } :: l
    let f := numAt (memBytes s.mem (0xFFF * 2 ^ 52 + die * 2 ^ 48 + 8 * 2 ^ 44 + low) 2176)
    let len := f 4 4
    let task := f 8 4
    let i := task % 2 ^ 12
    let r := s.trec die i
    let bad := f 0 2 ≠ 0x40 ∨ f 2 2 ≠ 1 ∨ f 21 1 ≠ 0 ∨ f 38 10 ≠ 0 ∨ f 56 8 ≠ 0
    let fits := low % 2 ^ 25 + len ≤ 2 ^ 25 ∧ bounds.1 * 65536 ≤ low % 2 ^ 25 ∧ low % 2 ^ 25 + len ≤ bounds.2 * 65536
    let here := r.st = 3 ∧ r.gen = task / 2 ^ 12 % 2 ^ 12 ∧ (task / 2 ^ 24 % 16 = die ∨ r.origin = some (task / 2 ^ 24 % 16))
    let topo := ∀ cl, cl < 16 → (f 18 2).testBit cl = true → s.ownsClus die x.vd cl = true
    let vbs := s.rowRun (k / 4) (f 20 1)
    let sbs := s.semRun (k / 4) (f 22 2)
    queue s = x :: l → (∀ z ∈ l, z.id ≠ x.id) → x.live (s.die die).halted = true → x.op = .ctxld q a b e y → x.rd = 0 → die < 16 →
      x.b.toNat / 2 ^ 44 % 16 = 8 → 64 ∣ x.b.toNat → low < 2 ^ 25 →
      ((s.ctx k).st ≠ .free → (∃ n, ends n 1) ∧ u.ctxs = s.ctxs ∧ u.mem = s.mem) ∧
      ((s.ctx k).st = .free →
        (∀ p : Nat × Prop, p ∈ [(2, bad), (6, ¬ bad ∧ ¬ fits), (5, ¬ bad ∧ fits ∧ ¬ here), (4, ¬ bad ∧ fits ∧ here ∧ topo ∧ (vbs = none ∨ sbs = none))] →
          p.2 → ends len p.1 ∧ u.ctxs = s.ctxs ∧ u.mem = s.mem) ∧
        (¬ bad → fits → here → ¬ topo → ends len 3 ∧ u.ctxs = s.ctxs) ∧
        (∀ vb sb, ¬ bad → fits → here → topo → vbs = some vb → sbs = some sb → len = 2176 → f 32 2 = 0 → f 34 2 = 0 → f 36 2 = 0 →
          let zero := f 64 8 = 0 ∧ f 1136 16 = 0 ∧ f 1248 32 = 0 ∧ (∀ h, h < 16 → f (1280 + 24 * h + 13) 3 = 0) ∧
            ∀ n, n < 256 → f 22 2 ≤ n → f (1664 + 2 * n) 2 = 0
          (¬ zero → ends len 2 ∧ u.ctxs = s.ctxs ∧ u.mem = s.mem) ∧
          (zero →
            let R := u.ctx k
            let T := die * 2 ^ 24 + task / 2 ^ 12 % 2 ^ 12 * 2 ^ 12 + i
            let num := fun o : Nat => BitVec.ofNat 64 (f o 8)
            let loop := fun o : Nat => (⟨num o, num (o + 8), num (o + 16), (num (o + 24)).getLsbD 0⟩ : LoopSt)
            ends len 0 ∧ u.mem = s.mem ∧ (∀ j, j ≠ k → u.ctx j = s.ctx j) ∧ u.trec die i = { r with at_ := .onCtx k } ∧
            (∀ o ∈ (u.die die).outst, o.done.task = T → o.done.ctx = k) ∧ R.before = s.requestsOf die T ∧ R.vwSeq = r.vwSeq ∧
            R.st = .running ∧ R.task = T ∧ R.job = f 12 4 ∧ R.sup = false ∧ R.vbase = vb ∧ R.vlim = vb + 64 * f 20 1 ∧ R.sbase = sb ∧
            R.slim = sb + f 22 2 ∧ R.latches = [] ∧ R.inflight = [] ∧
            R.pc = (if f 16 1 = 2 then num 1064 else if f 16 1 = 0 ∧ (num 1120).getLsbD 0 = true then num 1120 &&& ~~~1 else num 24) ∧
            (∀ n, 1 ≤ n → n < 64 → R.s n = num (64 + 8 * n)) ∧ (∀ n, 1 ≤ n → n < 12 → R.k n = BitVec.ofNat 256 (f (576 + 32 * n) 32)) ∧
            R.lc0 = loop 960 ∧ R.lc1 = loop 992 ∧ R.flags = BitVec.ofNat 7 (f 1024 8) ∧ R.trapen = BitVec.ofNat 7 (f 1032 8) ∧
            R.srseed = num 1040 ∧ R.wcur = some (f 1048 8) ∧ R.ord = BitVec.ofNat 16 (f 1056 8) ∧ R.trappc = num 1064 ∧
            R.cause = f 1072 8 % 2 ^ 8 ∧ R.tslot = f 1072 8 / 2 ^ 8 % 2 ^ 8 ∧ R.detail = f 1072 8 / 2 ^ 16 % 2 ^ 13 ∧ R.trapaddr = num 1080 ∧
            (∀ n, n < 4 → tget 0 R.sscr n = num (1088 + 8 * n)) ∧
            R.rlabel = (if (num 1120).getLsbD 0 then some (num 1120 &&& ~~~1) else none) ∧ R.mshad = (num 1128).getLsbD 0 ∧
            (∀ n, n < 16 → R.fmtE n = BitVec.ofNat 32 (f (1152 + 4 * n) 4)) ∧ R.keep = 0 ∧
            [R.sh.aaddr, R.sh.baddr, R.sh.maddr, R.sh.saddr, R.sh.k, R.sh.astr, R.sh.bstr] =
              [1216, 1220, 1224, 1228, 1232, 1236, 1240].map (fun o => BitVec.ofNat 32 (f o 4)) ∧
            R.sh.banda = BitVec.ofNat 16 (f 1244 2) ∧ R.sh.bandb = BitVec.ofNat 16 (f 1246 2) ∧
            (∀ h, h < 16 → let o := 1280 + 24 * h; R.h h = { out := f o 4, loc := f (o + 4) 4, rem := f (o + 8) 4, err := f (o + 12) 1, bytes := f (o + 16) 8 }) ∧
            (∀ n, n < 64 * f 20 1 → (u.core (k / 4)).row (vb + n) = 0) ∧
            ∀ n, n < f 22 2 → (u.core (k / 4)).sem (sb + n) = f (1664 + 2 * n) 2))))

/-- R339, R341, R343, R350, R351 and R357: ACFG writes its field; AGO enters the Apex queue, of 16 entries with the running
command and of AQSHARE for its virtual device (R339, R351), with a copy of the configuration set, and is blocked without
room; AQ reads how its context's last AGO stands; EVENT enters the event queue behind the remote commands that its task has
made. R344 to R347: what the engine then computes for a command whose arrays lie in pads: R345's checks in their order with
their reasons, INFEASIBLE, the stranded rows, a bid, a column resolved, a round, an ε phase, and for each code the outputs
and the status. -/
def Obligations.ApexAndEvents : Prop :=
  ∀ (s : State) (a b c code : Nat) (h : Option Nat) (y : Sync), Admits y s →
    let die := dieOf s.cur
    let vd := s.vdOf s.cur
    let d := s.die die
    let A := s.me.s a
    let B := s.me.s b
    let set := fun (f : Auction → Auction) => (settled y s).modMe fun m => { m with au := f m.au }
    let sig := if y.spt = true ∧ y.sinc ≠ 0 then some (y.ssem, y.sinc) else none
    let room := d.apexQ.length + (if d.apexRun.isSome = true then 1 else 0) < 16 ∧ s.aqused die vd < (s.reg die vd 6 0).toNat ∧
      ∀ n, h = some n → (s.me.h n).out ≠ 2 ^ 32 - 1
    let counted := match h with
      | none => []
      | some n => [(⟨.out n, 0, BitVec.allOnes 256, 0, 1, .c, false⟩ : Result)]
    let read := fun (sel v : Nat) => Issues (.aq c sel y) s ((settled y s).pushS c (BitVec.ofNat 64 v) 2 .y)
    let place := leBytes die 1 ++ leBytes (s.cur / 16 % 16) 1 ++ leBytes (s.cur / 4 % 4) 1 ++ leBytes (s.cur % 4) 1
    let record := leBytes 0x50 2 ++ place ++ leBytes code 1 ++ zeros 1 ++ leBytes A.toNat 8 ++ leBytes B.toNat 8 ++
      leBytes s.me.task 4 ++ zeros 36
    Issues (.acfg .aeps a y) s (set fun u => { u with eps := A.extractLsb' 0 32 }) ∧
    Issues (.acfg .arounds a y) s (set fun u => { u with rounds := A.extractLsb' 0 32 }) ∧
    Issues (.acfg .aphases a y) s (set fun u => { u with phases := A.extractLsb' 0 4 }) ∧
    Issues (.acfg .adiv a y) s (set fun u => { u with div := A.extractLsb' 0 32 }) ∧
    Issues (.acfg .ainit a y) s (set fun u => { u with init := A.extractLsb' 0 2 }) ∧
    (room → agoTrap a b s = none → ∃ u : State, Issues (.ago a b h y) s u ∧
      (u.die die).apexQ = d.apexQ ++ [⟨s.bids, vd, s.me.au, A, B, ⟨s.cur, s.me.task, h, sig⟩⟩] ∧
      u.me = { s.me with
        aqid := some s.bids
        aqcode := 0
        aqrounds := 0
        inflight := s.me.inflight ++ counted } ∧ u.bids = s.bids + 1 ∧ u.mem = s.mem ∧ u.wire = s.wire) ∧
    (room → ∀ r, agoTrap a b s = some r → Traps (.ago a b h y) s r) ∧
    (¬ room → Blocks (.ago a b h y) s id) ∧
    (s.me.aqid = none → read 0 0) ∧
    (∀ n, s.me.aqid = some n → d.apexRun = none → (∃ z ∈ d.apexQ, z.id = n) → read 0 (2 ^ 62)) ∧
    (∀ n, s.me.aqid = some n → d.apexRun = none → (∀ z ∈ d.apexQ, z.id ≠ n) →
      read 0 (3 * 2 ^ 62 + s.me.aqcode * 2 ^ 32 + s.me.aqrounds)) ∧
    (∀ n r x, s.me.aqid = some n → d.apexRun = some r → r.cmd.id = n → r.stage = .rounds x → read 0 (2 * 2 ^ 62 + x.rounds)) ∧
    read 1 ((d.apexQ.length + (if d.apexRun.isSome = true then 1 else 0)) * 65536 + (if d.apexRun.isSome = true then 1 else 0)) ∧
    (d.evQ.length < 16 → ∃ (u : State) (cmd : EvCmd), Issues (.event a b code y) s u ∧ (u.die die).evQ = d.evQ ++ [cmd] ∧
      cmd.id = s.bids ∧ cmd.vd = vd ∧ cmd.record = record ∧ cmd.after = s.earlierRemote die s.me.task ∧
      cmd.done = ⟨s.cur, s.me.task, none, sig⟩ ∧ u.ctxs = s.ctxs ∧ u.mem = s.mem ∧ u.wire = s.wire) ∧
    (16 ≤ d.evQ.length → Blocks (.event a b code y) s id) ∧
    -- the auction (R344 to R347)
    (let F := fun b : Nat => floatOf .f32 b
     let rn := fun v : FVal => (roundTo .f32 .rne 0 v).1
     let add := fun x y : Nat => rn (exactSum [F x, F y]).1
     let sub := fun x y : Nat => rn (exactSum [F x, (F y).negate]).1
     let finite := fun x : Nat => (F x).isNan = false ∧ (F x).isInf = false
     let key := fun w : Word => 0xFFF * 2 ^ 52 + die * 2 ^ 48 + w.toNat % 2 ^ 48
     let inPad := fun (w : Word) (n : Nat) => w.toNat / 2 ^ 44 % 16 ∈ [0x8, 0x9, 0xA] ∧ w.toNat / 2 ^ 48 % 16 = die ∧
       w.toNat % 2 ^ 44 + n ≤ 2 ^ 44
     let num := fun (w : Word) (i n : Nat) => leNat (memBytes s.mem (key w + i) n)
     let score := fun (w n : Nat) => let b := if w = 2 then n * 65536 else n; if (F b).isNan then 0xFF800000 else b
     let status := fun (code detail phases rounds assigned strand eps : Nat) => leBytes code 1 ++ leBytes detail 1 ++ leBytes phases 1 ++
       zeros 1 ++ leBytes rounds 4 ++ leBytes assigned 4 ++ leBytes strand 4 ++ leBytes eps 4 ++ zeros 4
     -- a bid: the best column, the lowest among equals, the second best, and PRICE_OVF
     (∀ (x : Auc) (sc : List Nat) (b bid : Nat), b < x.c →
       let v := fun j => if x.caps.getD j 0 = 0 then 0xFF800000 else sub (sc.getD j 0xFF800000) (tget 0 x.price j)
       let above := fun i j => (F (v j)).lt (F (v i)) = true ∨ (i < j ∧ (F (v i)).lt (F (v j)) = false)
       let p := tget 0 x.price b
       let second := fun k => k < x.c ∧ k ≠ b ∧ ∀ j, j < x.c → j ≠ b → j ≠ k → above k j
       (∀ j, j < x.c → (F (v j)).isNan = false) → (∀ j, j < x.c → j ≠ b → above b j) →
       ((F (v b)).isInf = true → x.bid sc = none) ∧
       ((F (v b)).isInf = false →
         ((∃ k, second k ∧ v k ≠ 0xFF800000 ∧ bid = add (add p (sub (v b) (v k))) x.eps) ∨
           ((∀ j, j < x.c → j ≠ b → v j = 0xFF800000) ∧ bid = add p x.eps)) →
         (finite bid → x.bid sc = some (b, bid)) ∧ (¬ finite bid → x.bid sc = none))) ∧
     -- a column resolved: the bids on it and its holders, by bid and then by row
     (∀ (x : Auc) (j : Nat) (l S : List (Nat × Nat)),
       let held := tget [] x.held j
       let first := fun e f : Nat × Nat => (F f.2).lt (F e.2) = true ∨ ((F e.2).lt (F f.2) = false ∧ e.1 < f.1)
       let n := x.caps.getD j 0
       (l = [] → x.resolve j l = x) ∧
       (l ≠ [] → S.Perm (held ++ l) → S.Pairwise first → held.Pairwise first → (S.map Prod.fst).Nodup → (x.asg.map Prod.fst).Nodup →
         (∀ e ∈ S, finite e.2) →
         let y := x.resolve j l
         tget [] y.held j = S.take n ∧ (∀ q, q ≠ j → tget [] y.held q = tget [] x.held q ∧ tget 0 y.price q = tget 0 x.price q) ∧
         tget 0 y.price j = (if (S.take n).length = n then ((S.take n).getLast?.map Prod.snd).getD 0 else tget 0 x.base j) ∧
         (∀ e ∈ S.take n, tfind y.asg e.1 = some j) ∧ (∀ e ∈ S.drop n, tfind y.asg e.1 = none) ∧
         (∀ i, (∀ e ∈ S, e.1 ≠ i) → tfind y.asg i = tfind x.asg i) ∧ y.rounds = x.rounds ∧ y.stranded = x.stranded ∧
         y.base = x.base ∧ y.eps = x.eps ∧ y.caps = x.caps)) ∧
     -- a round: every column in turn; what it leaves is kept for the outputs
     (∀ (x : Auc) (bids : List (Nat × Nat × Nat)), ∃ Y : Nat → Auc, Y 0 = { x with rounds := x.rounds + 1 } ∧
       (∀ j, Y (j + 1) = (Y j).resolve j ((bids.filter fun e => decide (e.2.1 = j)).map fun e => (e.1, e.2.2))) ∧
       x.round bids = { Y x.c with
         outPrice := (Y x.c).price
         outHeld := (Y x.c).held
         outAsg := (Y x.c).asg }) ∧
     -- the outputs: ASSIGN, FILL and PRICE, in beats
     (∀ x : Auc, x.r ≤ 65536 → x.c ≤ 4096 →
       let covers := fun (l : List (Word × List Byte)) (w : Word) (b : List Byte) => (l.map Prod.snd).flatten = b ∧
         ∀ pre q post, l = pre ++ q :: post → q.1 = w + BitVec.ofNat 64 ((pre.map fun e => e.2.length).sum) ∧ 0 < q.2.length ∧
           q.2.length ≤ 64 - q.1.toNat % 64
       ∃ la lf lp, x.outputs = la ++ lf ++ lp ∧
         covers la x.assignA ((List.range x.r).map fun i => leBytes ((tfind x.outAsg i).getD (2 ^ 32 - 1)) 4).flatten ∧
         covers lf x.fillA ((List.range x.c).map fun j => leBytes (tget [] x.outHeld j).length 4).flatten ∧
         covers lp x.priceA ((List.range x.c).map fun j => leBytes (tget 0 x.outPrice j) 4).flatten) ∧
     -- the running command's next step
     ∀ r, d.apexRun = some r → r.hold = none → r.got = [] →
       let u := s.apexStep die
       let now := fun st : AgoStage => (u.die die).apexRun = some { r with
         stage := st
         got := [] }
       let goes := fun st : AgoStage => now st ∧ u.mem = s.mem ∧ u.ctxs = s.ctxs
       -- its start: the descriptor, R345's checks in their order, and the inputs
       (r.stage = .start → inPad r.cmd.desc 64 → 64 ∣ r.cmd.desc.toNat →
         let D := r.cmd.desc
         let at_ := fun i => BitVec.ofNat 64 (num D i 8)
         let R := num D 40 4
         let C := num D 44 2
         let f := num D 46 1
         let S := num D 48 4
         let W := if f = 13 then 4 else 2
         let cfg := r.cmd.cfg
         let k := r.cmd.done.ctx
         let arrays : List (Word × Nat × Nat) := [(at_ 0, (R - 1) * S + C * W, W), (at_ 8, 2 * C, 2), (at_ 16, 4 * C, 4),
           (at_ 24, 4 * R, 4), (at_ 32, 4 * C, 4)]
         let bad := fun e : Word × Nat × Nat => s.checkRange k .copy e.1 e.2.1 ≠ none ∨ e.1.toNat / 2 ^ 44 % 16 = 0xF ∨
           ¬ e.2.2 ∣ e.1.toNat ∨ (e.1.toNat / 2 ^ 44 % 16 = 0 ∧ s.meetsAperture (dieOf k) r.cmd.vd (e.1.toNat % 2 ^ 44) e.2.1 = true)
         let fails := fun m => (m = 1 ∧ (num D 47 1 ≠ 0 ∨ num D 52 12 ≠ 0 ∨ R = 0 ∨ 65536 < R ∨ C = 0 ∨ 4096 < C)) ∨
           (m = 2 ∧ f ≠ 13 ∧ f ≠ 11) ∨ (m = 3 ∧ (¬ W ∣ S ∨ S < C * W ∨ ∃ e ∈ arrays, bad e)) ∨
           (m = 4 ∧ (¬ (finite cfg.eps.toNat ∧ (F 0).lt (F cfg.eps.toNat) = true) ∨ cfg.rounds = 0 ∨ cfg.phases = 0 ∨ 8 < cfg.phases.toNat ∨
             ¬ (finite cfg.div.toNat ∧ (F cfg.div.toNat).lt (F 0x3F800000) = false) ∨ 2 ≤ cfg.init.toNat))
         let cap := fun j => num (at_ 8) (2 * j) 2
         let price := fun j => if cfg.init = 1 then num (at_ 16) (4 * j) 4 else 0
         let ends := fun code detail => goes (.writes [] (status code detail 0 0 0 0 0) code 0)
         (∀ m, fails m → (∀ q, q < m → ¬ fails q) → ends 5 m) ∧
         ((∀ m, ¬ fails m) → inPad (at_ 0) ((R - 1) * S + C * W) → inPad (at_ 8) (2 * C) → inPad (at_ 16) (4 * C) →
           ((∃ j, j < C ∧ ¬ finite (price j)) → ends 5 5) ∧
           ((∀ j, j < C → finite (price j)) → ((List.range C).map cap).sum < R → ends 1 0) ∧
           ((∀ j, j < C → finite (price j)) → R ≤ ((List.range C).map cap).sum → ∃ x : Auc, goes (.rounds x) ∧
             x.r = R ∧ x.c = C ∧ x.w = W ∧ x.score = at_ 0 ∧ x.sstr = S ∧ x.assignA = at_ 24 ∧ x.fillA = at_ 32 ∧ x.priceA = at_ 16 ∧
             x.rounds = 0 ∧ x.ph = 0 ∧ x.eps = cfg.eps.toNat ∧ x.asg = [] ∧ x.held = [] ∧ x.outAsg = [] ∧ x.outHeld = [] ∧
             (∀ j, j < C → x.caps.getD j 0 = cap j ∧ tget 0 x.price j = price j ∧ tget 0 x.base j = price j ∧
               tget 0 x.outPrice j = price j) ∧
             ∀ i, i ∈ x.stranded ↔ i < R ∧ ∀ j, j < C → cap j = 0 ∨ score W (num (at_ 0) (i * S + j * W) W) = 0xFF800000))) ∧
       -- a step of the rounds
       (∀ x, r.stage = .rounds x →
         let U := (List.range x.r).filter fun i => (tfind x.asg i).isNone && !x.stranded.contains i
         let sc := fun i => (List.range x.c).map fun j => score x.w (num x.score (i * x.sstr + j * x.w) x.w)
         let finishes := fun (y : Auc) (code : Nat) => goes (.writes y.outputs
           (status code 0 (y.ph + 1) y.rounds y.outAsg.length y.stranded.length y.eps) code y.rounds)
         (∀ a b e q n z, U = [] → x.ph + 1 < r.cmd.cfg.phases.toNat → F x.eps = .fin a b e → F r.cmd.cfg.div.toNat = .fin q n z →
           0 < n → goes (.rounds { x with
             ph := x.ph + 1
             eps := rn (.fin a (b * z) (e * n))
             base := x.price
             held := []
             asg := [] })) ∧
         (U = [] → r.cmd.cfg.phases.toNat ≤ x.ph + 1 → finishes { x with
           outPrice := x.price
           outHeld := x.held
           outAsg := x.asg } (if x.stranded = [] then 0 else 2)) ∧
         (U ≠ [] → x.rounds = r.cmd.cfg.rounds.toNat → finishes x 3) ∧
         (U ≠ [] → x.rounds ≠ r.cmd.cfg.rounds.toNat → (x.w = 2 ∨ x.w = 4) → inPad x.score ((x.r - 1) * x.sstr + x.c * x.w) →
           ((∃ i ∈ U, x.bid (sc i) = none) → finishes { x with rounds := x.rounds + 1 } 4) ∧
           (∀ b : Nat → Nat × Nat, (∀ i ∈ U, x.bid (sc i) = some (b i)) → goes (.rounds (x.round (U.map fun i => (i, b i))))))) ∧
       -- a beat of the outputs
       ∀ w l t st code n, r.stage = .writes ((w, l) :: t) st code n → inPad w 64 → l.length ≤ 64 - w.toNat % 64 →
         now (.writes t st code n) ∧ u.ctxs = s.ctxs ∧
           ∀ p, memGet u.mem p = if key w ≤ p ∧ p < key w + l.length then l.getD (p - key w) 0 else memGet s.mem p)

/-- R22, R213, R327, R328, R330, R331 and R334: the events of stops, kills, machine checks and the fault queue. Held records
are written while COUNT is below 252; FQTAIL takes records off; a replay of a token that names nothing does nothing, and one
of a held read lets its queue go on; one of a page writes its logged beats in log order, one in a cycle (R211; log entry
145); one of a record that has not been written does nothing; a stop that is due leaves the context stopped, and one that is
late kills it; a kill that has ended leaves its context free; an uncorrectable chunk kills the contexts that its pad
concerns. That PREEMPT_STOP asked with 1 makes the request of the host or the service processor is the model's choice (log
entry 76), and so is the count of its limit (log entry 79). A PREEMPT of the context is answered when it is at rest, not at
the stop (log entry 78). -/
def Obligations.FaultEvents : Prop :=
  ∀ (s : State) (die k v : Nat),
    let d := s.die die
    let c := s.ctx k
    let count := (s.dreg die 7 0x18).toNat
    let n := (v % 256 + 256 - (s.dreg die 7 0x10).toNat % 256) % 256
    (∀ r l, s.sel = [die] → d.heldRecs = r :: l →
      (count < 252 → Steps .faultRecordDrain s ((s.modDie die fun z => { z with heldRecs := l }).fqWrite die r.bytes)) ∧
      (252 ≤ count → Steps .faultRecordDrain s s)) ∧
    (s.sel = [die, v] → n ≤ count → ∃ u : State, Steps .fqtail s u ∧ (u.dreg die 7 0x10).toNat = v % 256 ∧
      (u.dreg die 7 0x18).toNat = count - n ∧ u.mem = s.mem ∧ u.dies = s.dies ∧ u.ctxs = s.ctxs) ∧
    (s.sel = [die, v] → count < n → Steps .fqtail s s) ∧
    (s.sel = [die, v] → (tfind d.faults v = none ∨ d.unwritten v = true) → (∀ e ∈ s.replays die, e.2 ≠ v) → Steps .fltreplay s s) ∧
    (∀ core vd va, s.sel = [die, v] → tfind d.faults v = some (.page core vd va) → d.unwritten v = false →
      Steps .fltreplay s ((s.modDie die fun z => { z with faults := d.faults.filter fun e => e.1 != v }).replayNext core v)) ∧
    (∀ e, s.sel = [die, v] → tfind d.faults v = none → (s.replays die).find? (fun e => e.2 == v) = some e →
      Steps .fltreplay s (s.replayNext e.1 v)) ∧
    (∀ core,
      let logged := (s.core core).log.find? fun b => b.token == v
      (logged = none ∨ (s.core core).beatAt = some s.clock → s.replayNext core v = s) ∧
      (∀ b, logged = some b → (s.core core).beatAt ≠ some s.clock → s.replayNext core v =
        (s.replayBeat core b).modCore core fun z => { z with beatAt := some s.clock })) ∧
    (∀ core q, s.sel = [die, v] → tfind d.faults v = some (.queue core q) → q < 4 → d.unwritten v = false → ∃ u : State, Steps .fltreplay s u ∧
      (∀ j, ∀ x ∈ tget [] (u.core core).q j, x.hold ≠ some v) ∧ (∀ e ∈ (u.die die).faults, e.1 ≠ v) ∧ u.mem = s.mem ∧
      u.ctxs = s.ctxs) ∧
    (∀ p, s.sel = [k] → c.pre = some p → (∀ m, c.st ≠ .stopped m) →
      (p.left = 0 → Steps .preemptTimeoutKill s (s.kill k 0)) ∧ (p.left ≠ 0 → Steps .preemptTimeoutKill s s)) ∧
    (s.sel = [k] → (∀ r, c.st ≠ .dying r) → Steps .killFinish s s) ∧
    (∀ r x, s.sel = [k] → c.st = .dying r → (s.withdraw k).killDone k = true →
      ((s.withdraw k).die (dieOf k)).kills.find? (fun z => z.ctx == k && z.task == ((s.withdraw k).ctx k).task) = some x →
      ∃ u : State, Steps .killFinish s u ∧ u.ctx k = Ctx.reset) ∧
    (s.sel = [k] → s.stopMoves k = false → Steps .preemptStop s s) ∧
    (s.sel = [k, 1] → c.st = .running → c.pre = none → ∃ u : State, Steps .preemptStop s u ∧
      u.ctx k = { c with pre := some ⟨s.preemptLim (dieOf k) (s.vdOf k), s.clock, none⟩ } ∧ (∀ j, j ≠ k → u.ctx j = s.ctx j) ∧
      u.mem = s.mem ∧ u.dies = s.dies) ∧
    (s.sel = [k] → s.stopMoves k = true → c.st = .running → ∃ u : State, Steps .preemptStop s u ∧
      (u.ctx k).st = .stopped (if c.held = none ∧ (s.judgeHdr k).eligible = true then 0 else 1) ∧ (u.ctx k).pc = c.pc ∧
      (u.ctx k).sregs = c.sregs ∧ (∀ j, j ≠ k → u.ctx j = s.ctx j) ∧ u.mem = s.mem ∧ u.cores = s.cores) ∧
    (s.sel = [k] → s.stopMoves k = true → c.st = .ending → c.pre = none → ∃ u : State, Steps .preemptStop s u ∧
      u.ctx k = { c with
        st := .stopped 2
        lc0 := c.side0
        lc1 := c.side1 } ∧ (∀ j, j ≠ k → u.ctx j = s.ctx j) ∧ u.mem = s.mem ∧ u.cores = s.cores) ∧
    (∀ addr x, s.sel = [die, addr, k] →
      let size := if addr / 2 ^ 52 = 0xFFF ∧ addr / 2 ^ 44 % 16 ∈ [0x8, 0x9, 0xA] then 64 else 32
      let chunk := addr / size * size
      let unit := chunk / 2 ^ 44 % 16 = 0xA
      let clus := chunk / 2 ^ 44 % 16 = 0x9
      ((unit ∧ x / 4 = 64 * die + 4 * (chunk / 2 ^ 40 % 16) + chunk / 2 ^ 38 % 4) ∨ (clus ∧ x / 16 = 16 * die + chunk / 2 ^ 40 % 16) ∨
        (¬ unit ∧ ¬ clus ∧ x = k ∧ k < 4096)) →
      (s.ctx x).st = .running → ∃ u : State, Steps .machineCheck s u ∧ (u.ctx x).st = .dying 3 ∧ chunk ∈ u.bad)

/-! ## Engines, ports and the rest of the die -/

/-- R66, R73, R75, R131, R132, R177, R207, R209, R217, R218 and R221: the steps of the engines that a core and a die own:
page walks, SHADN, writebacks, late accesses, aging, the matrix engine, barrier updates and phases, decay of the counters,
demotion and migration, frame pools and table limits, the Apex engine and the delivery of events. R67, R69, R78, R146, R176,
R205, R210, R214, R340, R345 and R357 stand behind the clauses of their engines. The model's own readings: an operation
counts itself in OPNUM (log entry 117), SHADN's count (log entry 27), which barrier updates come before another's (log entry
111), a page moved in one step (log entry 52) with its uncorrectable chunks (log entry 163), the operand bytes that a matrix
operation sees of writes made while it streams (log entry 26: it keeps memory as it stood at its start, which `m.base`
holds), and CYCLES as a difference of the clock (log entry 74). An Apex command keeps its entry to the end of the cycle in
which its status is written (R339); a halted die starts no operation and delivers no event (R328), and a device that is
frozen, down or being reset starts no AGO (R352, R361). -/
def Obligations.EngineEvents : Prop :=
  ∀ (s : State) (die core k v : Nat),
    let d := s.die die
    let c := s.core core
    let rows := fun u : State => [4 * core, 4 * core + 1, 4 * core + 2, 4 * core + 3].foldl (fun t j => t.landRows j) u
    (∀ q, s.sel = [core, q] →
      (s.headCmd core q = none → Steps .pageWalk s s) ∧
      (∀ x a acc, s.headCmd core q = some x → x.live (s.die (core / 64)).halted = true →
        (s.die (core / 64)).deadVds.contains x.vd = false → s.nextVa core x = some (a, acc) →
        let va := a.toNat % 2 ^ 44
        let read := s.entriesOf (core / 64) x.vd va
        let t := s.checkEntries (core / 64) (s.reader x.done) read
        ((∀ o ∈ read, ∀ z ∈ s.bad, ¬ (hbmKey (core / 64) o < z + 32 ∧ z < hbmKey (core / 64) o + 8)) → (∀ z ∈ s.bad, isPad z = false) →
          t = s) ∧
        (∀ o z, read = [o] → s.bad = [z] → isPad z = false → z ≤ hbmKey (core / 64) o → hbmKey (core / 64) o < z + 32 →
          t = { s with agenda := s.agenda ++ [⟨.machineCheck, [core / 64, z, s.reader x.done]⟩] }) ∧
        (∀ l o e, s.walk (core / 64) x.vd va acc false = .leaf l o e →
          (e.getLsbD 7 = false → Steps .pageWalk s (t.tlbFill (core / 64) x.vd l va o e)) ∧
          (e.getLsbD 7 = true → Steps .pageWalk s t)) ∧
        (∀ o, s.walk (core / 64) x.vd va acc false = .node o → Steps .pageWalk s (t.tableNode (core / 64) x.vd o)) ∧
        (∀ f l, s.walk (core / 64) x.vd va acc false = .fault f l →
          (acc = .write → Steps .pageWalk s t) ∧
          (acc ≠ .write → Steps .pageWalk s (t.holdCmd core q x f (if acc = .atomic then 2 else 0) a))))) ∧
    (s.sel = [core, v] → Steps .shadnWrite s (s.modCore core fun z => z.writeShadn (v % 65536))) ∧
    (s.sel = [k] → Steps .resultWriteback s (s.writeback k)) ∧
    (s.sel = [core] → c.late = [] → (∀ j, j / 4 = core → ∀ r ∈ (s.ctx j).inflight, r.left ≠ 0) → ∃ u : State,
      Steps .lateAccessPerform s u ∧ (u.core core).late = [] ∧ (∀ i, (u.core core).row i = c.row i) ∧ u.mem = s.mem ∧
      ∀ j, u.ctx j = s.ctx j) ∧
    (∀ x, s.sel = [core] → c.late = [x] →
      let r := lateStep x [] (s.modCore core fun z => { z with late := [] })
      (r.1 = none → Steps .lateAccessPerform s (rows r.2)) ∧
      (∀ y, r.1 = some y → Steps .lateAccessPerform s (rows (r.2.modCore core fun z => { z with late := y :: z.late })))) ∧
    (s.sel = [k] → ∃ u : State, Steps .agingDue s u ∧ (u.ctx k).due = ((s.ctx k).due || decide (256 ≤ (s.ctx k).aging)) ∧
      (∀ j, j ≠ k → u.ctx j = s.ctx j) ∧ u.mem = s.mem) ∧
    (s.sel = [core] → c.act = none → Steps .matrixStart s s ∧ Steps .matrixComplete s s) ∧
    (let may := fun a : MatOp => s.rowsInFlight a = false ∧
       ((s.die (core / 64)).halted = false ∨ ∃ r, (s.ctx a.ctx).st = .dying r)
     let starts := fun (a : MatOp) (of_ : Core → Option MatOp) => ∃ (u : State) (m : MatOp),
       Steps .matrixStart s u ∧ of_ (u.core core) = some m ∧ m.start = some s.clock ∧ m.kind = a.kind ∧ m.tile = a.tile ∧
       m.entry = a.entry ∧ m.sh = a.sh ∧ m.done = a.done ∧ m.opnum = c.opnum + 1 ∧ (u.core core).opnum = c.opnum + 1 ∧
       (a.kind ≠ .mzero → m.base = s.mem0 ∧ m.writes = [] ∧ ∀ i, i < 64 → m.olds.getD i 0 = c.row (a.tile + i)) ∧
       u.mem = s.mem ∧ u.ctxs = s.ctxs
     (∀ a, s.sel = [core] → c.act = some a → a.start = none →
       (may a → starts a Core.act) ∧ (¬ may a → Steps .matrixStart s s)) ∧
     (∀ a p t, s.sel = [core] → c.act = some a → a.start = some t → c.pend = some p → p.start = none →
       (may p → p.tile ≠ a.tile → t + a.stream ≤ s.clock → starts p Core.pend) ∧
       (¬ may p ∨ p.tile = a.tile ∨ s.clock < t + a.stream → Steps .matrixStart s s)) ∧
     (∀ m : MatOp, (s.core (coreOf m.ctx)).late = [] → (s.rowsInFlight m = true ↔
       ∃ r, (r ∈ (s.ctx m.ctx).inflight ∨ (r ∈ (s.ctx m.ctx).latches ∧ ∀ z, (s.ctx m.ctx).st ≠ .stopped z)) ∧
         ∃ n, m.tile ≤ n ∧ n < m.tile + 64 ∧ (r.dest = .row n ∨ (∃ N, r.dest = .nib n N none) ∨
           ∃ id, id ≤ m.id ∧ (r.dest = .under n id ∨ ∃ N, r.dest = .nib n N (some id)))))) ∧
    (∀ a t, s.sel = [core] → c.act = some a → a.start = some t → a.kind = .mzero → a.done.sig = none → coreOf a.ctx = core →
      s.turn = [] → t + a.stream + 11 ≤ s.clock → ∃ u : State, Steps .matrixComplete s u ∧
        (∀ i, (u.core core).row i = if a.tile ≤ i ∧ i < a.tile + 64 then 0 else c.row i) ∧
        (u.core core).act = c.pend ∧ (u.core core).pend = none ∧ u.ctxs = s.ctxs ∧ u.mem = s.mem) ∧
    (∀ a t, s.sel = [core] → c.act = some a → a.start = some t → s.clock < t + a.stream + 11 → Steps .matrixComplete s s) ∧
    (∀ t r l, s.sel = [core] → c.shadq = (t, r) :: l → ∃ u : State, Steps .shadowRecord s u ∧ (u.core core).shadq = l ∧
      u.ctxs = s.ctxs) ∧
    (∀ w, s.sel = [die, k] → d.barQ[k]? = some w →
      let before := fun z : BarUpd => z.key = w.key ∧ (z.src = w.src ∨ z.at_ ≤ w.seen)
      ((∀ z ∈ d.barQ.take k, ¬ before z) →
        Steps .barrierUpdate s ((s.modDie die fun z => { z with barQ := d.barQ.eraseIdx k }).barUpdate w)) ∧
      ((∃ z ∈ d.barQ.take k, before z) → Steps .barrierUpdate s s)) ∧
    (s.sel = [die, k] → (s.bar k).pend = 0 → (s.bar k).pbytes = 0 → Steps .barrierAutoPhase s (s.barPhase k (s.bar k))) ∧
    (s.sel = [die, k] → (s.bar k).pend ≠ 0 → Steps .barrierAutoPhase s s) ∧
    (s.sel = [die] → ∃ u : State, Steps .rcntDecay s u ∧
      (∀ i, i < 4096 → u.dreg die 2 (0x58 + 8 * i) = s.dreg die 2 (0x58 + 8 * i) >>> 1) ∧ u.mem = s.mem ∧ u.dies = s.dies ∧
      u.ctxs = s.ctxs) ∧
    (s.sel = [die, 1] → (s.victim die 0).isNone = true → (s.victim die 1).isNone = true → (s.victim die 2).isNone = true →
      (∀ t ∈ d.demoting, t < 3) → Steps .migrationMove s s) ∧
    (∀ t p, s.sel = [die, 1] → d.demoting = [t] → s.victim die t = some p →
      Steps .migrationMove s (((s.checkMove die 4096 (frameHome die t (leafFrame p.leaf)) (pageSize p.lvl)).move die p (t + 1)).getD s)) ∧
    (∀ m l, s.sel = [die, 0] → d.migrQ = m :: l → d.halted = false → d.deadVds.contains m.vd = false →
      (m.len ≤ m.next → Steps .migrationMove s (s.migrEnd die m)) ∧
      (m.next < m.len → Steps .migrationMove s (s.migrPage die m))) ∧
    (s.sel = [die, v] →
      let tier := v / 2 ^ 62 % 4
      let size := v / 2 ^ 60 % 4
      let frame := v / 2 ^ 16 % 2 ^ 36
      (s.frameTaken die tier size frame = true → Steps .frpush s
        ((s.modDie die fun z => { z with pool := z.pool ++ [⟨tier, size, frame⟩] }).poolCheck die)) ∧
      (s.frameTaken die tier size frame = false → Steps .frpush s s)) ∧
    (∀ lim, s.sel = [die, k, lim, v] → k < 4 → ∃ u : State, Steps .trgWrite s u ∧
      (u.reg die k 2 (if lim = 0 then 0x08 else 0x10)).toNat = v / 2 ^ 16 % 2 ^ 20 * 2 ^ 16 ∧ u.ctxs = s.ctxs) ∧
    (s.sel = [die] → d.apexRun = none → d.apexQ = [] → Steps .apexStart s s) ∧
    (∀ z l, s.sel = [die] → d.apexRun = none → d.apexQ = z :: l → d.halted = false →
      s.shutVd die z.vd = false → Steps .apexStart s ((s.modDie die fun x => { x with
        apexQ := l
        apexRun := some ⟨z, s.clock, .start, [], none⟩ }).apexStep die)) ∧
    (∀ r, s.sel = [die, 1] → d.apexRun = some r → Steps .apexEnd s (s.apexStep die)) ∧
    (∀ r st code n, d.apexRun = some r → r.hold = none → d.deadVds.contains r.cmd.vd = false → r.stage = .writes [] st code n →
      s.apexStep die = s.apexDone die r st code n) ∧
    (∀ z l, s.sel = [die] → d.apexRun = none → d.apexQ = z :: l → (d.halted = true ∨ s.shutVd die z.vd = true) →
      Steps .apexStart s s) ∧
    (∀ r st code n, s.apexDone die r st code n = (s.write (0xFFF * 2 ^ 52 + r.cmd.stat.toNat % 2 ^ 52)
      (st ++ leBytes (s.clock - r.start) 8)).setRun die (r.goto (.ended code n))) ∧
    (∀ r code n, d.apexRun = some r → r.stage = .ended code n →
      let t := (s.modDie die fun z => { z with apexRun := none }).bumpDreg die 6 0 1
      let k := r.cmd.done.ctx
      (r.hold = none → d.deadVds.contains r.cmd.vd = false → s.apexStep die = s) ∧ s.apexFree die =
        (if (s.ctx k).aqid = some r.cmd.id then t.modCtx k fun z => { z with
          aqcode := code
          aqrounds := n } else t).finish r.cmd.done 0 0) ∧
    ((∀ r, d.apexRun = some r → ∀ code n, r.stage ≠ .ended code n) → s.apexFree die = s) ∧
    (s.sel = [die] → d.halted = true → Steps .eventDeliver s s) ∧
    (∀ e l, s.sel = [die] → d.evQ = e :: l → s.eventReady die = true → (s.reg die e.vd 0 0x58).toNat = 0 →
      Steps .eventDeliver s ((s.modDie die fun z => { z with evQ := l }).sigDone e.done)) ∧
    (∀ e l, s.sel = [die] → d.evQ = e :: l → s.eventReady die = true → e.done.sig = none → (s.reg die e.vd 0 0x58).toNat ≠ 0 →
      e.record.length = 64 →
      ∃ (u : State) (r : List Byte), Steps .eventDeliver s u ∧ (u.die die).evQ = l ∧
        u.wire = s.wire ++ [⟨s.place die, s.placeOf (s.reg die e.vd 0 0x50), .hostEvent
          ((s.reg die e.vd 0 0x50).toNat + 64 * (s.reg die e.vd 0 0x60).toNat) r⟩] ∧ r.take 32 = e.record.take 32 ∧ u.mem = s.mem)

/-- R353, R354, R358 and R360 to R363: the steps of the system: resets in each of their scopes, the freeze, export and import
of a virtual device, attestation, the stages of start-up (R216 and R227: the ranges that the third gives), and a write of a
register of control space that only holds its bits, but of a group that a live window uses (R245). A reset kills what its
scope covers and ends once those kills have (log entry 95, the model's reading). That export frees the exported records and
that import knows an image by its bytes is log entry 97. A write of RESET with a target outside VDCLUS, or of a die or
package scope without DIEADM, is ignored, for the package by log entry 93; scopes 6 and 7 are ignored by log entry 164; EPID
and STAGE after a package reset are log entries 3 and 24; the pads of a virtual device's reset are log entry 94; one ATTLEFT
for the package is log entry 25. -/
def Obligations.SystemEvents : Prop :=
  ∀ (s : State) (die vd v : Nat),
    let d := s.die die
    let begins := fun (x : ResetReq) (u : State) (p : Nat → Prop) =>
      (∀ k, p k → (s.ctx k).st = .running → (u.ctx k).st = .dying 2) ∧
      ((∃ k, p k ∧ (s.ctx k).st = .running) → x ∈ (u.die die).resets)
    let still := fun p : Nat → Prop => d.resets = [] ∧ (∀ k, p k → (s.ctx k).st = .free) ∧ ∀ z ∈ d.kills, ¬ p z.ctx
    (s.sel = [die, vd, v] → Steps .resetContext s (s.kill (256 * die + v % 256) 2)) ∧
    (let u := stepResetCore die vd v s
     let n := 64 * die + v / 4 % 64
     let mine := fun k => k / 4 = n
     (s.sel = [die, vd, v] → Steps .resetCore s u) ∧ (d.resets = [] → begins ⟨1, vd, v⟩ u mine ∧
        (still mine → (∀ i, (u.core n).row i = 0) ∧ (∀ i, (u.core n).sem i = 0) ∧ (u.core n).shadn = 0 ∧ u.mem = s.mem))) ∧
    (let u := stepResetCluster die vd v s
     let cl := v / 16 % 16
     let mine := fun k => k / 16 = 16 * die + cl
     (s.sel = [die, vd, v] → Steps .resetCluster s u) ∧ (d.resets = [] → begins ⟨2, vd, v⟩ u mine ∧
        (still mine →
          (∀ p, p < 2 ^ 22 → memGet u.mem (0xFFF * 2 ^ 52 + die * 2 ^ 48 + 9 * 2 ^ 44 + cl * 2 ^ 40 + p) = 0) ∧
          (∀ co p, co < 4 → p < 2 ^ 20 →
            memGet u.mem (0xFFF * 2 ^ 52 + die * 2 ^ 48 + 10 * 2 ^ 44 + cl * 2 ^ 40 + co * 2 ^ 38 + p) = 0) ∧
          ∀ co i, co < 4 → (u.core (64 * die + 4 * cl + co)).row i = 0))) ∧
    (let u := stepResetVd die vd s
     let mine := fun k => k / 256 = die ∧ s.ownerOf die (k / 16 % 16) = some vd
     (s.sel = [die, vd] → Steps .resetVd s u) ∧ (d.resets = [] → begins ⟨3, vd, 0⟩ u mine ∧
        (still mine → vd ∉ (u.die die).deadVds ∧ (∀ j ∈ (u.die die).jobs, j.vd ≠ vd) ∧ (∀ e ∈ (u.die die).chans, e.2.vd ≠ vd) ∧
          (∀ x ∈ (u.die die).spawns, x.vd ≠ vd) ∧ (∀ x ∈ (u.die die).apexQ, x.vd ≠ vd) ∧ (∀ x ∈ (u.die die).outq, x.vd ≠ vd) ∧
          (∀ e ∈ (u.die die).wins, e.2.vd = vd → e.2.live = false) ∧
          (∀ cl p, cl < 16 → (s.vdClus die vd).testBit cl = true → p < 2 ^ 22 →
            memGet u.mem (0xFFF * 2 ^ 52 + die * 2 ^ 48 + 9 * 2 ^ 44 + cl * 2 ^ 40 + p) = 0) ∧
          ∃ e ∈ (u.die die).evQ, e.vd = vd ∧ e.record.take 2 = [0x51, 0]))) ∧
    (let u := stepResetDie die vd s
     (s.sel = [die, vd] → Steps .resetDie s u) ∧ (d.resets = [] → begins ⟨4, vd, 0⟩ u (fun k => k / 256 = die) ∧
      (still (fun k => k / 256 = die) → (∀ k, k / 256 = die → u.ctx k = Ctx.reset) ∧
        (∀ n, n / 64 = die → u.core n = Core.reset) ∧ (u.die die).cycle0 = s.clock ∧ (u.die die).tlb = [] ∧
        (u.die die).jobs = [] ∧ (u.die die).outst = []))) ∧
    (let u := stepResetPackage s
     Steps .resetPackage s u ∧ u.stage = 0 ∧ u.fail = 0 ∧ u.wire = [] ∧ u.epid = 0xFFF ∧
      ∀ k, k < 4096 → u.ctx k = Ctx.reset) ∧
    (s.sel = [die, vd, v] → vd < 4 → ∃ u : State, Steps .vdfreeze s u ∧ (u.reg die vd 0 0x78).toNat = v % 2 ∧ u.mem = s.mem ∧
      u.dies = s.dies ∧ u.ctxs = s.ctxs) ∧
    (s.sel = [die, vd, v] → (s.frozenVd die vd = false ∨ s.ctxsOfVd die vd ≠ []) → Steps .vdexport s s) ∧
    (s.sel = [die, vd, v] → s.frozenVd die vd = true → s.ctxsOfVd die vd = [] → ∃ (u : State) (l : List Byte),
      Steps .vdexport s u ∧ u.exported = (l, s.vdImage die vd) :: s.exported ∧
      (∀ e ∈ (s.vdImage die vd).recs, (u.trec die e.1).st = 0) ∧ u.ctxs = s.ctxs ∧ u.cores = s.cores) ∧
    (∀ l i, s.sel = [die, vd, v] →
      s.exported.find? (fun e => s.read (0xFFF * 2 ^ 52 + die * 2 ^ 48 + 8 * 2 ^ 44 + v % 2 ^ 25) e.1.length == e.1) = some (l, i) →
      (s.vdEmpty die vd = true → s.imageTakes die vd i = true →
        Steps .vdimport s (s.modDie die fun z => z.import s.epid die vd i)) ∧
      (s.vdEmpty die vd = false → Steps .vdimport s s)) ∧
    (s.sel = [die] → d.quote = false → s.attleft ≠ 0 → ∃ u : State, Steps .attgo s u ∧ (u.die die).quote = true ∧
      (u.dreg die 0 0x128).toNat = 1 ∧ u.attleft = s.attleft ∧ u.mem = s.mem) ∧
    (s.sel = [die] → d.quote = false → s.attleft = 0 → Steps .attgo s { s with fail := 0x80 }) ∧
    (s.sel = [die] → d.quote = true → 0 < s.attleft → ∃ u : State, Steps .attestQuoteDone s u ∧ (u.die die).quote = false ∧
      u.attleft = s.attleft - 1 ∧ (u.dreg die 0 0x128).toNat = 0 ∧ u.ctxs = s.ctxs ∧
      u.mem = memPuts s.mem (0xFFF * 2 ^ 52 + die * 2 ^ 48 + 8 * 2 ^ 44 + (s.dreg die 0 0x138).toNat % 2 ^ 25) (s.quoteBytes die)) ∧
    (s.fail = 0 → s.stage < 5 → ∃ u : State, Steps .powerOn s u ∧ u.stage = s.stage + 1 ∧ u.ctxs = s.ctxs ∧
      (u.fail ≠ 0 → u.mem = s.mem ∧ u.dies = s.dies) ∧
      (u.fail = 0 → s.stage = 2 → ∀ off ∈ [0x40, 0x48], ∀ x y i, x < y → y < 16 →
        ¬ ((u.dreg x 2 off).toNat % 2 ^ 32 ≤ i ∧ i < (u.dreg x 2 off).toNat / 2 ^ 32 ∧
          (u.dreg y 2 off).toNat % 2 ^ 32 ≤ i ∧ i < (u.dreg y 2 off).toNat / 2 ^ 32)) ∧
      (u.fail = 0 → s.stage = 2 → ∀ x, x < 16 → (u.dreg x 3 0).toNat / 2 ^ 32 ≤ 65536 * s.nclus x) ∧
      (u.fail = 0 → s.stage = 3 → u.epid < 0xFFF)) ∧
    ((s.fail ≠ 0 ∨ 5 ≤ s.stage) → Steps .powerOn s s) ∧
    (s.sel = [die, vd, 0, 0x90, v] → vd < 4 → v < 2 ^ 64 →
      let scope := v / 256 % 8
      let inside := (s.vdClus die vd).testBit (v % 256 / 16) = true
      (¬ inside ∨ 6 ≤ scope ∨ (4 ≤ scope ∧ s.vdAdm die vd = false) → Steps .registerWrite s s) ∧
      (inside → scope = 0 → Steps .registerWrite s (s.kill (256 * die + v % 256) 2)) ∧
      (inside → scope = 1 → Steps .registerWrite s (stepResetCore die vd (v % 256) s)) ∧
      (inside → scope = 2 → Steps .registerWrite s (stepResetCluster die vd (v % 256) s)) ∧
      (inside → scope = 3 → Steps .registerWrite s (stepResetVd die vd s)) ∧
      (inside → s.vdAdm die vd = true → (scope = 4 → Steps .registerWrite s (stepResetDie die vd s)) ∧
        (scope = 5 → Steps .registerWrite s (stepResetPackage s)))) ∧
    (∀ off, s.sel = [die, 0xF, 4, off, v] → s.groupUsed die off = true → Steps .registerWrite s s) ∧
    (∀ block off r, s.sel = [die, 0xF, block, off, v] → regRow dieRegRows block off = some r → r.acc = .rw →
      (block = 4 → s.groupUsed die off = false) → ¬ (block = 5 ∧ 0xC000 ≤ off) →
      (block, off) ∉ [(0, 0x128), (2, 0x28), (2, 0x30), (2, 0x38), (7, 0x10)] → ∃ u : State, Steps .registerWrite s u ∧
        u.dreg die block off = BitVec.ofNat 64 v &&& r.bits ∧ u.mem = s.mem ∧ u.dies = s.dies ∧ u.ctxs = s.ctxs)

/-! ## Numbers -/

/-- R52 with RNE: a nonzero finite value that neither overflows nor saturates rounds to a finite value of its own sign that
no finite value of the format is nearer to; of two equally near ones the even one is taken; and IX is raised exactly when the
value changes. -/
def Obligations.RoundsToNearestEven : Prop :=
  ∀ (t : Ty) (neg : Bool) (n d draw : Nat), t.isInt = false → 0 < n → 0 < d →
    let r := roundTo t .rne draw (.fin neg n d)
    r.2 &&& (flOF ||| flSAT) = 0 →
    ∃ p q : Nat, floatOf t r.1 = .fin neg p q ∧ 0 < q ∧ (r.2 &&& flIX = 0 ↔ p * d = n * q) ∧
      ∀ (b p' q' : Nat) (neg' : Bool), b < 2 ^ t.bits → floatOf t b = .fin neg' p' q' →
        let mine := ((p : Int) * d - (n : Int) * q).natAbs * q'
        let its := ((if neg' = neg then (p' : Int) else -(p' : Int)) * d - (n : Int) * q').natAbs * q
        mine ≤ its ∧ (mine = its → (if neg' = neg then (p' : Int) else -(p' : Int)) * q ≠ (p : Int) * q' → r.1 % 2 = 0)

/-! ## The machine as a whole -/

/-- R25 to R28: decoding the word of a well-formed operation gives the operation back, with every operand as it was, and the
word fits its slot. -/
def Obligations.DecodeEncode : Prop :=
  ∀ i : Instr, i.wf = true → i.kind ≠ .event → decode i.kind (encode i) = .ok i ∧ encode i < 2 ^ i.kind.bits

/-- R25 and R26: an X word or a header that decodes is the one word of its operation, which is well-formed: no bit of it is
left unread. -/
def Obligations.EncodeDecode : Prop :=
  ∀ (w : Nat) (i : Instr), w < 2 ^ 32 →
    (decode .x w = .ok i → i.kind = .x ∧ i.wf = true ∧ encode i = w) ∧
    (decode .hdr w = .ok i → i.kind = .hdr ∧ i.wf = true ∧ encode i = w)

/-- R25 to R27: words written out from the encoding tables decode to what they stand for, one of each slot. -/
def Obligations.DecodeWords : Prop :=
  decode .x 0x38206380 = .ok (.cmplt 4 3 7 ⟨false, 0⟩) ∧
  decode .m 0x0205010000000000 = .ok (.mcfgi .k 256 ⟨0, 0, 0, 0, false⟩) ∧
  decode .y 0x0904000100000000 = .ok (.hwaitR 1 ⟨0, 0, 0, 0, false⟩) ∧
  decode .y 0x2418700000000000 = .ok (.flowcfg 6 7 ⟨0, 0, 0, 0, false⟩) ∧
  decode .l 0x01180A0180000040 = .ok (.ld .i64 10 ⟨6, 0, 64, ⟨false, 0⟩, false, .ctx⟩) ∧
  decode .s 0x01181401D0008000 = .ok (.st .i64 20 ⟨6, 0, 0x8000, ⟨false, 0⟩, true, .cl⟩) ∧
  decode .v 0x25D0A0200000 = .ok (.vquant .f32 40 32 0 ⟨false, 0⟩) ∧
  decode .c 0x101051800000010000000218 = .ok (.migr 4 5 6 1 none ⟨0, 0, 2, 1, true⟩) ∧
  decode .hdr 0x00300000 = .ok (.nop 3 false) ∧
  decode .x 0 = .error .illegalOpcode

/-- Every step keeps memory and the program store in canonical form: addresses strictly rising, and no byte listed that reads
as an unlisted one does. -/
def Obligations.StepKeepsMemory : Prop :=
  ∀ s t : State, s.MemWf → step s = .next t → t.MemWf

/-- Memories in canonical form that read alike are equal; what is read and written back changes nothing; and a write of bytes
is read back at its own addresses and nowhere else. -/
def Obligations.MemoryCanonical : Prop :=
  ∀ m n : List Host.Cell, Memory.wf m = true →
    (Memory.wf n = true → (∀ a, memGet m a = memGet n a) → m = n) ∧
    (∀ a k, memPuts m a (memBytes m a k) = m) ∧
    (∀ a l, memBytes (memPuts m a l) a l.length = l) ∧
    (∀ a l p, p < a ∨ a + l.length ≤ p → memGet (memPuts m a l) p = memGet m p)

/-- R54, R55, R63, R66, R81 to R83, R98, R126, R147, R181, R270, R341 and R362: what a reset leaves. That bytes outside the
pads read zero, that the package number is 0xFFF until start-up and that a program counter is 0 are the model's choices (log
entries 2 and 3), and so is stage 0 before the first stage has run (log entry 24). -/
def Obligations.ResetValues : Prop :=
  State.reset.MemWf ∧ State.reset.stage = 0 ∧ State.reset.epid = 0xFFF ∧ State.reset.clock = 0 ∧ State.reset.wire = [] ∧ (∀ a, memGet State.reset.mem a = 0) ∧
  ∀ k : Nat,
    let c := State.reset.ctx k
    let n := State.reset.core k
    c.st = .free ∧ c.pc = 0 ∧ (∀ i, c.s i = 0) ∧ (∀ i, c.k i = if i = 0 then BitVec.allOnes 256 else 0) ∧ c.flags = 0 ∧ c.trapen = 0 ∧
    c.srseed = 0x9E3779B97F4A7C15 ∧ (∀ i, c.fmtE i = 0xBBD0F000) ∧ c.ord = 1 ∧ (∀ h, c.h h = ⟨0, 0, 0, 0, 0⟩) ∧ c.sup = false ∧
    c.lc0.lc = 0 ∧ c.lc1.lc = 0 ∧ c.lc0.la = false ∧ c.lc1.la = false ∧ c.mshad = false ∧ c.rlabel = none ∧
    c.sh.banda = 0x3F80 ∧ c.sh.bandb = 0x3F80 ∧ c.sh.k = 0 ∧ c.au.eps = 0x3F800000 ∧ c.au.rounds = 0x00010000 ∧
    c.au.phases = 1 ∧ c.au.div = 0x40800000 ∧ c.au.init = 0 ∧
    (∀ i, n.row i = 0) ∧ (∀ i, n.sem i = 0) ∧ n.shadn = 0 ∧
    (∀ die vd, State.reset.preemptLim die vd = 0x00010000) ∧ (State.reset.die k).recs = [] ∧ (State.reset.die k).wins = [] ∧
    (State.reset.die k).chans = []

/-- R71, R72, R76 and R89: a core's turn in which one context alone holds a task, its bundle has one operation that decodes
and nothing bars or blocks it, runs exactly that instruction for that context, and moves it on when it has issued: to the
bundle after it, unless a transfer or a loop is under way, with the clock at which it last learned of another's work (log
entry 111), and a matrix operation of a bundle that passes a wait with the writes it is to see (R298; log entry 26). An event
at the head of the agenda runs as its instruction. -/
def Obligations.StepRunsDecoded : Prop :=
  ∀ (s : State) (k : Nat) (l : List Nat) (sl : Slot) (i : Instr),
    let n := k / 4
    let s1 := { s with turn := l }
    let c := s.ctx k
    let die := k / 256
    let a := s1.acting k sl
    let alone := s.agenda = [] ∧ s.turn = n :: l ∧ n ≠ 1024 ∧ (s.core n).late = [] ∧ (s.core n).freeze = false ∧
      c.st = .running ∧ c.held = none ∧ c.idle = 0 ∧ (s.die die).halted = false ∧
      (∀ j, j / 4 = n → j ≠ k → (s.ctx j).st = .free) ∧ (s1.judge k).eligible = true ∧ s1.barred k = none
    let then_ := fun (o : Host.Outcome State Fault Refusal) => andThen o fun t =>
      let u := (s1.acting k .hdr).moveOn k t
      .next ((u.age [(k, s1.judge k)] fun j => j == k && u.last == .issued).stalls n [])
    (alone → s.slotsAt die c.pc = [(sl, .ok i)] → step s = then_ (exec i a)) ∧
    (alone → sl = .hdr → (s.hdr die c.pc.toNat).mask = 0 → decodeHdr (s.fetchNat die c.pc.toNat 4) = .ok i →
      step s = then_ (exec i a)) ∧
    (∀ t : State, t.last = .issued → (t.ctx k).st = .running → (t.ctx k).xfer = none → c.xfer = none → c.idle = 0 →
      (t.ctx k).lc0.la = false → (t.ctx k).lc1.la = false → (∀ u ∈ (t.die die).barQ, ¬ (u.src = k ∧ u.at_ = t.clock)) →
      (∀ m, ((t.core n).act = some m ∨ (t.core n).pend = some m) → ¬ (m.ctx = k ∧ s.bids ≤ m.id)) → (s.hdr die c.pc.toNat).mask ≠ 0 → (s.hdr die c.pc.toNat).e = 0 →
      s.moveOn k t = t.setCtx k { t.ctx k with
        lastPc := (t.ctx k).pc
        pc := s.after die c.pc
        idle := 0
        aging := 0
        due := false
        stall := 0
        synced := s.syncedAt k }) ∧
    (∀ (t : State) (m : MatOp), t.last = .issued → (t.ctx k).st = .running → c.idle = 0 → m.ctx = k → s.bids ≤ m.id → s.passesWait k = true →
      let pad := 0xFFF * 2 ^ 52 + die * 2 ^ 48 + 0xA * 2 ^ 44 + k / 16 % 16 * 2 ^ 40 + k / 4 % 4 * 2 ^ 38
      let sees := (t.clock, (s.writes.filter fun w => decide (w.1 < pad + 2 ^ 20) && decide (pad < w.1 + w.2.length)).length)
      ((t.core n).act = some m → ((s.moveOn k t).core n).act = some { m with sees := sees }) ∧
      ((t.core n).pend = some m → ((s.moveOn k t).core n).pend = some { m with sees := sees })) ∧
    (∀ e rest, s.agenda = e :: rest → step s = exec e.op { s with
      agenda := rest
      sel := e.args })
end

