-- ==== Sys2Proof/Laws/State.lean ====
section
/-! SUPPORT. Small laws of the state: tables, and one lemma per field per update, so that no proof unfolds a record
update. -/

namespace Sys2Proof.Machine

/-! ## Tables -/

theorem tget_tput {α : Type} (d : α) (t : Tbl α) (k j : Nat) (v : α) :
    tget d (tput t k v) j = if j = k then v else tget d t j := by
  induction t with
  | nil => simp [tput, tget]
  | cons e t ih =>
    obtain ⟨i, w⟩ := e
    simp only [tput]
    split
    · subst i; simp only [tget]; split <;> simp_all
    · split
      · simp only [tget]
      · simp only [tget, ih]
        split <;> split <;> simp_all

@[simp] theorem tget_tput_self {α : Type} (d : α) (t : Tbl α) (k : Nat) (v : α) : tget d (tput t k v) k = v := by
  simp [tget_tput]

theorem tget_tput_ne {α : Type} (d : α) (t : Tbl α) {k j : Nat} (v : α) (h : j ≠ k) :
    tget d (tput t k v) j = tget d t j := by
  simp [tget_tput, h]

/-! ## Contexts, cores and dies -/

@[simp] theorem ctx_setCtx (s : State) (k : Nat) (c : Ctx) : (s.setCtx k c).ctx k = c := by
  simp [State.ctx, State.setCtx]

theorem ctx_setCtx_ne (s : State) {k j : Nat} (c : Ctx) (h : j ≠ k) : (s.setCtx k c).ctx j = s.ctx j := by
  simp [State.ctx, State.setCtx, tget_tput_ne _ _ _ h]

@[simp] theorem core_setCore (s : State) (n : Nat) (c : Core) : (s.setCore n c).core n = c := by
  simp [State.core, State.setCore]

theorem core_setCore_ne (s : State) {n m : Nat} (c : Core) (h : m ≠ n) : (s.setCore n c).core m = s.core m := by
  simp [State.core, State.setCore, tget_tput_ne _ _ _ h]

@[simp] theorem die_setDie (s : State) (n : Nat) (d : Die) : (s.setDie n d).die n = d := by
  simp [State.die, State.setDie]

theorem die_setDie_ne (s : State) {n m : Nat} (d : Die) (h : m ≠ n) : (s.setDie n d).die m = s.die m := by
  simp [State.die, State.setDie, tget_tput_ne _ _ _ h]

@[simp] theorem ctx_modCtx (s : State) (k : Nat) (f : Ctx → Ctx) : (s.modCtx k f).ctx k = f (s.ctx k) := by
  simp [State.modCtx]

theorem ctx_modCtx_ne (s : State) {k j : Nat} (f : Ctx → Ctx) (h : j ≠ k) : (s.modCtx k f).ctx j = s.ctx j := by
  simp [State.modCtx, ctx_setCtx_ne _ _ h]

@[simp] theorem core_modCore (s : State) (n : Nat) (f : Core → Core) : (s.modCore n f).core n = f (s.core n) := by
  simp [State.modCore]

theorem core_modCore_ne (s : State) {n m : Nat} (f : Core → Core) (h : m ≠ n) : (s.modCore n f).core m = s.core m := by
  simp [State.modCore, core_setCore_ne _ _ h]

@[simp] theorem die_modDie (s : State) (n : Nat) (f : Die → Die) : (s.modDie n f).die n = f (s.die n) := by
  simp [State.modDie]

theorem die_modDie_ne (s : State) {n m : Nat} (f : Die → Die) (h : m ≠ n) : (s.modDie n f).die m = s.die m := by
  simp [State.modDie, die_setDie_ne _ _ h]

@[simp] theorem core_setCtx (s : State) (k n : Nat) (c : Ctx) : (s.setCtx k c).core n = s.core n := rfl
@[simp] theorem die_setCtx (s : State) (k n : Nat) (c : Ctx) : (s.setCtx k c).die n = s.die n := rfl
@[simp] theorem ctx_setCore (s : State) (n k : Nat) (c : Core) : (s.setCore n c).ctx k = s.ctx k := rfl
@[simp] theorem die_setCore (s : State) (n m : Nat) (c : Core) : (s.setCore n c).die m = s.die m := rfl
@[simp] theorem ctx_setDie (s : State) (n k : Nat) (d : Die) : (s.setDie n d).ctx k = s.ctx k := rfl
@[simp] theorem core_setDie (s : State) (n m : Nat) (d : Die) : (s.setDie n d).core m = s.core m := rfl
@[simp] theorem core_modCtx (s : State) (k n : Nat) (f : Ctx → Ctx) : (s.modCtx k f).core n = s.core n := rfl
@[simp] theorem die_modCtx (s : State) (k n : Nat) (f : Ctx → Ctx) : (s.modCtx k f).die n = s.die n := rfl
@[simp] theorem ctx_modCore (s : State) (n k : Nat) (f : Core → Core) : (s.modCore n f).ctx k = s.ctx k := rfl
@[simp] theorem die_modCore (s : State) (n m : Nat) (f : Core → Core) : (s.modCore n f).die m = s.die m := rfl
@[simp] theorem ctx_modDie (s : State) (n k : Nat) (f : Die → Die) : (s.modDie n f).ctx k = s.ctx k := rfl
@[simp] theorem core_modDie (s : State) (n m : Nat) (f : Die → Die) : (s.modDie n f).core m = s.core m := rfl

/-! ## The other fields under each update -/

@[simp] theorem setCtx_clock (s : State) (k : Nat) (c : Ctx) : (s.setCtx k c).clock = s.clock := rfl
@[simp] theorem setCtx_agenda (s : State) (k : Nat) (c : Ctx) : (s.setCtx k c).agenda = s.agenda := rfl
@[simp] theorem setCtx_sel (s : State) (k : Nat) (c : Ctx) : (s.setCtx k c).sel = s.sel := rfl
@[simp] theorem setCtx_turn (s : State) (k : Nat) (c : Ctx) : (s.setCtx k c).turn = s.turn := rfl
@[simp] theorem setCtx_cur (s : State) (k : Nat) (c : Ctx) : (s.setCtx k c).cur = s.cur := rfl
@[simp] theorem setCtx_slot (s : State) (k : Nat) (c : Ctx) : (s.setCtx k c).slot = s.slot := rfl
@[simp] theorem setCtx_last (s : State) (k : Nat) (c : Ctx) : (s.setCtx k c).last = s.last := rfl
@[simp] theorem setCtx_mark (s : State) (k : Nat) (c : Ctx) : (s.setCtx k c).mark = s.mark := rfl
@[simp] theorem setCtx_cores (s : State) (k : Nat) (c : Ctx) : (s.setCtx k c).cores = s.cores := rfl
@[simp] theorem setCtx_dies (s : State) (k : Nat) (c : Ctx) : (s.setCtx k c).dies = s.dies := rfl
@[simp] theorem setCtx_creg (s : State) (k : Nat) (c : Ctx) : (s.setCtx k c).creg = s.creg := rfl
@[simp] theorem setCtx_mem (s : State) (k : Nat) (c : Ctx) : (s.setCtx k c).mem = s.mem := rfl
@[simp] theorem setCtx_dirty (s : State) (k : Nat) (c : Ctx) : (s.setCtx k c).dirty = s.dirty := rfl
@[simp] theorem setCtx_bad (s : State) (k : Nat) (c : Ctx) : (s.setCtx k c).bad = s.bad := rfl
@[simp] theorem setCtx_code (s : State) (k : Nat) (c : Ctx) : (s.setCtx k c).code = s.code := rfl
@[simp] theorem setCtx_wire (s : State) (k : Nat) (c : Ctx) : (s.setCtx k c).wire = s.wire := rfl
@[simp] theorem setCtx_reduce (s : State) (k : Nat) (c : Ctx) : (s.setCtx k c).reduce = s.reduce := rfl
@[simp] theorem setCtx_rgroups (s : State) (k : Nat) (c : Ctx) : (s.setCtx k c).rgroups = s.rgroups := rfl
@[simp] theorem setCtx_exported (s : State) (k : Nat) (c : Ctx) : (s.setCtx k c).exported = s.exported := rfl
@[simp] theorem setCtx_banks (s : State) (k : Nat) (c : Ctx) : (s.setCtx k c).banks = s.banks := rfl
@[simp] theorem setCtx_counts (s : State) (k : Nat) (c : Ctx) : (s.setCtx k c).counts = s.counts := rfl
@[simp] theorem setCtx_mem0 (s : State) (k : Nat) (c : Ctx) : (s.setCtx k c).mem0 = s.mem0 := rfl
@[simp] theorem setCtx_writes (s : State) (k : Nat) (c : Ctx) : (s.setCtx k c).writes = s.writes := rfl
@[simp] theorem setCtx_bids (s : State) (k : Nat) (c : Ctx) : (s.setCtx k c).bids = s.bids := rfl
@[simp] theorem setCtx_free (s : State) (k : Nat) (c : Ctx) : (s.setCtx k c).free = s.free := rfl
@[simp] theorem setCtx_epid (s : State) (k : Nat) (c : Ctx) : (s.setCtx k c).epid = s.epid := rfl
@[simp] theorem setCtx_stage (s : State) (k : Nat) (c : Ctx) : (s.setCtx k c).stage = s.stage := rfl
@[simp] theorem setCtx_fail (s : State) (k : Nat) (c : Ctx) : (s.setCtx k c).fail = s.fail := rfl
@[simp] theorem setCtx_attleft (s : State) (k : Nat) (c : Ctx) : (s.setCtx k c).attleft = s.attleft := rfl

@[simp] theorem modCtx_clock (s : State) (k : Nat) (f : Ctx → Ctx) : (s.modCtx k f).clock = s.clock := rfl
@[simp] theorem modCtx_agenda (s : State) (k : Nat) (f : Ctx → Ctx) : (s.modCtx k f).agenda = s.agenda := rfl
@[simp] theorem modCtx_sel (s : State) (k : Nat) (f : Ctx → Ctx) : (s.modCtx k f).sel = s.sel := rfl
@[simp] theorem modCtx_turn (s : State) (k : Nat) (f : Ctx → Ctx) : (s.modCtx k f).turn = s.turn := rfl
@[simp] theorem modCtx_cur (s : State) (k : Nat) (f : Ctx → Ctx) : (s.modCtx k f).cur = s.cur := rfl
@[simp] theorem modCtx_slot (s : State) (k : Nat) (f : Ctx → Ctx) : (s.modCtx k f).slot = s.slot := rfl
@[simp] theorem modCtx_last (s : State) (k : Nat) (f : Ctx → Ctx) : (s.modCtx k f).last = s.last := rfl
@[simp] theorem modCtx_mark (s : State) (k : Nat) (f : Ctx → Ctx) : (s.modCtx k f).mark = s.mark := rfl
@[simp] theorem modCtx_cores (s : State) (k : Nat) (f : Ctx → Ctx) : (s.modCtx k f).cores = s.cores := rfl
@[simp] theorem modCtx_dies (s : State) (k : Nat) (f : Ctx → Ctx) : (s.modCtx k f).dies = s.dies := rfl
@[simp] theorem modCtx_creg (s : State) (k : Nat) (f : Ctx → Ctx) : (s.modCtx k f).creg = s.creg := rfl
@[simp] theorem modCtx_mem (s : State) (k : Nat) (f : Ctx → Ctx) : (s.modCtx k f).mem = s.mem := rfl
@[simp] theorem modCtx_dirty (s : State) (k : Nat) (f : Ctx → Ctx) : (s.modCtx k f).dirty = s.dirty := rfl
@[simp] theorem modCtx_bad (s : State) (k : Nat) (f : Ctx → Ctx) : (s.modCtx k f).bad = s.bad := rfl
@[simp] theorem modCtx_code (s : State) (k : Nat) (f : Ctx → Ctx) : (s.modCtx k f).code = s.code := rfl
@[simp] theorem modCtx_wire (s : State) (k : Nat) (f : Ctx → Ctx) : (s.modCtx k f).wire = s.wire := rfl
@[simp] theorem modCtx_reduce (s : State) (k : Nat) (f : Ctx → Ctx) : (s.modCtx k f).reduce = s.reduce := rfl
@[simp] theorem modCtx_rgroups (s : State) (k : Nat) (f : Ctx → Ctx) : (s.modCtx k f).rgroups = s.rgroups := rfl
@[simp] theorem modCtx_exported (s : State) (k : Nat) (f : Ctx → Ctx) : (s.modCtx k f).exported = s.exported := rfl
@[simp] theorem modCtx_banks (s : State) (k : Nat) (f : Ctx → Ctx) : (s.modCtx k f).banks = s.banks := rfl
@[simp] theorem modCtx_counts (s : State) (k : Nat) (f : Ctx → Ctx) : (s.modCtx k f).counts = s.counts := rfl
@[simp] theorem modCtx_mem0 (s : State) (k : Nat) (f : Ctx → Ctx) : (s.modCtx k f).mem0 = s.mem0 := rfl
@[simp] theorem modCtx_writes (s : State) (k : Nat) (f : Ctx → Ctx) : (s.modCtx k f).writes = s.writes := rfl
@[simp] theorem modCtx_bids (s : State) (k : Nat) (f : Ctx → Ctx) : (s.modCtx k f).bids = s.bids := rfl
@[simp] theorem modCtx_free (s : State) (k : Nat) (f : Ctx → Ctx) : (s.modCtx k f).free = s.free := rfl
@[simp] theorem modCtx_epid (s : State) (k : Nat) (f : Ctx → Ctx) : (s.modCtx k f).epid = s.epid := rfl
@[simp] theorem modCtx_stage (s : State) (k : Nat) (f : Ctx → Ctx) : (s.modCtx k f).stage = s.stage := rfl
@[simp] theorem modCtx_fail (s : State) (k : Nat) (f : Ctx → Ctx) : (s.modCtx k f).fail = s.fail := rfl
@[simp] theorem modCtx_attleft (s : State) (k : Nat) (f : Ctx → Ctx) : (s.modCtx k f).attleft = s.attleft := rfl

@[simp] theorem setCore_clock (s : State) (n : Nat) (c : Core) : (s.setCore n c).clock = s.clock := rfl
@[simp] theorem setCore_agenda (s : State) (n : Nat) (c : Core) : (s.setCore n c).agenda = s.agenda := rfl
@[simp] theorem setCore_sel (s : State) (n : Nat) (c : Core) : (s.setCore n c).sel = s.sel := rfl
@[simp] theorem setCore_turn (s : State) (n : Nat) (c : Core) : (s.setCore n c).turn = s.turn := rfl
@[simp] theorem setCore_cur (s : State) (n : Nat) (c : Core) : (s.setCore n c).cur = s.cur := rfl
@[simp] theorem setCore_slot (s : State) (n : Nat) (c : Core) : (s.setCore n c).slot = s.slot := rfl
@[simp] theorem setCore_last (s : State) (n : Nat) (c : Core) : (s.setCore n c).last = s.last := rfl
@[simp] theorem setCore_mark (s : State) (n : Nat) (c : Core) : (s.setCore n c).mark = s.mark := rfl
@[simp] theorem setCore_ctxs (s : State) (n : Nat) (c : Core) : (s.setCore n c).ctxs = s.ctxs := rfl
@[simp] theorem setCore_dies (s : State) (n : Nat) (c : Core) : (s.setCore n c).dies = s.dies := rfl
@[simp] theorem setCore_creg (s : State) (n : Nat) (c : Core) : (s.setCore n c).creg = s.creg := rfl
@[simp] theorem setCore_mem (s : State) (n : Nat) (c : Core) : (s.setCore n c).mem = s.mem := rfl
@[simp] theorem setCore_dirty (s : State) (n : Nat) (c : Core) : (s.setCore n c).dirty = s.dirty := rfl
@[simp] theorem setCore_bad (s : State) (n : Nat) (c : Core) : (s.setCore n c).bad = s.bad := rfl
@[simp] theorem setCore_code (s : State) (n : Nat) (c : Core) : (s.setCore n c).code = s.code := rfl
@[simp] theorem setCore_wire (s : State) (n : Nat) (c : Core) : (s.setCore n c).wire = s.wire := rfl
@[simp] theorem setCore_reduce (s : State) (n : Nat) (c : Core) : (s.setCore n c).reduce = s.reduce := rfl
@[simp] theorem setCore_rgroups (s : State) (n : Nat) (c : Core) : (s.setCore n c).rgroups = s.rgroups := rfl
@[simp] theorem setCore_exported (s : State) (n : Nat) (c : Core) : (s.setCore n c).exported = s.exported := rfl
@[simp] theorem setCore_banks (s : State) (n : Nat) (c : Core) : (s.setCore n c).banks = s.banks := rfl
@[simp] theorem setCore_counts (s : State) (n : Nat) (c : Core) : (s.setCore n c).counts = s.counts := rfl
@[simp] theorem setCore_mem0 (s : State) (n : Nat) (c : Core) : (s.setCore n c).mem0 = s.mem0 := rfl
@[simp] theorem setCore_writes (s : State) (n : Nat) (c : Core) : (s.setCore n c).writes = s.writes := rfl
@[simp] theorem setCore_bids (s : State) (n : Nat) (c : Core) : (s.setCore n c).bids = s.bids := rfl
@[simp] theorem setCore_free (s : State) (n : Nat) (c : Core) : (s.setCore n c).free = s.free := rfl
@[simp] theorem setCore_epid (s : State) (n : Nat) (c : Core) : (s.setCore n c).epid = s.epid := rfl
@[simp] theorem setCore_stage (s : State) (n : Nat) (c : Core) : (s.setCore n c).stage = s.stage := rfl
@[simp] theorem setCore_fail (s : State) (n : Nat) (c : Core) : (s.setCore n c).fail = s.fail := rfl
@[simp] theorem setCore_attleft (s : State) (n : Nat) (c : Core) : (s.setCore n c).attleft = s.attleft := rfl

@[simp] theorem modCore_clock (s : State) (n : Nat) (f : Core → Core) : (s.modCore n f).clock = s.clock := rfl
@[simp] theorem modCore_agenda (s : State) (n : Nat) (f : Core → Core) : (s.modCore n f).agenda = s.agenda := rfl
@[simp] theorem modCore_sel (s : State) (n : Nat) (f : Core → Core) : (s.modCore n f).sel = s.sel := rfl
@[simp] theorem modCore_turn (s : State) (n : Nat) (f : Core → Core) : (s.modCore n f).turn = s.turn := rfl
@[simp] theorem modCore_cur (s : State) (n : Nat) (f : Core → Core) : (s.modCore n f).cur = s.cur := rfl
@[simp] theorem modCore_slot (s : State) (n : Nat) (f : Core → Core) : (s.modCore n f).slot = s.slot := rfl
@[simp] theorem modCore_last (s : State) (n : Nat) (f : Core → Core) : (s.modCore n f).last = s.last := rfl
@[simp] theorem modCore_mark (s : State) (n : Nat) (f : Core → Core) : (s.modCore n f).mark = s.mark := rfl
@[simp] theorem modCore_ctxs (s : State) (n : Nat) (f : Core → Core) : (s.modCore n f).ctxs = s.ctxs := rfl
@[simp] theorem modCore_dies (s : State) (n : Nat) (f : Core → Core) : (s.modCore n f).dies = s.dies := rfl
@[simp] theorem modCore_creg (s : State) (n : Nat) (f : Core → Core) : (s.modCore n f).creg = s.creg := rfl
@[simp] theorem modCore_mem (s : State) (n : Nat) (f : Core → Core) : (s.modCore n f).mem = s.mem := rfl
@[simp] theorem modCore_dirty (s : State) (n : Nat) (f : Core → Core) : (s.modCore n f).dirty = s.dirty := rfl
@[simp] theorem modCore_bad (s : State) (n : Nat) (f : Core → Core) : (s.modCore n f).bad = s.bad := rfl
@[simp] theorem modCore_code (s : State) (n : Nat) (f : Core → Core) : (s.modCore n f).code = s.code := rfl
@[simp] theorem modCore_wire (s : State) (n : Nat) (f : Core → Core) : (s.modCore n f).wire = s.wire := rfl
@[simp] theorem modCore_reduce (s : State) (n : Nat) (f : Core → Core) : (s.modCore n f).reduce = s.reduce := rfl
@[simp] theorem modCore_rgroups (s : State) (n : Nat) (f : Core → Core) : (s.modCore n f).rgroups = s.rgroups := rfl
@[simp] theorem modCore_exported (s : State) (n : Nat) (f : Core → Core) : (s.modCore n f).exported = s.exported := rfl
@[simp] theorem modCore_banks (s : State) (n : Nat) (f : Core → Core) : (s.modCore n f).banks = s.banks := rfl
@[simp] theorem modCore_counts (s : State) (n : Nat) (f : Core → Core) : (s.modCore n f).counts = s.counts := rfl
@[simp] theorem modCore_mem0 (s : State) (n : Nat) (f : Core → Core) : (s.modCore n f).mem0 = s.mem0 := rfl
@[simp] theorem modCore_writes (s : State) (n : Nat) (f : Core → Core) : (s.modCore n f).writes = s.writes := rfl
@[simp] theorem modCore_bids (s : State) (n : Nat) (f : Core → Core) : (s.modCore n f).bids = s.bids := rfl
@[simp] theorem modCore_free (s : State) (n : Nat) (f : Core → Core) : (s.modCore n f).free = s.free := rfl
@[simp] theorem modCore_epid (s : State) (n : Nat) (f : Core → Core) : (s.modCore n f).epid = s.epid := rfl
@[simp] theorem modCore_stage (s : State) (n : Nat) (f : Core → Core) : (s.modCore n f).stage = s.stage := rfl
@[simp] theorem modCore_fail (s : State) (n : Nat) (f : Core → Core) : (s.modCore n f).fail = s.fail := rfl
@[simp] theorem modCore_attleft (s : State) (n : Nat) (f : Core → Core) : (s.modCore n f).attleft = s.attleft := rfl

@[simp] theorem setDie_clock (s : State) (n : Nat) (d : Die) : (s.setDie n d).clock = s.clock := rfl
@[simp] theorem setDie_agenda (s : State) (n : Nat) (d : Die) : (s.setDie n d).agenda = s.agenda := rfl
@[simp] theorem setDie_sel (s : State) (n : Nat) (d : Die) : (s.setDie n d).sel = s.sel := rfl
@[simp] theorem setDie_turn (s : State) (n : Nat) (d : Die) : (s.setDie n d).turn = s.turn := rfl
@[simp] theorem setDie_cur (s : State) (n : Nat) (d : Die) : (s.setDie n d).cur = s.cur := rfl
@[simp] theorem setDie_slot (s : State) (n : Nat) (d : Die) : (s.setDie n d).slot = s.slot := rfl
@[simp] theorem setDie_last (s : State) (n : Nat) (d : Die) : (s.setDie n d).last = s.last := rfl
@[simp] theorem setDie_mark (s : State) (n : Nat) (d : Die) : (s.setDie n d).mark = s.mark := rfl
@[simp] theorem setDie_ctxs (s : State) (n : Nat) (d : Die) : (s.setDie n d).ctxs = s.ctxs := rfl
@[simp] theorem setDie_cores (s : State) (n : Nat) (d : Die) : (s.setDie n d).cores = s.cores := rfl
@[simp] theorem setDie_creg (s : State) (n : Nat) (d : Die) : (s.setDie n d).creg = s.creg := rfl
@[simp] theorem setDie_mem (s : State) (n : Nat) (d : Die) : (s.setDie n d).mem = s.mem := rfl
@[simp] theorem setDie_dirty (s : State) (n : Nat) (d : Die) : (s.setDie n d).dirty = s.dirty := rfl
@[simp] theorem setDie_bad (s : State) (n : Nat) (d : Die) : (s.setDie n d).bad = s.bad := rfl
@[simp] theorem setDie_code (s : State) (n : Nat) (d : Die) : (s.setDie n d).code = s.code := rfl
@[simp] theorem setDie_wire (s : State) (n : Nat) (d : Die) : (s.setDie n d).wire = s.wire := rfl
@[simp] theorem setDie_reduce (s : State) (n : Nat) (d : Die) : (s.setDie n d).reduce = s.reduce := rfl
@[simp] theorem setDie_rgroups (s : State) (n : Nat) (d : Die) : (s.setDie n d).rgroups = s.rgroups := rfl
@[simp] theorem setDie_exported (s : State) (n : Nat) (d : Die) : (s.setDie n d).exported = s.exported := rfl
@[simp] theorem setDie_banks (s : State) (n : Nat) (d : Die) : (s.setDie n d).banks = s.banks := rfl
@[simp] theorem setDie_counts (s : State) (n : Nat) (d : Die) : (s.setDie n d).counts = s.counts := rfl
@[simp] theorem setDie_mem0 (s : State) (n : Nat) (d : Die) : (s.setDie n d).mem0 = s.mem0 := rfl
@[simp] theorem setDie_writes (s : State) (n : Nat) (d : Die) : (s.setDie n d).writes = s.writes := rfl
@[simp] theorem setDie_bids (s : State) (n : Nat) (d : Die) : (s.setDie n d).bids = s.bids := rfl
@[simp] theorem setDie_free (s : State) (n : Nat) (d : Die) : (s.setDie n d).free = s.free := rfl
@[simp] theorem setDie_epid (s : State) (n : Nat) (d : Die) : (s.setDie n d).epid = s.epid := rfl
@[simp] theorem setDie_stage (s : State) (n : Nat) (d : Die) : (s.setDie n d).stage = s.stage := rfl
@[simp] theorem setDie_fail (s : State) (n : Nat) (d : Die) : (s.setDie n d).fail = s.fail := rfl
@[simp] theorem setDie_attleft (s : State) (n : Nat) (d : Die) : (s.setDie n d).attleft = s.attleft := rfl

@[simp] theorem modDie_clock (s : State) (n : Nat) (f : Die → Die) : (s.modDie n f).clock = s.clock := rfl
@[simp] theorem modDie_agenda (s : State) (n : Nat) (f : Die → Die) : (s.modDie n f).agenda = s.agenda := rfl
@[simp] theorem modDie_sel (s : State) (n : Nat) (f : Die → Die) : (s.modDie n f).sel = s.sel := rfl
@[simp] theorem modDie_turn (s : State) (n : Nat) (f : Die → Die) : (s.modDie n f).turn = s.turn := rfl
@[simp] theorem modDie_cur (s : State) (n : Nat) (f : Die → Die) : (s.modDie n f).cur = s.cur := rfl
@[simp] theorem modDie_slot (s : State) (n : Nat) (f : Die → Die) : (s.modDie n f).slot = s.slot := rfl
@[simp] theorem modDie_last (s : State) (n : Nat) (f : Die → Die) : (s.modDie n f).last = s.last := rfl
@[simp] theorem modDie_mark (s : State) (n : Nat) (f : Die → Die) : (s.modDie n f).mark = s.mark := rfl
@[simp] theorem modDie_ctxs (s : State) (n : Nat) (f : Die → Die) : (s.modDie n f).ctxs = s.ctxs := rfl
@[simp] theorem modDie_cores (s : State) (n : Nat) (f : Die → Die) : (s.modDie n f).cores = s.cores := rfl
@[simp] theorem modDie_creg (s : State) (n : Nat) (f : Die → Die) : (s.modDie n f).creg = s.creg := rfl
@[simp] theorem modDie_mem (s : State) (n : Nat) (f : Die → Die) : (s.modDie n f).mem = s.mem := rfl
@[simp] theorem modDie_dirty (s : State) (n : Nat) (f : Die → Die) : (s.modDie n f).dirty = s.dirty := rfl
@[simp] theorem modDie_bad (s : State) (n : Nat) (f : Die → Die) : (s.modDie n f).bad = s.bad := rfl
@[simp] theorem modDie_code (s : State) (n : Nat) (f : Die → Die) : (s.modDie n f).code = s.code := rfl
@[simp] theorem modDie_wire (s : State) (n : Nat) (f : Die → Die) : (s.modDie n f).wire = s.wire := rfl
@[simp] theorem modDie_reduce (s : State) (n : Nat) (f : Die → Die) : (s.modDie n f).reduce = s.reduce := rfl
@[simp] theorem modDie_rgroups (s : State) (n : Nat) (f : Die → Die) : (s.modDie n f).rgroups = s.rgroups := rfl
@[simp] theorem modDie_exported (s : State) (n : Nat) (f : Die → Die) : (s.modDie n f).exported = s.exported := rfl
@[simp] theorem modDie_banks (s : State) (n : Nat) (f : Die → Die) : (s.modDie n f).banks = s.banks := rfl
@[simp] theorem modDie_counts (s : State) (n : Nat) (f : Die → Die) : (s.modDie n f).counts = s.counts := rfl
@[simp] theorem modDie_mem0 (s : State) (n : Nat) (f : Die → Die) : (s.modDie n f).mem0 = s.mem0 := rfl
@[simp] theorem modDie_writes (s : State) (n : Nat) (f : Die → Die) : (s.modDie n f).writes = s.writes := rfl
@[simp] theorem modDie_bids (s : State) (n : Nat) (f : Die → Die) : (s.modDie n f).bids = s.bids := rfl
@[simp] theorem modDie_free (s : State) (n : Nat) (f : Die → Die) : (s.modDie n f).free = s.free := rfl
@[simp] theorem modDie_epid (s : State) (n : Nat) (f : Die → Die) : (s.modDie n f).epid = s.epid := rfl
@[simp] theorem modDie_stage (s : State) (n : Nat) (f : Die → Die) : (s.modDie n f).stage = s.stage := rfl
@[simp] theorem modDie_fail (s : State) (n : Nat) (f : Die → Die) : (s.modDie n f).fail = s.fail := rfl
@[simp] theorem modDie_attleft (s : State) (n : Nat) (f : Die → Die) : (s.modDie n f).attleft = s.attleft := rfl

@[simp] theorem push_clock (s : State) (k : Nat) (r : Result) : (s.push k r).clock = s.clock := rfl
@[simp] theorem push_agenda (s : State) (k : Nat) (r : Result) : (s.push k r).agenda = s.agenda := rfl
@[simp] theorem push_sel (s : State) (k : Nat) (r : Result) : (s.push k r).sel = s.sel := rfl
@[simp] theorem push_turn (s : State) (k : Nat) (r : Result) : (s.push k r).turn = s.turn := rfl
@[simp] theorem push_cur (s : State) (k : Nat) (r : Result) : (s.push k r).cur = s.cur := rfl
@[simp] theorem push_slot (s : State) (k : Nat) (r : Result) : (s.push k r).slot = s.slot := rfl
@[simp] theorem push_last (s : State) (k : Nat) (r : Result) : (s.push k r).last = s.last := rfl
@[simp] theorem push_mark (s : State) (k : Nat) (r : Result) : (s.push k r).mark = s.mark := rfl
@[simp] theorem push_cores (s : State) (k : Nat) (r : Result) : (s.push k r).cores = s.cores := rfl
@[simp] theorem push_dies (s : State) (k : Nat) (r : Result) : (s.push k r).dies = s.dies := rfl
@[simp] theorem push_creg (s : State) (k : Nat) (r : Result) : (s.push k r).creg = s.creg := rfl
@[simp] theorem push_mem (s : State) (k : Nat) (r : Result) : (s.push k r).mem = s.mem := rfl
@[simp] theorem push_dirty (s : State) (k : Nat) (r : Result) : (s.push k r).dirty = s.dirty := rfl
@[simp] theorem push_bad (s : State) (k : Nat) (r : Result) : (s.push k r).bad = s.bad := rfl
@[simp] theorem push_code (s : State) (k : Nat) (r : Result) : (s.push k r).code = s.code := rfl
@[simp] theorem push_wire (s : State) (k : Nat) (r : Result) : (s.push k r).wire = s.wire := rfl
@[simp] theorem push_reduce (s : State) (k : Nat) (r : Result) : (s.push k r).reduce = s.reduce := rfl
@[simp] theorem push_rgroups (s : State) (k : Nat) (r : Result) : (s.push k r).rgroups = s.rgroups := rfl
@[simp] theorem push_exported (s : State) (k : Nat) (r : Result) : (s.push k r).exported = s.exported := rfl
@[simp] theorem push_banks (s : State) (k : Nat) (r : Result) : (s.push k r).banks = s.banks := rfl
@[simp] theorem push_counts (s : State) (k : Nat) (r : Result) : (s.push k r).counts = s.counts := rfl
@[simp] theorem push_mem0 (s : State) (k : Nat) (r : Result) : (s.push k r).mem0 = s.mem0 := rfl
@[simp] theorem push_writes (s : State) (k : Nat) (r : Result) : (s.push k r).writes = s.writes := rfl
@[simp] theorem push_bids (s : State) (k : Nat) (r : Result) : (s.push k r).bids = s.bids := rfl
@[simp] theorem push_free (s : State) (k : Nat) (r : Result) : (s.push k r).free = s.free := rfl
@[simp] theorem push_epid (s : State) (k : Nat) (r : Result) : (s.push k r).epid = s.epid := rfl
@[simp] theorem push_stage (s : State) (k : Nat) (r : Result) : (s.push k r).stage = s.stage := rfl
@[simp] theorem push_fail (s : State) (k : Nat) (r : Result) : (s.push k r).fail = s.fail := rfl
@[simp] theorem push_attleft (s : State) (k : Nat) (r : Result) : (s.push k r).attleft = s.attleft := rfl

@[simp] theorem semUpd_clock (s : State) (n : Nat) (u : SemUpd) : (s.semUpd n u).clock = s.clock := rfl
@[simp] theorem semUpd_agenda (s : State) (n : Nat) (u : SemUpd) : (s.semUpd n u).agenda = s.agenda := rfl
@[simp] theorem semUpd_sel (s : State) (n : Nat) (u : SemUpd) : (s.semUpd n u).sel = s.sel := rfl
@[simp] theorem semUpd_turn (s : State) (n : Nat) (u : SemUpd) : (s.semUpd n u).turn = s.turn := rfl
@[simp] theorem semUpd_cur (s : State) (n : Nat) (u : SemUpd) : (s.semUpd n u).cur = s.cur := rfl
@[simp] theorem semUpd_slot (s : State) (n : Nat) (u : SemUpd) : (s.semUpd n u).slot = s.slot := rfl
@[simp] theorem semUpd_last (s : State) (n : Nat) (u : SemUpd) : (s.semUpd n u).last = s.last := rfl
@[simp] theorem semUpd_mark (s : State) (n : Nat) (u : SemUpd) : (s.semUpd n u).mark = s.mark := rfl
@[simp] theorem semUpd_ctxs (s : State) (n : Nat) (u : SemUpd) : (s.semUpd n u).ctxs = s.ctxs := rfl
@[simp] theorem semUpd_dies (s : State) (n : Nat) (u : SemUpd) : (s.semUpd n u).dies = s.dies := rfl
@[simp] theorem semUpd_creg (s : State) (n : Nat) (u : SemUpd) : (s.semUpd n u).creg = s.creg := rfl
@[simp] theorem semUpd_mem (s : State) (n : Nat) (u : SemUpd) : (s.semUpd n u).mem = s.mem := rfl
@[simp] theorem semUpd_dirty (s : State) (n : Nat) (u : SemUpd) : (s.semUpd n u).dirty = s.dirty := rfl
@[simp] theorem semUpd_bad (s : State) (n : Nat) (u : SemUpd) : (s.semUpd n u).bad = s.bad := rfl
@[simp] theorem semUpd_code (s : State) (n : Nat) (u : SemUpd) : (s.semUpd n u).code = s.code := rfl
@[simp] theorem semUpd_wire (s : State) (n : Nat) (u : SemUpd) : (s.semUpd n u).wire = s.wire := rfl
@[simp] theorem semUpd_reduce (s : State) (n : Nat) (u : SemUpd) : (s.semUpd n u).reduce = s.reduce := rfl
@[simp] theorem semUpd_rgroups (s : State) (n : Nat) (u : SemUpd) : (s.semUpd n u).rgroups = s.rgroups := rfl
@[simp] theorem semUpd_exported (s : State) (n : Nat) (u : SemUpd) : (s.semUpd n u).exported = s.exported := rfl
@[simp] theorem semUpd_banks (s : State) (n : Nat) (u : SemUpd) : (s.semUpd n u).banks = s.banks := rfl
@[simp] theorem semUpd_counts (s : State) (n : Nat) (u : SemUpd) : (s.semUpd n u).counts = s.counts := rfl
@[simp] theorem semUpd_mem0 (s : State) (n : Nat) (u : SemUpd) : (s.semUpd n u).mem0 = s.mem0 := rfl
@[simp] theorem semUpd_writes (s : State) (n : Nat) (u : SemUpd) : (s.semUpd n u).writes = s.writes := rfl
@[simp] theorem semUpd_bids (s : State) (n : Nat) (u : SemUpd) : (s.semUpd n u).bids = s.bids := rfl
@[simp] theorem semUpd_free (s : State) (n : Nat) (u : SemUpd) : (s.semUpd n u).free = s.free := rfl
@[simp] theorem semUpd_epid (s : State) (n : Nat) (u : SemUpd) : (s.semUpd n u).epid = s.epid := rfl
@[simp] theorem semUpd_stage (s : State) (n : Nat) (u : SemUpd) : (s.semUpd n u).stage = s.stage := rfl
@[simp] theorem semUpd_fail (s : State) (n : Nat) (u : SemUpd) : (s.semUpd n u).fail = s.fail := rfl
@[simp] theorem semUpd_attleft (s : State) (n : Nat) (u : SemUpd) : (s.semUpd n u).attleft = s.attleft := rfl

@[simp] theorem write_clock (s : State) (a : Nat) (l : List Byte) : (s.write a l).clock = s.clock := rfl
@[simp] theorem write_agenda (s : State) (a : Nat) (l : List Byte) : (s.write a l).agenda = s.agenda := rfl
@[simp] theorem write_sel (s : State) (a : Nat) (l : List Byte) : (s.write a l).sel = s.sel := rfl
@[simp] theorem write_turn (s : State) (a : Nat) (l : List Byte) : (s.write a l).turn = s.turn := rfl
@[simp] theorem write_cur (s : State) (a : Nat) (l : List Byte) : (s.write a l).cur = s.cur := rfl
@[simp] theorem write_slot (s : State) (a : Nat) (l : List Byte) : (s.write a l).slot = s.slot := rfl
@[simp] theorem write_last (s : State) (a : Nat) (l : List Byte) : (s.write a l).last = s.last := rfl
@[simp] theorem write_mark (s : State) (a : Nat) (l : List Byte) : (s.write a l).mark = s.mark := rfl
@[simp] theorem write_ctxs (s : State) (a : Nat) (l : List Byte) : (s.write a l).ctxs = s.ctxs := rfl
@[simp] theorem write_cores (s : State) (a : Nat) (l : List Byte) : (s.write a l).cores = s.cores := rfl
@[simp] theorem write_dies (s : State) (a : Nat) (l : List Byte) : (s.write a l).dies = s.dies := rfl
@[simp] theorem write_creg (s : State) (a : Nat) (l : List Byte) : (s.write a l).creg = s.creg := rfl
@[simp] theorem write_code (s : State) (a : Nat) (l : List Byte) : (s.write a l).code = s.code := rfl
@[simp] theorem write_wire (s : State) (a : Nat) (l : List Byte) : (s.write a l).wire = s.wire := rfl
@[simp] theorem write_reduce (s : State) (a : Nat) (l : List Byte) : (s.write a l).reduce = s.reduce := rfl
@[simp] theorem write_rgroups (s : State) (a : Nat) (l : List Byte) : (s.write a l).rgroups = s.rgroups := rfl
@[simp] theorem write_exported (s : State) (a : Nat) (l : List Byte) : (s.write a l).exported = s.exported := rfl
@[simp] theorem write_banks (s : State) (a : Nat) (l : List Byte) : (s.write a l).banks = s.banks := rfl
@[simp] theorem write_counts (s : State) (a : Nat) (l : List Byte) : (s.write a l).counts = s.counts := rfl
@[simp] theorem write_mem0 (s : State) (a : Nat) (l : List Byte) : (s.write a l).mem0 = s.mem0 := rfl
@[simp] theorem write_bids (s : State) (a : Nat) (l : List Byte) : (s.write a l).bids = s.bids := rfl
@[simp] theorem write_free (s : State) (a : Nat) (l : List Byte) : (s.write a l).free = s.free := rfl
@[simp] theorem write_epid (s : State) (a : Nat) (l : List Byte) : (s.write a l).epid = s.epid := rfl
@[simp] theorem write_stage (s : State) (a : Nat) (l : List Byte) : (s.write a l).stage = s.stage := rfl
@[simp] theorem write_fail (s : State) (a : Nat) (l : List Byte) : (s.write a l).fail = s.fail := rfl
@[simp] theorem write_attleft (s : State) (a : Nat) (l : List Byte) : (s.write a l).attleft = s.attleft := rfl

@[simp] theorem setDreg_clock (s : State) (d b o : Nat) (v : Word) : (s.setDreg d b o v).clock = s.clock := rfl
@[simp] theorem setDreg_agenda (s : State) (d b o : Nat) (v : Word) : (s.setDreg d b o v).agenda = s.agenda := rfl
@[simp] theorem setDreg_sel (s : State) (d b o : Nat) (v : Word) : (s.setDreg d b o v).sel = s.sel := rfl
@[simp] theorem setDreg_turn (s : State) (d b o : Nat) (v : Word) : (s.setDreg d b o v).turn = s.turn := rfl
@[simp] theorem setDreg_cur (s : State) (d b o : Nat) (v : Word) : (s.setDreg d b o v).cur = s.cur := rfl
@[simp] theorem setDreg_slot (s : State) (d b o : Nat) (v : Word) : (s.setDreg d b o v).slot = s.slot := rfl
@[simp] theorem setDreg_last (s : State) (d b o : Nat) (v : Word) : (s.setDreg d b o v).last = s.last := rfl
@[simp] theorem setDreg_mark (s : State) (d b o : Nat) (v : Word) : (s.setDreg d b o v).mark = s.mark := rfl
@[simp] theorem setDreg_ctxs (s : State) (d b o : Nat) (v : Word) : (s.setDreg d b o v).ctxs = s.ctxs := rfl
@[simp] theorem setDreg_cores (s : State) (d b o : Nat) (v : Word) : (s.setDreg d b o v).cores = s.cores := rfl
@[simp] theorem setDreg_dies (s : State) (d b o : Nat) (v : Word) : (s.setDreg d b o v).dies = s.dies := rfl
@[simp] theorem setDreg_mem (s : State) (d b o : Nat) (v : Word) : (s.setDreg d b o v).mem = s.mem := rfl
@[simp] theorem setDreg_dirty (s : State) (d b o : Nat) (v : Word) : (s.setDreg d b o v).dirty = s.dirty := rfl
@[simp] theorem setDreg_bad (s : State) (d b o : Nat) (v : Word) : (s.setDreg d b o v).bad = s.bad := rfl
@[simp] theorem setDreg_code (s : State) (d b o : Nat) (v : Word) : (s.setDreg d b o v).code = s.code := rfl
@[simp] theorem setDreg_wire (s : State) (d b o : Nat) (v : Word) : (s.setDreg d b o v).wire = s.wire := rfl
@[simp] theorem setDreg_reduce (s : State) (d b o : Nat) (v : Word) : (s.setDreg d b o v).reduce = s.reduce := rfl
@[simp] theorem setDreg_rgroups (s : State) (d b o : Nat) (v : Word) : (s.setDreg d b o v).rgroups = s.rgroups := rfl
@[simp] theorem setDreg_exported (s : State) (d b o : Nat) (v : Word) : (s.setDreg d b o v).exported = s.exported := rfl
@[simp] theorem setDreg_banks (s : State) (d b o : Nat) (v : Word) : (s.setDreg d b o v).banks = s.banks := rfl
@[simp] theorem setDreg_counts (s : State) (d b o : Nat) (v : Word) : (s.setDreg d b o v).counts = s.counts := rfl
@[simp] theorem setDreg_mem0 (s : State) (d b o : Nat) (v : Word) : (s.setDreg d b o v).mem0 = s.mem0 := rfl
@[simp] theorem setDreg_writes (s : State) (d b o : Nat) (v : Word) : (s.setDreg d b o v).writes = s.writes := rfl
@[simp] theorem setDreg_bids (s : State) (d b o : Nat) (v : Word) : (s.setDreg d b o v).bids = s.bids := rfl
@[simp] theorem setDreg_free (s : State) (d b o : Nat) (v : Word) : (s.setDreg d b o v).free = s.free := rfl
@[simp] theorem setDreg_epid (s : State) (d b o : Nat) (v : Word) : (s.setDreg d b o v).epid = s.epid := rfl
@[simp] theorem setDreg_stage (s : State) (d b o : Nat) (v : Word) : (s.setDreg d b o v).stage = s.stage := rfl
@[simp] theorem setDreg_fail (s : State) (d b o : Nat) (v : Word) : (s.setDreg d b o v).fail = s.fail := rfl
@[simp] theorem setDreg_attleft (s : State) (d b o : Nat) (v : Word) : (s.setDreg d b o v).attleft = s.attleft := rfl

/-! ## Registers of a context -/

@[simp] theorem s_zero (c : Ctx) : c.s 0 = 0 := rfl
@[simp] theorem k_zero (c : Ctx) : c.k 0 = BitVec.allOnes 256 := rfl
@[simp] theorem setS_zero (c : Ctx) (v : Word) : c.setS 0 v = c := rfl
@[simp] theorem setK_zero (c : Ctx) (v : Pred) : c.setK 0 v = c := rfl

theorem s_setS (c : Ctx) (n m : Nat) (v : Word) : (c.setS n v).s m = if m = n ∧ n ≠ 0 then v else c.s m := by
  unfold Ctx.setS Ctx.s
  by_cases hn : n = 0
  · simp [hn]
  · by_cases hm : m = 0
    · simp [hm, hn]; omega
    · simp [hn, hm, tget_tput]

theorem k_setK (c : Ctx) (n m : Nat) (v : Pred) : (c.setK n v).k m = if m = n ∧ n ≠ 0 then v else c.k m := by
  unfold Ctx.setK Ctx.k
  by_cases hn : n = 0
  · simp [hn]
  · by_cases hm : m = 0
    · simp [hm, hn]; omega
    · simp [hn, hm, tget_tput]

theorem row_setRow (c : Core) (n m : Nat) (v : Row) : (c.setRow n v).row m = if m = n then v else c.row m := by
  simp [Core.setRow, Core.row, tget_tput]

theorem h_setH (c : Ctx) (n m : Nat) (h : Handle) : (c.setH n h).h m = if m = n then h else c.h m := by
  simp [Ctx.setH, Ctx.h, tget_tput]

end Sys2Proof.Machine
end

