-- ==== Sys2Proof/Laws/Issue.lean ====
section
/-! SUPPORT. Everything the issue of a bundle of one operation can do, said once: it traps at decode, stays blocked, traps
as it would issue, or issues; and the same in the words of the statements. -/

namespace Sys2Proof.Machine

/-- Thresholds taken from a core's semaphores leave every context alone. -/
theorem takes_frame (n : Nat) (w : List (Nat × Nat)) (s : State) :
    (w.foldl (fun (t : State) e => t.semUpd n (.sub e.1 e.2)) s).ctxs = s.ctxs ∧
      (w.foldl (fun (t : State) e => t.semUpd n (.sub e.1 e.2)) s).cur = s.cur := by
  induction w generalizing s with
  | nil => exact ⟨rfl, rfl⟩
  | cons e l ih => exact ⟨(ih _).1.trans rfl, (ih _).2.trans rfl⟩

/-- The acting context is as it was once the thresholds of its bundle are taken. -/
theorem takes_me (w : List (Nat × Nat)) (s : State) :
    (w.foldl (fun (t : State) e => t.semUpd (coreOf s.cur) (.sub e.1 e.2)) s).me = s.me := by
  have h := takes_frame (coreOf s.cur) w s
  unfold State.me State.ctx
  rw [h.1, h.2]

/-- A bundle of one operation that no check stops and nothing blocks issues: its thresholds are taken and its effect
happens. -/
theorem issue_one {o : Op} {s : State} (hr : o.range s = none) (hd : clash (o.dests s.me) = false)
    (hw : waitsPass (s.core (coreOf s.cur)) (o.waits s.me) = true) (hb : o.ready s = true) (ha : o.addr s = none) :
    issue [o] s = { (o.effect ((o.waits s.me).foldl (fun t e => t.semUpd (coreOf s.cur) (.sub e.1 e.2)) s)) with
      last := .issued } := by
  have h1 : decodeTrap [o] s = none := by simp [decodeTrap, firstTrap, hr, hd]
  have h2 : unblocked [o] s = true := by simp [unblocked, bundleWaits, hw, hb]
  have h3 : addrTrap [o] s = none := by
    unfold addrTrap
    by_cases hs : o.slot = .m <;> simp [hs, firstTrap, ha]
  have h4 : perform [o] s =
      o.effect ((o.waits s.me).foldl (fun t e => t.semUpd (coreOf s.cur) (.sub e.1 e.2)) s) := by
    unfold perform effectOrder
    by_cases hs : o.slot = .s <;> by_cases hx : o.after <;> simp_all [bundleWaits]
  simp only [issue, h1, h2, h3, h4, if_true]

/-- The decode checks come first: nothing of the bundle takes effect. -/
theorem issue_decode_trap {o : Op} {s : State} {t : Trap} (hr : o.range s = some t) : issue [o] s = s.trap t := by
  simp [issue, decodeTrap, firstTrap, hr]

/-- A bundle whose wait does not pass, or that R74 blocks, only asks. -/
theorem issue_blocked {o : Op} {s : State} (hr : o.range s = none) (hd : clash (o.dests s.me) = false)
    (hb : (waitsPass (s.core (coreOf s.cur)) (o.waits s.me) && o.ready s) = false) :
    issue [o] s = { (examine [o] s) with last := .blocked } := by
  have h1 : decodeTrap [o] s = none := by simp [decodeTrap, firstTrap, hr, hd]
  have h2 : unblocked [o] s = false := by
    simpa [unblocked, bundleWaits] using hb
  simp [issue, h1, h2]

/-- The checks of operands come as the bundle would issue. -/
theorem issue_addr_trap {o : Op} {s : State} {t : Trap} (hr : o.range s = none) (hd : clash (o.dests s.me) = false)
    (hw : waitsPass (s.core (coreOf s.cur)) (o.waits s.me) = true) (hb : o.ready s = true) (ha : o.addr s = some t) :
    issue [o] s = s.trap t := by
  have h1 : decodeTrap [o] s = none := by simp [decodeTrap, firstTrap, hr, hd]
  have h2 : unblocked [o] s = true := by simp [unblocked, bundleWaits, hw, hb]
  have h3 : addrTrap [o] s = some t := by
    unfold addrTrap
    by_cases hs : o.slot = .m <;> simp [hs, firstTrap, ha]
  simp [issue, h1, h2, h3]

@[simp] theorem clash_nil : clash [] = false := rfl
@[simp] theorem clash_one (d : Dest) : clash [d] = false := by simp [clash]

@[simp] theorem waitsPass_nil (c : Core) : waitsPass c [] = true := rfl

/-! ## In the words of the statements -/

open Sys2Proof.Spec

/-- The statements' scalar guard is the machine's. -/
theorem on_iff (s : State) (g : Guard) : on s g ↔ s.me.on g = true := by
  unfold on Ctx.on Ctx.guard
  cases h : g.neg <;> simp

theorem off_iff (s : State) (g : Guard) : ¬ on s g ↔ s.me.on g = false := by simp [on_iff]

/-- An operation that places no wait issues with its effect. -/
theorem issues_plain {i : Instr} {o : Op} {s t : State} (hi : exec i s = .next (issue [o] s)) (hr : o.range s = none)
    (hd : clash (o.dests s.me) = false) (hw : o.waits s.me = []) (hb : o.ready s = true) (ha : o.addr s = none)
    (he : o.effect s = t) : Issues i s t := by
  have h := issue_one hr hd (by rw [hw]; rfl) hb ha
  rw [hw] at h
  unfold Issues
  rw [hi, h, ← he]
  rfl

/-- The words of R41 as the machine puts them. -/
theorem admits_waits {y : Sync} {s : State} (h : Admits y s) :
    syncOut y s.me = false ∧ waitsPass (s.core (coreOf s.cur)) (syncWaits y s.me) = true := by
  obtain ⟨h1, h2⟩ := h
  constructor
  · simp only [syncOut, Ctx.hasSem, Bool.or_eq_false_iff, Bool.and_eq_false_iff, decide_eq_false_iff_not, Bool.not_eq_false',
      decide_eq_true_eq]
    constructor
    · by_cases e : y.wthr = 0
      · exact .inl (by simp [e])
      · exact .inr (h1 e).1
    · by_cases e : y.sinc = 0
      · exact .inl (by simp [e])
      · exact .inr (h2 e)
  · unfold syncWaits
    by_cases e : y.wthr = 0
    · simp [e]
    · simpa [e, waitsPass, needOf] using (h1 e).2

theorem takes_taken (y : Sync) (s : State) :
    (syncWaits y s.me).foldl (fun (t : State) e => t.semUpd (coreOf s.cur) (.sub e.1 e.2)) s = taken y s := by
  unfold syncWaits taken
  by_cases e : y.wthr = 0 <;> simp [e]

@[simp] theorem taken_me (y : Sync) (s : State) : (taken y s).me = s.me := by
  rw [← takes_taken]; exact takes_me _ _

@[simp] theorem taken_cur (y : Sync) (s : State) : (taken y s).cur = s.cur := by
  unfold taken; split <;> rfl

@[simp] theorem taken_ctx (y : Sync) (s : State) (k : Nat) : (taken y s).ctx k = s.ctx k := by
  unfold taken; split <;> rfl

/-- The signal of a command complete in its issue cycle, as the statements put it. -/
theorem signalBoth_eq (y : Sync) (s : State) : s.signalBoth y = signalled y s := rfl

theorem signalAccept_eq (y : Sync) (s : State) : s.signalAccept y = signalAtAccept y s := by
  unfold State.signalAccept signalAtAccept signalled
  cases y.spt <;> by_cases e : y.sinc = 0 <;> simp [e] <;> rfl

/-- A command whose sync pair is in order issues with its wait taken. -/
theorem issues_cmd {i : Instr} {o : Op} {y : Sync} {s t : State} (hi : exec i s = .next (issue [o] s)) (hy : Admits y s)
    (hr : o.range s = none) (hd : clash (o.dests s.me) = false) (hw : o.waits s.me = syncWaits y s.me)
    (hb : o.ready s = true) (ha : o.addr s = none) (he : o.effect (taken y s) = t) : Issues i s t := by
  have h := issue_one hr hd (by rw [hw]; exact (admits_waits hy).2) hb ha
  rw [hw, takes_taken, he] at h
  unfold Issues
  rw [hi, h]

/-- A check at decode traps. -/
theorem traps_range {i : Instr} {o : Op} {s : State} {t : Trap} (hi : exec i s = .next (issue [o] s))
    (hr : o.range s = some t) : Traps i s t := by
  unfold Traps; rw [hi, issue_decode_trap hr]

/-- A check of operands traps as the bundle would issue. -/
theorem traps_addr {i : Instr} {o : Op} {s : State} {t : Trap} (hi : exec i s = .next (issue [o] s)) (hr : o.range s = none)
    (hd : clash (o.dests s.me) = false) (hw : waitsPass (s.core (coreOf s.cur)) (o.waits s.me) = true)
    (hb : o.ready s = true) (ha : o.addr s = some t) : Traps i s t := by
  unfold Traps; rw [hi, issue_addr_trap hr hd hw hb ha]

end Sys2Proof.Machine
end

