-- ==== Sys2Proof/Laws/Memory.lean ====
section
/-! SUPPORT. The laws of memory: its canonical form, which every writer keeps, and what a byte reads after a write. -/

namespace Sys2Proof.Machine

/-! ## The canonical form -/

theorem wfAbove_iff (lo : Nat) (m : List Host.Cell) : wfAbove lo m = true ↔
    (∀ c ∈ m, lo < c.1) ∧ m.Pairwise (fun a b => a.1 < b.1) ∧ ∀ c ∈ m, c.2 ≠ 0 := by
  induction m generalizing lo with
  | nil => simp [wfAbove]
  | cons e t ih =>
    obtain ⟨b, v⟩ := e
    simp only [wfAbove, Bool.and_eq_true, decide_eq_true_eq, ih, List.mem_cons, List.pairwise_cons, forall_eq_or_imp]
    constructor
    · rintro ⟨⟨h1, h2⟩, h3, h4, h5⟩
      exact ⟨⟨h1, fun c hc => Nat.lt_trans h1 (h3 c hc)⟩, ⟨h3, h4⟩, h2, h5⟩
    · rintro ⟨⟨h1, -⟩, ⟨h3, h4⟩, h2, h5⟩
      exact ⟨⟨h1, h2⟩, h3, h4, h5⟩

/-- The canonical form said at once: addresses strictly rising and no zero listed. -/
theorem memory_wf_iff (m : List Host.Cell) : Memory.wf m = true ↔
    m.Pairwise (fun a b => a.1 < b.1) ∧ ∀ c ∈ m, c.2 ≠ 0 := by
  cases m with
  | nil => simp [Memory.wf]
  | cons e t =>
    obtain ⟨b, v⟩ := e
    simp only [Memory.wf, Bool.and_eq_true, decide_eq_true_eq, wfAbove_iff, List.pairwise_cons, List.mem_cons,
      forall_eq_or_imp]
    constructor
    · rintro ⟨h1, h2, h3, h4⟩; exact ⟨⟨h2, h3⟩, h1, h4⟩
    · rintro ⟨⟨h2, h3⟩, h1, h4⟩; exact ⟨h1, h2, h3, h4⟩

theorem filter_wf {m : List Host.Cell} (p : Host.Cell → Bool) (h : Memory.wf m = true) :
    Memory.wf (m.filter p) = true := by
  rw [memory_wf_iff] at h ⊢
  exact ⟨h.1.sublist List.filter_sublist, fun c hc => h.2 c (List.mem_filter.1 hc).1⟩

theorem mem_memIns {m : List Host.Cell} {a : Nat} {v : Byte} {c : Host.Cell} (h : c ∈ memIns m a v) :
    c ∈ m ∨ c = (a, v) := by
  induction m with
  | nil => exact .inr (List.mem_singleton.1 h)
  | cons e t ih =>
    obtain ⟨b, w⟩ := e
    simp only [memIns] at h
    split at h
    · rcases List.mem_cons.1 h with h | h
      · exact .inr h
      · exact .inl (List.mem_cons_of_mem _ h)
    · split at h
      · rcases List.mem_cons.1 h with h | h
        · exact .inr h
        · exact .inl h
      · rcases List.mem_cons.1 h with h | h
        · exact .inl (h ▸ List.mem_cons_self)
        · exact (ih h).imp_left (List.mem_cons_of_mem _)

theorem memIns_pairwise {m : List Host.Cell} (a : Nat) (v : Byte) (h : m.Pairwise fun x y => x.1 < y.1) :
    (memIns m a v).Pairwise fun x y => x.1 < y.1 := by
  induction m with
  | nil => simp [memIns]
  | cons e t ih =>
    obtain ⟨b, w⟩ := e
    rw [List.pairwise_cons] at h
    simp only [memIns]
    split
    · subst a; exact List.pairwise_cons.2 h
    · split
      · rename_i h2 h3
        refine List.pairwise_cons.2 ⟨fun c hc => ?_, List.pairwise_cons.2 h⟩
        rcases List.mem_cons.1 hc with hc | hc
        · subst hc; exact h3
        · exact Nat.lt_trans h3 (h.1 c hc)
      · refine List.pairwise_cons.2 ⟨fun c hc => ?_, ih h.2⟩
        rcases mem_memIns hc with hc | hc
        · exact h.1 c hc
        · rw [hc]; simp only; omega

theorem memPut_wf {m : List Host.Cell} (a : Nat) (v : Byte) (h : Memory.wf m = true) :
    Memory.wf (memPut m a v) = true := by
  unfold memPut
  split
  · exact filter_wf _ h
  · rw [memory_wf_iff] at h ⊢
    refine ⟨memIns_pairwise a v h.1, fun c hc => ?_⟩
    rcases mem_memIns hc with hc | hc
    · exact h.2 c hc
    · rw [hc]; assumption

theorem memPuts_wf {m : List Host.Cell} (a : Nat) (l : List Byte) (h : Memory.wf m = true) :
    Memory.wf (memPuts m a l) = true := by
  induction l generalizing m a with
  | nil => exact h
  | cons v l ih => exact ih _ (memPut_wf a v h)

theorem memMove_wf {m : List Host.Cell} (a b n : Nat) (h : Memory.wf m = true) :
    Memory.wf (memMove m a b n) = true := by
  unfold memMove
  generalize m.filter (fun c => decide (a ≤ c.1) && decide (c.1 < a + n)) = l
  have h' := filter_wf (fun c => !(decide (b ≤ c.1) && decide (c.1 < b + n))) h
  generalize m.filter (fun c => !(decide (b ≤ c.1) && decide (c.1 < b + n))) = t at *
  induction l generalizing t with
  | nil => exact h'
  | cons e l ih => exact ih _ (memPut_wf _ _ h')

/-! ## Reading after writing -/

theorem memGet_filter (m : List Host.Cell) (a x : Nat) :
    memGet (m.filter fun c => c.1 != a) x = if x = a then 0 else memGet m x := by
  induction m with
  | nil => simp [memGet]
  | cons e t ih =>
    obtain ⟨b, w⟩ := e
    by_cases hb : b = a
    · subst hb
      simp only [List.filter_cons, bne_self_eq_false, Bool.false_eq_true, if_false, ih, memGet]
      by_cases hx : x = b <;> simp [hx]
    · simp only [List.filter_cons, bne_iff_ne, ne_eq, hb, not_false_eq_true, if_true, memGet, ih]
      by_cases hx : x = b
      · subst hx; simp [hb]
      · simp [hx]

theorem memGet_memIns (m : List Host.Cell) (a : Nat) (v : Byte) (x : Nat) :
    memGet (memIns m a v) x = if x = a then v else memGet m x := by
  induction m with
  | nil => simp [memIns, memGet]
  | cons e t ih =>
    obtain ⟨b, w⟩ := e
    simp only [memIns]
    split
    · subst a; simp only [memGet]; by_cases hx : x = b <;> simp [hx]
    · rename_i hab
      split
      · simp only [memGet]
      · simp only [memGet, ih]
        by_cases hx : x = b
        · subst hx
          have : x ≠ a := fun h => hab h.symm
          simp [this]
        · simp [hx]

/-- A byte after one byte is written, whatever form the memory has. -/
theorem memGet_memPut (m : List Host.Cell) (a : Nat) (v : Byte) (x : Nat) :
    memGet (memPut m a v) x = if x = a then v else memGet m x := by
  unfold memPut
  split
  · rename_i h; rw [memGet_filter, h]
  · exact memGet_memIns m a v x

/-- A byte after a run of bytes is written. -/
theorem memGet_memPuts (m : List Host.Cell) (a : Nat) (l : List Byte) (x : Nat) :
    memGet (memPuts m a l) x = if a ≤ x ∧ x < a + l.length then l.getD (x - a) 0 else memGet m x := by
  induction l generalizing m a with
  | nil => simp only [memPuts, List.length_nil]; rw [if_neg (by omega)]
  | cons v l ih =>
    simp only [memPuts, List.length_cons]
    rw [ih, memGet_memPut]
    by_cases h1 : x = a
    · subst h1
      rw [if_neg (by omega), if_pos rfl, if_pos (by omega), Nat.sub_self]
      rfl
    · by_cases h2 : a ≤ x ∧ x < a + (l.length + 1)
      · rw [if_pos (by omega), if_pos h2]
        obtain ⟨j, hj⟩ : ∃ j, x - a = j + 1 := ⟨x - a - 1, by omega⟩
        rw [hj, show x - (a + 1) = j by omega]
        rfl
      · rw [if_neg (by omega), if_neg h1, if_neg h2]

/-- Bytes outside a write read as before. -/
theorem memGet_write (s : State) (a : Nat) (l : List Byte) (x : Nat)
    (hx : x < a ∨ a + l.length ≤ x) : memGet (s.write a l).mem x = memGet s.mem x := by
  show memGet (memPuts s.mem a l) x = _
  rw [memGet_memPuts, if_neg (by omega)]

theorem leBytes_length (v n : Nat) : (leBytes v n).length = n := by
  induction n generalizing v with
  | zero => rfl
  | succ n ih => simp [leBytes, ih]

/-- The number written is the number read. -/
theorem leNat_leBytes (v n : Nat) : leNat (leBytes v n) = v % 256 ^ n := by
  induction n generalizing v with
  | zero => simp [leBytes, leNat, Nat.mod_one]
  | succ n ih =>
    have e : (BitVec.ofNat 8 v).toNat = v % 256 := rfl
    simp only [leBytes, leNat, ih, Nat.pow_succ, e]
    rw [Nat.mul_comm (256 ^ n) 256, Nat.mod_mul]

/-! ## The writers of the state -/

theorem write_memWf {s : State} (a : Nat) (l : List Byte) (h : s.MemWf) : (s.write a l).MemWf :=
  ⟨memPuts_wf a l h.1, h.2⟩

theorem writeNat_memWf {s : State} (a n v : Nat) (h : s.MemWf) : (s.writeNat a n v).MemWf := write_memWf a _ h

theorem zeroPad_memWf {s : State} (a n : Nat) (h : s.MemWf) : (s.zeroPad a n).MemWf := ⟨filter_wf _ h.1, h.2⟩

/-- A state with the memories of another in canonical form has them so. -/
theorem of_mem {s : State} (t : State) (hm : t.mem = s.mem) (hc : t.code = s.code) (h : s.MemWf) : t.MemWf := by
  unfold State.MemWf at *
  rw [hm, hc]
  exact h

theorem reset_memWf : State.reset.MemWf := ⟨rfl, rfl⟩

end Sys2Proof.Machine
end

