-- ==== Sys2Proof/Laws/Sync.lean ====
section
/-! SUPPORT. What taking a wait, signalling, drawing a fresh number and entering a queue leave alone, field by field; and how a
command of one slot blocks and traps. -/

namespace Sys2Proof.Machine

open Sys2Proof.Spec

/-- The increment that a command carries to its end. -/
theorem syncEnd_eq (y : Sync) : syncEnd y = if y.spt = true ∧ y.sinc ≠ 0 then some (y.ssem, y.sinc) else none := by
  unfold syncEnd; cases y.spt <;> by_cases h : y.sinc = 0 <;> simp [h]
/-- The semaphores of an admitted pair lie in the allotment. -/
theorem admR {y : Sync} {s : State} (h : Admits y s) : syncOut y s.me = false := (admits_waits h).1
/-- The wait of an admitted pair passes. -/
theorem admW {y : Sync} {s : State} (h : Admits y s) : waitsPass (s.core (coreOf s.cur)) (syncWaits y s.me) = true := (admits_waits h).2

/-- what taking a wait leaves alone -/
theorem taken_cases (y : Sync) (s : State) : taken y s = s ∨ taken y s = s.semUpd (coreOf s.cur) (.sub (s.me.sbase + y.wsem) y.wthr) := by
  unfold taken; split; exact .inl rfl; exact .inr rfl
theorem taken_frame (y : Sync) (s : State) : ∃ c, taken y s = { s with cores := c } := by
  rcases taken_cases y s with h | h <;> rw [h]; exact ⟨s.cores, rfl⟩; exact ⟨_, rfl⟩
theorem signalled_frame (y : Sync) (s : State) : ∃ c, signalled y s = { s with cores := c } := by
  unfold signalled; split; exact ⟨s.cores, rfl⟩; exact ⟨_, rfl⟩
theorem signalAtAccept_frame (y : Sync) (s : State) : ∃ c, signalAtAccept y s = { s with cores := c } := by
  unfold signalAtAccept; split; exact ⟨s.cores, rfl⟩; exact signalled_frame y s

@[simp] theorem taken_dies (y : Sync) (s : State) : (taken y s).dies = s.dies := by obtain ⟨c, h⟩ := taken_frame y s; rw [h]
@[simp] theorem taken_die (y : Sync) (s : State) (n) : (taken y s).die n = s.die n := by unfold State.die; simp
@[simp] theorem taken_ctxs (y : Sync) (s : State) : (taken y s).ctxs = s.ctxs := by obtain ⟨c, h⟩ := taken_frame y s; rw [h]
@[simp] theorem taken_mem (y : Sync) (s : State) : (taken y s).mem = s.mem := by obtain ⟨c, h⟩ := taken_frame y s; rw [h]
@[simp] theorem taken_wire (y : Sync) (s : State) : (taken y s).wire = s.wire := by obtain ⟨c, h⟩ := taken_frame y s; rw [h]
@[simp] theorem taken_bids (y : Sync) (s : State) : (taken y s).bids = s.bids := by obtain ⟨c, h⟩ := taken_frame y s; rw [h]
@[simp] theorem taken_creg (y : Sync) (s : State) : (taken y s).creg = s.creg := by obtain ⟨c, h⟩ := taken_frame y s; rw [h]
@[simp] theorem taken_reg (y : Sync) (s : State) (a b c d) : (taken y s).reg a b c d = s.reg a b c d := by unfold State.reg; simp
@[simp] theorem taken_clock (y : Sync) (s : State) : (taken y s).clock = s.clock := by obtain ⟨c, h⟩ := taken_frame y s; rw [h]
@[simp] theorem taken_free (y : Sync) (s : State) : (taken y s).free = s.free := by obtain ⟨c, h⟩ := taken_frame y s; rw [h]
@[simp] theorem taken_epid (y : Sync) (s : State) : (taken y s).epid = s.epid := by obtain ⟨c, h⟩ := taken_frame y s; rw [h]
@[simp] theorem taken_vdOf (y : Sync) (s : State) (k) : (taken y s).vdOf k = s.vdOf k := by obtain ⟨c, h⟩ := taken_frame y s; rw [h]; rfl
@[simp] theorem taken_q (y : Sync) (s : State) (n) : ((taken y s).core n).q = (s.core n).q := by
  rcases taken_cases y s with h | h <;> rw [h]
  unfold State.semUpd State.core State.modCore State.setCore; dsimp only; rw [tget_tput]; split; rename_i h; subst h; rfl; rfl
@[simp] theorem taken_remote (y : Sync) (s : State) (n) : ((taken y s).core n).remote = (s.core n).remote := by
  rcases taken_cases y s with h | h <;> rw [h]
  unfold State.semUpd State.core State.modCore State.setCore; dsimp only; rw [tget_tput]; split; rename_i h; subst h; rfl; rfl

@[simp] theorem saa_dies (y : Sync) (s : State) : (signalAtAccept y s).dies = s.dies := by obtain ⟨c, h⟩ := signalAtAccept_frame y s; rw [h]
@[simp] theorem saa_die (y : Sync) (s : State) (n) : (signalAtAccept y s).die n = s.die n := by unfold State.die; simp
@[simp] theorem saa_ctxs (y : Sync) (s : State) : (signalAtAccept y s).ctxs = s.ctxs := by obtain ⟨c, h⟩ := signalAtAccept_frame y s; rw [h]
@[simp] theorem saa_cur (y : Sync) (s : State) : (signalAtAccept y s).cur = s.cur := by obtain ⟨c, h⟩ := signalAtAccept_frame y s; rw [h]
@[simp] theorem saa_ctx (y : Sync) (s : State) (n) : (signalAtAccept y s).ctx n = s.ctx n := by unfold State.ctx; simp
@[simp] theorem saa_me (y : Sync) (s : State) : (signalAtAccept y s).me = s.me := by unfold State.me; simp
@[simp] theorem saa_mem (y : Sync) (s : State) : (signalAtAccept y s).mem = s.mem := by obtain ⟨c, h⟩ := signalAtAccept_frame y s; rw [h]
@[simp] theorem saa_wire (y : Sync) (s : State) : (signalAtAccept y s).wire = s.wire := by obtain ⟨c, h⟩ := signalAtAccept_frame y s; rw [h]
@[simp] theorem saa_bids (y : Sync) (s : State) : (signalAtAccept y s).bids = s.bids := by obtain ⟨c, h⟩ := signalAtAccept_frame y s; rw [h]
@[simp] theorem saa_creg (y : Sync) (s : State) : (signalAtAccept y s).creg = s.creg := by obtain ⟨c, h⟩ := signalAtAccept_frame y s; rw [h]
@[simp] theorem saa_clock (y : Sync) (s : State) : (signalAtAccept y s).clock = s.clock := by obtain ⟨c, h⟩ := signalAtAccept_frame y s; rw [h]
@[simp] theorem saa_free (y : Sync) (s : State) : (signalAtAccept y s).free = s.free := by obtain ⟨c, h⟩ := signalAtAccept_frame y s; rw [h]
@[simp] theorem saa_epid (y : Sync) (s : State) : (signalAtAccept y s).epid = s.epid := by obtain ⟨c, h⟩ := signalAtAccept_frame y s; rw [h]
@[simp] theorem saa_vdOf (y : Sync) (s : State) (k) : (signalAtAccept y s).vdOf k = s.vdOf k := by obtain ⟨c, h⟩ := signalAtAccept_frame y s; rw [h]; rfl
@[simp] theorem saa_q (y : Sync) (s : State) (n) : ((signalAtAccept y s).core n).q = (s.core n).q := by
  unfold signalAtAccept signalled; split; rfl; split; rfl
  unfold State.semUpd State.core State.modCore State.setCore; dsimp only; rw [tget_tput]; split; rename_i h; subst h; rfl; rfl
@[simp] theorem saa_remote (y : Sync) (s : State) (n) : ((signalAtAccept y s).core n).remote = (s.core n).remote := by
  unfold signalAtAccept signalled; split; rfl; split; rfl
  unfold State.semUpd State.core State.modCore State.setCore; dsimp only; rw [tget_tput]; split; rename_i h; subst h; rfl; rfl

@[simp] theorem sgn_dies (y : Sync) (s : State) : (signalled y s).dies = s.dies := by obtain ⟨c, h⟩ := signalled_frame y s; rw [h]
@[simp] theorem sgn_die (y : Sync) (s : State) (n) : (signalled y s).die n = s.die n := by unfold State.die; simp
@[simp] theorem sgn_ctxs (y : Sync) (s : State) : (signalled y s).ctxs = s.ctxs := by obtain ⟨c, h⟩ := signalled_frame y s; rw [h]
@[simp] theorem sgn_cur (y : Sync) (s : State) : (signalled y s).cur = s.cur := by obtain ⟨c, h⟩ := signalled_frame y s; rw [h]
@[simp] theorem sgn_ctx (y : Sync) (s : State) (n) : (signalled y s).ctx n = s.ctx n := by unfold State.ctx; simp
@[simp] theorem sgn_me (y : Sync) (s : State) : (signalled y s).me = s.me := by unfold State.me; simp
@[simp] theorem sgn_mem (y : Sync) (s : State) : (signalled y s).mem = s.mem := by obtain ⟨c, h⟩ := signalled_frame y s; rw [h]
@[simp] theorem sgn_wire (y : Sync) (s : State) : (signalled y s).wire = s.wire := by obtain ⟨c, h⟩ := signalled_frame y s; rw [h]
@[simp] theorem sgn_bids (y : Sync) (s : State) : (signalled y s).bids = s.bids := by obtain ⟨c, h⟩ := signalled_frame y s; rw [h]
@[simp] theorem sgn_creg (y : Sync) (s : State) : (signalled y s).creg = s.creg := by obtain ⟨c, h⟩ := signalled_frame y s; rw [h]
@[simp] theorem sgn_clock (y : Sync) (s : State) : (signalled y s).clock = s.clock := by obtain ⟨c, h⟩ := signalled_frame y s; rw [h]
@[simp] theorem sgn_epid (y : Sync) (s : State) : (signalled y s).epid = s.epid := by obtain ⟨c, h⟩ := signalled_frame y s; rw [h]
@[simp] theorem sgn_vdOf (y : Sync) (s : State) (k) : (signalled y s).vdOf k = s.vdOf k := by obtain ⟨c, h⟩ := signalled_frame y s; rw [h]; rfl

theorem blocks_cmd {i : Instr} {o : Op} {y : Sync} {s : State} {p : State → State} (hi : exec i s = .next (issue [o] s)) (hy : Admits y s)
    (hr : o.range s = none) (hd : clash (o.dests s.me) = false) (hw : o.waits s.me = syncWaits y s.me)
    (hb : o.ready s = false) (hp : o.probe s = p s) : Blocks i s p := by
  unfold Blocks
  rw [hi, issue_blocked hr hd (by simp [hb])]
  simp [examine, bundleWaits, hw, admW hy, hp]
theorem traps_cmd {i : Instr} {o : Op} {y : Sync} {s : State} {t : Trap} (hi : exec i s = .next (issue [o] s)) (hy : Admits y s)
    (hr : o.range s = none) (hd : clash (o.dests s.me) = false) (hw : o.waits s.me = syncWaits y s.me)
    (hb : o.ready s = true) (ha : o.addr s = some t) : Traps i s t :=
  traps_addr hi hr hd (by rw [hw]; exact admW hy) hb ha
theorem steps_of {i : Instr} {s t : State} (h : exec i s = .next t) : Steps i s t := h
@[simp] theorem fresh_fst (s : State) : s.fresh.1 = s.bids := rfl
@[simp] theorem fresh_bids (s : State) : s.fresh.2.bids = s.bids + 1 := rfl
@[simp] theorem fresh_core (s : State) (n) : s.fresh.2.core n = s.core n := rfl
@[simp] theorem fresh_die (s : State) (n) : s.fresh.2.die n = s.die n := rfl
@[simp] theorem fresh_ctx (s : State) (n) : s.fresh.2.ctx n = s.ctx n := rfl
@[simp] theorem fresh_me (s : State) : s.fresh.2.me = s.me := rfl
@[simp] theorem fresh_cur (s : State) : s.fresh.2.cur = s.cur := rfl
@[simp] theorem fresh_ctxs (s : State) : s.fresh.2.ctxs = s.ctxs := rfl
@[simp] theorem fresh_cores (s : State) : s.fresh.2.cores = s.cores := rfl
@[simp] theorem fresh_dies (s : State) : s.fresh.2.dies = s.dies := rfl
@[simp] theorem fresh_mem (s : State) : s.fresh.2.mem = s.mem := rfl
@[simp] theorem fresh_wire (s : State) : s.fresh.2.wire = s.wire := rfl
@[simp] theorem fresh_creg (s : State) : s.fresh.2.creg = s.creg := rfl
@[simp] theorem fresh_vdOf (s : State) (k) : s.fresh.2.vdOf k = s.vdOf k := rfl
@[simp] theorem fresh_epid (s : State) : s.fresh.2.epid = s.epid := rfl
@[simp] theorem fresh_clock (s : State) : s.fresh.2.clock = s.clock := rfl
theorem done_eq (s : State) (h) (y : Sync) : s.done h y = ⟨s.cur, s.me.task, h, if y.spt = true ∧ y.sinc ≠ 0 then some (y.ssem, y.sinc) else none⟩ := by
  unfold State.done; rw [syncEnd_eq]
@[simp] theorem enqueue_q (s : State) (c q x) : ((s.enqueue c q x).core c).q = tput (s.core c).q q ((s.core c).queue q ++ [x]) := by
  simp [State.enqueue, Core.setQueue]
@[simp] theorem enqueue_ctxs (s : State) (c q x) : (s.enqueue c q x).ctxs = s.ctxs := rfl
@[simp] theorem enqueue_dies (s : State) (c q x) : (s.enqueue c q x).dies = s.dies := rfl
@[simp] theorem enqueue_mem (s : State) (c q x) : (s.enqueue c q x).mem = s.mem := rfl
@[simp] theorem enqueue_wire (s : State) (c q x) : (s.enqueue c q x).wire = s.wire := rfl
@[simp] theorem enqueue_bids (s : State) (c q x) : (s.enqueue c q x).bids = s.bids := rfl
@[simp] theorem enqueue_cur (s : State) (c q x) : (s.enqueue c q x).cur = s.cur := rfl
@[simp] theorem enqueue_me (s : State) (c q x) : (s.enqueue c q x).me = s.me := rfl
@[simp] theorem enqueue_ctx (s : State) (c q x k) : (s.enqueue c q x).ctx k = s.ctx k := rfl

end Sys2Proof.Machine
end

