-- ==== Sys2Proof/Tests/Slice0.lean ====
section
/-! SUPPORT. The model's own tests: ill-formed terms that WellFormed refuses, words of the spec's encodings, small steps whose
results come from the spec's examples and tables, and a state that meets the hypotheses of each statement. -/

namespace Sys2Proof.Tests

open Sys2Proof Sys2Proof.Machine Sys2Proof.Spec

-- One theorem after the other: a thread for each would take more memory than the tests need.
set_option Elab.async false

/-! ## Helpers -/

/-- The guard that is always true. -/
def g0 : Guard := ⟨false, 0⟩

/-- The guard that is always false. -/
def gOff : Guard := ⟨true, 0⟩

/-- The empty sync pair. -/
def y0 : Sync := ⟨0, 0, 0, 0, false⟩

/-- A pair that waits for one count of m0 and signals m1 at completion. -/
def y1 : Sync := ⟨0, 1, 1, 1, true⟩

/-- No handle, flow 0, class 0. -/
def x0 : XArgs := ⟨none, 0, 0, y0⟩

/-- Queue 0, no barrier. -/
def cp0 : CopyArgs := ⟨0, 0, y0⟩

/-- An L or S operand [s6]. -/
def at6 : LSArgs := ⟨6, 0, 0, g0, false, .ctx⟩

/-- The registers of a virtual device 0 that owns cluster 0 of die 0 and all of the die's tables. -/
def vdRegs : Tbl Word :=
  [(regKey 0 0 0 0x000, 3), (regKey 0 0 0 0x008, 1), (regKey 0 0 0 0x018, 0x20000000000), (regKey 0 0 0 0x020, 0x100000000000),
   (regKey 0 0 0 0x028, 0x20000000000), (regKey 0 0 0 0x030, 0x10000000000), (regKey 0 0 0 0x038, 0x10000000000),
   (regKey 0 0 0 0x040, 0x100000000000)]

/-- A context that runs task 0x1000 with two tiles and sixteen semaphores, with values in its registers. -/
def ctxWith (r : Tbl Word) : Ctx :=
  { Ctx.reset with st := .running, task := 0x1000, pc := 0x100, vlim := 128, slim := 16, sregs := r }

/-- A package in which that context is context 0 of the first core and acts. -/
def base (c : Ctx) : State := { State.reset with ctxs := [(0, c)], creg := vdRegs, stage := 5 }

/-- The package with a plain context. -/
def box (r : Tbl Word) : State := base (ctxWith r)

/-- The package with a context that holds supervisor rights. -/
def boxSup (r : Tbl Word) : State := base { ctxWith r with sup := true }

/-- The package with a core 0 of one's own. -/
def boxCore (r : Tbl Word) (c : Core) : State := { box r with cores := [(0, c)] }

/-- The package with a die 0 of one's own. -/
def boxDie (r : Tbl Word) (d : Die) : State := { box r with dies := [(0, d)] }

/-- Where a byte of the own unit pad lies, and of the own cluster pad and die pad. -/
def upad (n : Nat) : Nat := 0xFFF0A00000000000 + n
def cpad (n : Nat) : Nat := 0xFFF0900000000000 + n
def dpad (n : Nat) : Nat := 0xFFF0800000000000 + n

/-- An address as a register holds it. -/
def addr (n : Nat) : Word := BitVec.ofNat 64 n

/-- The results that an operation puts in flight: register, value, cycles. -/
def flying (o : Host.Outcome State Fault Refusal) : List (Dest × Nat × Nat) :=
  match o with
  | .next t => t.me.inflight.map fun r => (r.dest, r.val.toNat, r.left)
  | _ => []

/-- What a next state answers to a question, 0 when there is none. -/
def ask (o : Host.Outcome State Fault Refusal) (f : State → Nat) : Nat :=
  match o with
  | .next t => f t
  | _ => 0

/-- The instruction that a word holds. -/
def word (k : WordKind) (w : Nat) : Option Instr := (decode k w).toOption

/-! ## Ill-formed terms -/

theorem test_wf_registers : ([.add 64 0 0 g0, .add 0 0 64 g0, .addi 64 0 0, .kand 12 0 0 g0, .kand 0 0 12 g0, .krd 0 12 0 g0,
    .kmovB 0 64 g0, .jr 64 g0, .mfs 64 0, .mts 64 0, .vmov .i8 1024 0 g0, .vmov .i8 0 1024 g0, .ld .i64 64 at6,
    .ldv .i8 1024 at6, .ldk 12 at6, .tmov 64 0 0 0 cp0, .xget 0 0 0 64 x0, .barwait 64 0 y0, .hrel 16 y0, .wfree 256 y0] : List
    Instr).all (fun i => i.wf == false) = true := by decide

theorem test_wf_guards : ([.add 1 1 1 ⟨false, 12⟩, .br ⟨false, 12⟩ 0, .tfence ⟨true, 12⟩, .vmov .i8 0 0 ⟨false, 12⟩,
    .ld .i64 1 ⟨6, 0, 0, ⟨false, 12⟩, false, .ctx⟩] : List Instr).all (fun i => i.wf == false) = true := by decide

theorem test_wf_immediates : ([.addi 1 1 4096, .addi 1 1 (-4097), .shli 1 1 64, .sethi 1 262144, .addsh 1 1 1 0 g0,
    .addsh 1 1 1 5 g0, .krd 1 1 4 g0, .sext 1 1 3 g0, .br g0 524288, .jmp g0 1048576, .loop 2 1 1, .loop 0 1 262144,
    .mfs 1 8192, .trapi 8192, .nop 0 false, .nop 16 false] : List Instr).all (fun i => i.wf == false) = true := by decide

theorem test_wf_types : ([.vadd .e4m3 0 0 0 g0 false, .vadd .f32 0 0 0 g0 true, .vmin .i8 0 0 0 g0 true, .vand .f32 0 0 0 g0,
    .vdot4 .i16 0 0 0 g0 false, .vdot2 .i8 0 0 0 g0 false, .vscl .i32 0 0 0 g0, .vsel .e2m1 0 0 0 g0, .vcnt .f32 0 0 g0,
    .vtop2 .i8 0 0 g0, .vquant .f64 0 0 0 g0, .vcor .f64 .sin 8 0 0 g0, .ld .f32 1 at6, .aadd .i16 1 at6, .afadd .i32 1 at6,
    .camo .fadd .i32 0 0 0 0 cp0, .xacc .and .f32 0 0 0 0 0 x0, .xamo .add .f32 0 0 0 0 x0, .xred .addSat .f32 0 0 0 0 x0,
    .vcvt .i8 .i8 .rne 0 0 0 g0 false] : List Instr).all (fun i => i.wf == false) = true := by decide

theorem test_wf_lanes : ([.vshlImm .i8 0 0 8 g0, .vbcast .i64 0 0 32 g0, .vlaneExtract .i32 1 0 64 g0, .vrot .i8 0 0 256 g0 false,
    .vcvt .i16 .i32 .rne 2 0 0 g0 false, .vquant .f32 0 0 8 g0, .vquantScale .f32 0 0 32 g0, .vcor .f32 .sin 3 0 0 g0,
    .vcor .f32 .sin 29 0 0 g0] : List Instr).all (fun i => i.wf == false) = true := by decide

theorem test_wf_memory : ([.ld .i64 1 ⟨64, 0, 0, g0, false, .ctx⟩, .ld .i64 1 ⟨6, 0, 1048576, g0, false, .ctx⟩,
    .ld .i64 1 ⟨6, 0, 0, g0, false, .die⟩, .ldvh .i8 false 1 ⟨6, 0, 32, g0, false, .ctx⟩, .ldg .i8 1 1 at6,
    .ldg .i32 1 1 ⟨6, 1, 0, g0, false, .ctx⟩] : List Instr).all (fun i => i.wf == false) = true := by decide

theorem test_wf_sync : ([.mshad ⟨1, 0, 0, 0, false⟩, .mshad ⟨0, 0, 1, 0, false⟩, .mshad ⟨0, 0, 0, 0, true⟩, .mshad ⟨0, 256, 0, 0, false⟩,
    .mshad ⟨0, 0, 0, 16, false⟩, .mshad ⟨256, 1, 0, 0, false⟩, .mshad ⟨0, 0, 256, 1, false⟩] : List Instr).all
    (fun i => i.wf == false) = true := by decide

theorem test_wf_commands : ([.mma 16 .entry 0 false y0, .mma 0 .lc0 1 false y0, .mfmt .entry 16 0 y0, .mcfgi .k 65536 y0,
    .mkeep 65536 y0, .mrestart 4194304 y0, .mzero 16 y0, .tmov 0 0 0 0 ⟨4, 0, y0⟩, .tmov 0 0 0 0 ⟨0, 64, y0⟩,
    .tmcast 0 0 0 0 0 cp0, .qjoin 0 y0, .qjoin 16 y0, .migr 0 0 0 3 none y0, .xget 0 0 0 0 ⟨some 16, 0, 0, y0⟩,
    .xget 0 0 0 0 ⟨none, 16, 0, y0⟩, .xget 0 0 0 0 ⟨none, 0, 4, y0⟩, .xput 0 0 0 0 4096 x0, .csend 4 0 0 x0,
    .ctxsv 4 0 0 0 y0] : List Instr).all (fun i => i.wf == false) = true := by decide

theorem test_wf_selectors : ([.semadd 0 false 0 0 y0, .semadd 0 false 1 1 y0, .semadd 256 false 1 0 y0, .semset 256 false 0 y0,
    .bararr 0 0 0 y0, .bararr 0 1 1 y0, .hstat 0 0 2 y0, .tdep 0 0 y0, .tdep 0 64 y0, .vwq 0 0 3 y0, .aq 0 2 y0,
    .event 0 0 64 y0, .wlockEx 256 0 y0, .tsuspL 16 0 0 y0, .acfg .aeps 64 y0] : List Instr).all (fun i => i.wf == false) = true :=
  by decide

/-! ## Words of the spec's encodings -/

theorem test_word_cmplt : word .x 0x38206380 = some (.cmplt 4 3 7 g0) := by decide
theorem test_word_br : word .x 0x811FFFF4 = some (.br ⟨true, 1⟩ (-12)) := by decide
theorem test_word_mcfg : word .m 0x0101001400000000 = some (.mcfg .aaddr 20 y0) := by decide
theorem test_word_mcfgi : word .m 0x0205010000000000 = some (.mcfgi .k 256 y0) := by decide
theorem test_word_ld : word .l 0x01180A0180000040 = some (.ld .i64 10 ⟨6, 0, 0x40, g0, false, .ctx⟩) := by decide
theorem test_word_ld_acquire : word .l 0x01180A01D0000040 = some (.ld .i64 10 ⟨6, 0, 0x40, g0, true, .cl⟩) := by decide
theorem test_word_st_release : word .s 0x01181401D0008000 = some (.st .i64 20 ⟨6, 0, 0x8000, g0, true, .cl⟩) := by decide
theorem test_word_aadd : word .s 0x061C0C0181A00100 = some (.aadd .i64 12 ⟨7, 13, 0x100, g0, false, .ctx⟩) := by decide
theorem test_word_fence_ar : word .s 0x0E00000198000000 = some (.fenceAr .die) := by decide
theorem test_word_fence_rel : word .s 0x0E00000128000000 = some (.fenceRel .sys) := by decide
theorem test_word_vquant : word .v 0x25D0A0200000 = some (.vquant .f32 40 32 0 g0) := by decide
theorem test_word_vquant_scale : word .v 0x25D0A4200001 = some (.vquantScale .f32 41 32 0 g0) := by decide
theorem test_word_vcor : word .v 0x27D00C020500 = some (.vcor .f32 .sin 20 3 2 g0) := by decide
theorem test_word_tgath : word .c 0x0428B30D8003800000000518 = some (.tgath 10 11 12 13 ⟨2, 14, ⟨0, 0, 5, 1, true⟩⟩) := by decide
theorem test_word_migr : word .c 0x101051800000010000000218 = some (.migr 4 5 6 1 none ⟨0, 0, 2, 1, true⟩) := by decide
theorem test_word_xput : word .c 0x0A79F2400400000100000000 = some (.xput 30 31 9 0 0 ⟨some 1, 0, 0, y0⟩) := by decide
theorem test_word_csend : word .c 0x0E10500048D0000100000000 = some (.csend 1 4 5 ⟨some 2, 3, 1, y0⟩) := by decide
theorem test_word_xred : word .c 0x0D28B3000C10051900000000 = some (.xred .add .f16 10 11 12 5 ⟨some 3, 0, 1, y0⟩) := by decide
theorem test_word_ago : word .c 0x0F28B0000000000000000118 = some (.ago 10 11 none ⟨0, 0, 1, 1, true⟩) := by decide
theorem test_word_ctxsv : word .c 0x111050060000000000000000 = some (.ctxsv 0 4 5 6 y0) := by decide
theorem test_word_semadd : word .y 0x0105000300000000 = some (.semadd 5 false 0 3 y0) := by decide
theorem test_word_barwait : word .y 0x0838F00000000000 = some (.barwait 14 15 y0) := by decide
theorem test_word_hwait : word .y 0x0904000100000000 = some (.hwaitR 1 y0) := by decide
theorem test_word_wcreate : word .y 0x1303054B00000000 = some (.wcreate 3 21 11 y0) := by decide
theorem test_word_wlock : word .y 0x1A0501C100000000 = some (.wlockEx 5 7 y0) := by decide
theorem test_word_cret : word .y 0x1D10000000000000 = some (.cret 0 4 y0) := by decide
theorem test_word_vwnew : word .y 0x1E00510000000000 = some (.vwnew 4 5 y0) := by decide
theorem test_word_vwdup : word .y 0x1F10A20000000000 = some (.vwdup 8 4 10 y0) := by decide
theorem test_word_vwnar : word .y 0x2020C00000000000 = some (.vwnar 8 12 y0) := by decide
theorem test_word_vwq : word .y 0x221001C100000000 = some (.vwq 7 4 1 y0) := by decide
theorem test_word_flowcfg : word .y 0x2418700000000000 = some (.flowcfg 6 7 y0) := by decide
theorem test_word_aq : word .y 0x2600030000000000 = some (.aq 12 0 y0) := by decide
theorem test_word_event : word .y 0x2710500300000000 = some (.event 4 5 3 y0) := by decide
theorem test_word_preempt : word .y 0x2A10024000000000 = some (.preempt 4 9 y0) := by decide
theorem test_word_preempt_self : word .y 0x2A00000100000000 = some (.preemptSelf y0) := by decide
theorem test_word_nop : word .hdr 0x00300000 = some (.nop 3 false) := by decide

/-- Reserved opcodes do not fall through to a neighbour. -/
theorem test_word_reserved : ([(.x, 0), (.y, 0), (.m, 0), (.l, 0), (.s, 0), (.c, 0), (.v, 0)] : List (WordKind × Nat)).all (fun e =>
    match decode e.1 e.2 with | .error c => c == .illegalOpcode | .ok _ => false) = true := by decide

/-! ## States that meet the statements' hypotheses -/

/-- The hypotheses of the statements hold in these states and operands: guards on and off. -/
theorem test_meets_guards : on (box []) g0 ∧ ¬ on (box []) gOff ∧
    (.add 1 2 3 gOff : Instr) ∈ [(.add 1 2 3 gOff : Instr)] := by
  refine ⟨by unfold on; decide +kernel, by unfold on; decide +kernel, by decide⟩

/-- The immediates of CMPLTI at both ends of their range. -/
theorem test_meets_ScalarImmediateAndPredicates : ((-4096 : Int) ≤ -4096 ∧ (-4096 : Int) ≤ 4095) ∧ ((-4096 : Int) ≤ 4095 ∧ (4095 : Int) ≤ 4095) ∧
    on (box []) g0 ∧ (0 < 0 ∨ (0 : Nat) < 1) := by
  refine ⟨by decide, by decide, by unfold on; decide +kernel, by decide⟩

/-- Register targets with bit 0 clear and set. -/
theorem test_meets_ControlTransfers : on (box [(1, 0x200)]) g0 ∧ ((box [(1, 0x200)]).me.s 1).getLsbD 0 = false ∧
    ((box [(1, 0x201)]).me.s 1).getLsbD 0 = true ∧ ¬ on (box [(1, 0x201)]) gOff := by
  refine ⟨by unfold on; decide +kernel, by decide +kernel, by decide +kernel, by unfold on; decide +kernel⟩

/-- A context in the loops `l0` and `l1`. -/
def boxLoops (l0 l1 : LoopSt) : State := base { ctxWith [] with lc0 := l0, lc1 := l1 }

theorem test_meets_LoopBreak : Instr.wf (.lbrk g0 (-3)) = true ∧
    (let s := boxLoops ⟨2, 0x80, 0x90, true⟩ ⟨2, 0x80, 0x90, true⟩; on s g0 ∧ s.me.lc1.la = true) ∧
    (let s := boxLoops ⟨2, 0x80, 0x90, true⟩ .reset; on s g0 ∧ s.me.lc1.la = false ∧ s.me.lc0.la = true) ∧
    (let s := boxLoops .reset .reset; on s g0 ∧ s.me.lc1.la = false ∧ s.me.lc0.la = false ∧ ¬ on s gOff) := by
  unfold on; decide +kernel

/-- An end offset at the first body bundle is in order; one parcel before it is not. -/
theorem test_meets_LoopSetUp : let s := box [(1, 3)]
    2 * 3 < (s.link (dieOf s.cur) s.me.pc - s.me.pc).toNat ∧ ¬ 2 * 6 < (s.link (dieOf s.cur) s.me.pc - s.me.pc).toNat := by
  decide +kernel

theorem test_meets_TransferTakesEffect :
    (let c : Ctx := { ctxWith [] with lc1 := ⟨2, 0x80, 0x90, true⟩ }; c.lc1.la = true ∧ c.lc1.le = 0x90 ∧ 1 < c.lc1.lc.toNat) ∧
    (let c : Ctx := { ctxWith [] with lc1 := ⟨1, 0x80, 0x90, true⟩, lc0 := ⟨2, 0x70, 0x90, true⟩ }
     ¬ ((c.lc1.la = true ∧ c.lc1.le = 0x90) ∧ 1 < c.lc1.lc.toNat) ∧ (c.lc0.la = true ∧ c.lc0.le = 0x90) ∧ 1 < c.lc0.lc.toNat) ∧
    (let c : Ctx := { ctxWith [] with lc0 := ⟨1, 0x70, 0x90, true⟩ }
     ¬ ((c.lc1.la = true ∧ c.lc1.le = 0x90) ∧ 1 < c.lc1.lc.toNat) ∧ ¬ ((c.lc0.la = true ∧ c.lc0.le = 0x90) ∧ 1 < c.lc0.lc.toNat)) ∧
    ((base { ctxWith [] with idle := 3 }).ctx 0).idle ≠ 0 ∧
    (((box []).ctx 0).idle = 0 ∧ ((box []).ctx 0).xfer = none) ∧
    (let c := (base { ctxWith [] with xfer := some ⟨.jump 0x200, 1⟩ }).ctx 0; c.idle = 0 ∧ c.xfer = some ⟨.jump 0x200, 1⟩ ∧ (1 : Nat) ≠ 0) ∧
    (let c := (base { ctxWith [] with xfer := some ⟨.jump 0x200, 0⟩ }).ctx 0; c.idle = 0 ∧ c.xfer = some ⟨.jump 0x200, 0⟩) ∧
    (let c := (base { ctxWith [] with xfer := some ⟨.fall, 0⟩ }).ctx 0; c.idle = 0 ∧ c.xfer = some ⟨.fall, 0⟩) ∧
    (let c := (base { ctxWith [] with xfer := some ⟨.trapi 7 0x108, 0⟩ }).ctx 0; c.idle = 0 ∧ c.xfer = some ⟨.trapi 7 0x108, 0⟩) ∧
    (let c := (base { ctxWith [] with xfer := some ⟨.eret, 0⟩ }).ctx 0; c.idle = 0 ∧ c.xfer = some ⟨.eret, 0⟩) := by
  decide +kernel

theorem test_meets_SpecialRegisterReads : (boxSup []).me.sup = true ∧ (box []).me.sup = false ∧ 0x100 ≤ 0x107 ∧
    0x09 ∉ List.range 9 ++ [0x10, 0x11, 0x12, 0x13, 0x20, 0x21, 0x22, 0x23, 0x24, 0x30, 0x31, 0x32, 0x40, 0x41, 0x50, 0x51] ++
      [0x100, 0x101, 0x102, 0x103, 0x104, 0x105, 0x106, 0x107] ∧
    0x51 ∉ [0x20, 0x21, 0x22, 0x23, 0x24, 0x50, 0x100, 0x101, 0x102, 0x103, 0x104, 0x105, 0x106, 0x107] := by decide +kernel

theorem test_meets_SpecialRegisterWrites : 0x20 ∈ [0x20, 0x21, 0x22, 0x23, 0x24, 0x50] ∧
    ((boxSup []).me.sup = true ∧ 0x107 ∈ [0x100, 0x101, 0x102, 0x103, 0x104, 0x105, 0x106, 0x107]) ∧ 0 < 4 ∧ 3 < 4 := by decide +kernel

/-- A result of the VA slot in flight. -/
def vResult : Result := ⟨.row 3, 0, 0, 0, 2, .va, false⟩

/-- A matrix operation of context 0 in the engine. -/
def someMat : MatOp :=
  { kind := .mzero, ctx := 0, tile := 0, tnum := 0, eidx := 0, entry := 0, acc := false, sh := .reset, stream := 4, start := none,
    olds := [], base := [], writes := [], sees := (0, 0), shadow := false, opnum := 0, id := 0, done := ⟨0, 0x1000, none, none⟩ }

theorem test_meets_TrapAndFence : (boxSup []).me.sup = true ∧ (box []).me.sup = false ∧ (3 : Nat) ≠ 0 ∧
    (∃ r ∈ (base { ctxWith [] with inflight := [vResult] }).me.inflight, r.src = .va ∨ r.src = .vb ∨ r.src = .hdr) ∧
    (∃ x, ((boxCore [] { Core.reset with act := some someMat }).core 0).act = some x ∧ x.ctx = (box []).cur) ∧
    ((box []).me.inflight = [] ∧ (box []).me.latches = [] ∧ ((box []).core 0).act = none ∧ ((box []).core 0).pend = none) ∧
    (let c := (base { ctxWith [] with flags := 1, trapen := 1 }).me; c.flags &&& c.trapen ≠ 0) ∧
    (let c := (base { ctxWith [] with flags := 1, trapen := 2 }).me; c.flags &&& c.trapen = 0) := by
  and_intros <;> first | decide +kernel | exact ⟨someMat, by decide +kernel⟩

theorem test_meets_TrapEntryAndReturn : ((boxSup []).ctx 0).sup = true ∧ ((box []).ctx 0).sup = false ∧ (1 : Nat) ≠ 0 := by
  decide +kernel

theorem test_meets_KillBegins : ((box []).ctx 1).st = .free ∧ ((base { ctxWith [] with st := .dying 2 }).ctx 0).st = .dying 2 ∧
    ((box []).ctx 0).st ≠ .free ∧ ∀ r, ((box []).ctx 0).st ≠ .dying r := by
  refine ⟨by decide +kernel, by decide +kernel, by decide +kernel, fun r h => ?_⟩
  cases (show CtxSt.running = .dying r from h)

theorem test_meets_ResultLands : 1 ≤ 1 ∧ (5 : Nat) ≠ 0 ∧ (box []).me.inflight = [] ∧ 0 < 1 ∧
    (1 : Pred).getLsbD 0 = true ∧ (1 : Nat).testBit 0 = true := by decide +kernel

theorem test_meets_WritebackFrame :
    let due := ((base { ctxWith [] with inflight := [⟨.sreg 1, 7, 0, 0, 1, .x, false⟩] }).ctx 0).inflight.filter fun r => decide (r.left ≤ 1)
    due.length = 1 ∧ (∀ r ∈ due, r.dest ≠ .sreg 2) ∧ (∀ r ∈ due, r.dest ≠ .kreg 1) ∧ (∀ r ∈ due, r.dest ≠ .row 0) ∧ 1 ≠ 0 := by
  decide +kernel

theorem test_meets_XSlotFrame : ∃ t, Instr.kind (.addi 3 1 4) = .x ∧ exec (.addi 3 1 4) (box [(1, 5)]) = .next t ∧ t.last ≠ .trapped ∧
    (∀ n a b, (.addi 3 1 4 : Instr) ≠ .loop n a b) ∧ ∀ g off, (.addi 3 1 4 : Instr) ≠ .lbrk g off :=
  ⟨_, rfl, rfl, by decide +kernel, fun _ _ _ h => Instr.noConfusion h, fun _ _ h => Instr.noConfusion h⟩

/-- The tile at rows 64 to 127 under context 0's matrix operation. -/
def boxBusy : State := boxCore [] { Core.reset with act := some { someMat with tile := 64 } }

theorem test_meets_VectorIssues : ∃ v, vopOf (.vadd .i32 1 70 2 g0 false) = some v ∧
    (∀ n ∈ v.rows, (box []).me.vbase + n < (box []).me.vlim) ∧ (v.out (box []).rd).isSome = true ∧
    (∀ n ∈ v.reads, (box []).rowBusy (box []).cur n = false) ∧
    (∀ n ∈ v.rows, boxBusy.me.vbase + n < boxBusy.me.vlim) ∧ (v.out boxBusy.rd).isSome = true ∧
    (∃ n ∈ v.reads, boxBusy.rowBusy boxBusy.cur n = true) ∧
    ∃ u, vopOf (.vadd .i32 128 1 2 gOff false) = some u ∧ u.out (box []).rd = none ∧
      ∃ n ∈ u.rows, ¬ (box []).me.vbase + n < (box []).me.vlim :=
  ⟨_, rfl, by decide +kernel, by decide +kernel, by decide +kernel, by decide +kernel, by decide +kernel, by decide +kernel, _, rfl,
    by decide +kernel⟩

/-- What a bundle reads in the plain package, with k1 enabling the first 32-bit lane alone. -/
def rdOne : Rd := (base { ctxWith [] with kregs := [(1, 0xF)] }).rd

theorem test_meets_VectorIntegerLanes : Ty.i32.isInt = true ∧ ((rdOne.c.k 1).getLsbD (0 * 4) != false) = true ∧
    (∀ j, j < 64 → ((rdOne.c.k 0).getLsbD (j * 4) != true) = false) ∧ 63 < 256 / Ty.i32.bytes ∧ 31 < 8 * Ty.i32.bytes ∧
    Ty.i8.isInt = true ∧ 0 < 256 / Ty.i8.bytes ∧ 0 < 8 * Ty.i8.bytes ∧ (Ty.n16 = .i8 ∨ Ty.n16 = .n8 ∨ Ty.n16 = .i16 ∨ Ty.n16 = .n16) ∧
    Ty.bf16.isInt = false := by decide +kernel

theorem test_meets_VectorSelectAndCount : Ty.f32 ≠ .e2m1 ∧ Ty.i32.isInt = true ∧ (∃ j, j < 256 / Ty.f32.bytes ∧
    ((rdOne.c.k 1).getLsbD (j * 4) != false) = true) ∧ ∀ j, j < 64 → ((rdOne.c.k 0).getLsbD (j * 4) != true) = false := by
  decide +kernel

/-- With lanes 0 and 1 of row 6 enabled by k1, 2.0 and 1.0; row 7 holds small scales. -/
def rdTwo : Rd :=
  ({ base { ctxWith [] with kregs := [(1, 0xFF)] } with
     cores := [(0, { Core.reset with rows := [(6, BitVec.ofNat 2048 0x3F80000040000000)] })] }).rd

/-- The value of a lane of row 6 there. -/
def laneTwo (i : Nat) : FVal := floatOf .f32 (rdTwo.row 6 / 2 ^ (32 * i) % 2 ^ 32)

theorem test_meets_VectorFloatAndCompareLanes : Ty.f32.isInt = false ∧ Ty.f32 ≠ .e2m1 ∧ (Ty.f32 = .bf16 ∨ Ty.f32 = .f16 ∨ Ty.f32 = .f32 ∨ Ty.f32 = .f64) ∧
    (∃ j, j < 256 / Ty.f32.bytes ∧ ((rdTwo.c.k 1).getLsbD (j * 4) != false) = true) ∧
    (∀ j, j < 64 → ((rdTwo.c.k 0).getLsbD (j * 4) != true) = false) ∧
    ∀ i, i < 64 → rdTwo.row 7 / 2 ^ (32 * i) % 2 ^ 32 ≤ 5000 := by
  decide +kernel

/-- Of the two enabled lanes lane 0 is first, and then lane 1; with k2 enabling lane 0 alone it has no second. -/
theorem test_meets_VectorReductionsAndConversions : Ty.i8 ≠ .e2m1 ∧
    ((laneTwo 1).lt (laneTwo 0) = true ∧ ((rdTwo.c.k 1).getLsbD 0 != false) = true ∧ ((rdTwo.c.k 1).getLsbD 4 != false) = true ∧
      ∀ j, j < 64 → 2 ≤ j → ((rdTwo.c.k 1).getLsbD (j * 4) != false) = false) ∧
    (∀ j, j < 64 → ((rdOne.c.k 1).getLsbD (j * 4) != false) = true → j = 0) ∧
    (Ty.bf16 ≠ .f32 ∧ 1 < max Ty.bf16.bits Ty.f32.bits / min Ty.bf16.bits Ty.f32.bits) ∧
    (7 < 512 / (256 / Ty.f32.bytes) ∧ 31 < 2048 / (256 / Ty.f32.bytes)) ∧
    (CorFn.sin ≠ .atan2 ∧ CorFn.sin ≠ .div) ∧ (0 < 1 ∧ 0 < 5000 ∧ 1 * 4096 < 5000) ∧ 16 * 1 ≤ 16 ∧ (1 ≤ 1 * 4096 ∧ 1 < 16 * 1) := by
  decide +kernel

/-- A package whose m0 holds 1. -/
def boxSem (r : Tbl Word) : State := boxCore r { Core.reset with sems := [(0, 1)] }

/-- A pair that waits and one that does nothing are in order. -/
theorem test_meets_sync : Admits y1 (boxSem []) ∧ Admits y0 (box []) := by
  constructor <;> (unfold Admits; decide +kernel)

theorem test_meets_MatrixConfiguration : Admits y1 (boxSem [(1, 0xBBD0F000)]) ∧
    entOk (((boxSem [(1, 0xBBD0F000)]).me.s 1).extractLsb' 0 32) = true ∧
    (∀ n, n < 16 → Nat.testBit 3 n = true → (box []).me.vbase + 64 * n + 63 < (box []).me.vlim) := by
  refine ⟨by unfold Admits; decide +kernel, by decide +kernel, by decide +kernel⟩

/-- A package whose shadow set describes operands that pass: A in group 0, B in group 1. -/
def boxMat (c : Core) : State :=
  { base { ctxWith [] with sh := { Shadow.reset with baddr := 0x40000, k := 64, astr := 128, bstr := 128 } } with cores := [(0, c)] }

theorem test_meets_MatrixCommit : (2 < 16 ∧ Nat.testBit 4 2 = true ∧ ¬ (box []).me.vbase + 64 * 2 + 63 < (box []).me.vlim) ∧
    entOk (((box [(1, 0)]).me.s 1).extractLsb' 0 32) = false ∧
    (boxMat .reset).me.vbase + 64 * 1 + 63 < (boxMat .reset).me.vlim ∧ ¬ (boxMat .reset).me.vbase + 64 * 2 + 63 < (boxMat .reset).me.vlim ∧
    ((boxMat .reset).core 0).act = none ∧
    (let ent := entOf ((boxMat .reset).me.fmtE 0); kindOk .mma ent = true ∧ bankReason .mma ent (boxMat .reset).me.sh = none) ∧
    (let s := boxMat { Core.reset with act := some someMat, pend := some someMat }
     ¬ ((s.core 0).act = none ∨ (s.core 0).pend = none)) ∧
    (let ent := entOf ((boxMat .reset).me.fmtE 0); kindOk .mmac ent = true ∨ kindOk .mmac ent = false) ∧
    bankReason .mma (entOf ((box []).me.fmtE 0)) (box []).me.sh = some 1 := by decide +kernel

/-- An operation that began to stream 15 cycles ago, with nothing written since. -/
def matNow : MatOp :=
  { someMat with kind := .mmas, entry := 0xBBD2F000, sh := { Shadow.reset with k := 32 }, stream := 4, start := some 0, acc := true }

theorem test_meets_MatrixLayoutTimeAndResult :
    (let e := entOf ((box []).me.fmtE 0); bankReason .mma e Shadow.reset = some 1 ∧ e.a = .bf16 ∧ e.acc = .f32) ∧
    (let s := { boxCore [] { Core.reset with act := some matNow } with sel := [0], clock := 15 }
     s.sel = [0] ∧ (s.core 0).act = some matNow ∧ matNow.start = some 0 ∧ matNow.ctx / 4 = 0 ∧ matNow.kind ≠ .mzero ∧ s.turn = [] ∧
     0 + matNow.stream + 11 ≤ s.clock ∧ matNow.done.sig = none ∧ matNow.writes = [] ∧ entOk matNow.entry = true ∧
     kindOk matNow.kind (entOf matNow.entry) = true) := by decide +kernel

theorem test_meets_PadAddressClass : (box []).checkAddr 0 .ls (addr (upad 0x40)) = none ∧
    ((addr 0xFFF0F00000000000).toNat / 2 ^ 44 % 16 = 0xF ∧ ((box []).ctx 0).sup = false) ∧
    (box []).checkAddr 0 .ls (addr (dpad 0)) = some .addrClass := by decide +kernel

/-- The last eight bytes of the unit pad, the first of the cluster pad, and 256 bytes of it pass every check. -/
theorem test_meets_accesses : let s := box [(6, addr (upad 0xFFFF8))]
    PadAccess s (addr (upad 0xFFFF8)) 8 8 ∧ Calm s [(upad 0xFFFF8, 8)] ∧ PadAccess s (addr (cpad 0)) 32 32 ∧ Calm s [(cpad 0, 32)] ∧
    PadAccess s (addr (cpad 0x100)) 256 64 ∧ PadAccess s (addr (cpad 0x100)) 128 64 ∧ PadAccess s (addr (cpad 0x100)) 4 4 ∧
    Calm s ((List.range 64).map fun i => (cpad 0x100 + 4 * i, 4)) ∧ Clean s ((List.range 64).map fun i => (cpad 0x100 + 4 * i, 4)) ∧
    Clean s [(upad 0xFFFF8, 8)] ∧ Clean s [(cpad 0, 32)] ∧ on s g0 := by
  unfold PadAccess Calm Clean on; decide +kernel

theorem test_meets_ScalarLoadsAndStores : Ty.i64.isInt = true ∧ Ty.n8.isInt = true ∧ (Ty.i64 = .i32 ∨ Ty.i64 = .i64) := by decide

theorem test_meets_RowLoadsAndStores : Ty.i32 ≠ .e2m1 ∧ (let s := box []
    s.me.vbase + 127 < s.me.vlim ∧ laneEnabled s g0 4 63 = true ∧ ((List.range 64).filter fun i => laneEnabled s g0 4 i).getLast? = some 63 ∧
    ((List.range 64).filter fun e => laneEnabled s g0 4 e && decide (128 ≤ e * 4) && decide (e * 4 < 128 + 128)) ≠ [] ∧
    ((List.range 64).filter fun i => laneEnabled s g0 4 i) ≠ []) := by
  unfold laneEnabled; decide +kernel

theorem test_meets_PadAtomics : PadAccess (box []) (addr (upad 0)) 4 4 ∧ Calm (box []) [(upad 0, 4)] ∧ Clean (box []) [(upad 0, 4)] ∧ on (box []) g0 ∧
    (Ty.i32 = .i32 ∨ Ty.i32 = .i64 ∨ Ty.i32 = .n32 ∨ Ty.i32 = .n64) ∧ (Ty.f32 = .f32 ∨ Ty.f32 = .f64) := by
  unfold PadAccess Calm Clean on; decide +kernel

theorem test_meets_MemoryGuardsAndTraps : ¬ on (box []) gOff ∧ (∀ e, e < 64 → laneEnabled (box []) gOff 4 e = false) ∧
    (laneEnabled (box []) g0 1 255 = true ∧ 256 ≤ 255 + 1) ∧
    (let s := base { ctxWith [] with kregs := [(1, 0xF)] }
     (∀ e, e < 64 → decide (128 ≤ e * 4) = true → laneEnabled s ⟨false, 1⟩ 4 e = false) ∧ laneEnabled s ⟨false, 1⟩ 4 0 = true ∧
       ∀ e, e < 64 → 0 < e → laneEnabled s ⟨false, 1⟩ 4 e = false) ∧ ¬ (box []).me.vbase + 128 < (box []).me.vlim ∧
    (box []).checkAddr 0 .ls (addr 0xFFF0F00000000000) = some .privilege ∧ (box []).checkAddr 0 .ls (addr (dpad 0)) = some .addrClass ∧
    ((box []).checkAddr 0 .ls (addr (upad 0xFFFFC)) = none ∧ ¬ offOf (addr (upad 0xFFFFC)) + 8 ≤ spaceSize (kindOf (addr (upad 0xFFFFC)))) ∧
    ((box []).checkAddr 0 .ls (addr (upad 4)) = none ∧ offOf (addr (upad 4)) + 8 ≤ spaceSize (kindOf (addr (upad 4))) ∧
      ¬ 8 ∣ (addr (upad 4)).toNat) := by
  unfold on laneEnabled; decide +kernel

theorem test_meets_Fences : (box []).me.inflight = [] ∧ (box []).me.latches = [] ∧ ((box []).core 0).late = [] ∧
    (∃ r ∈ (base { ctxWith [] with inflight := [⟨.sreg 1, 0, 0, 0, 3, .l, false⟩] }).me.inflight, r.src = .l) ∧
    (∃ x ∈ ((boxCore [] { Core.reset with late := [⟨0, .l, .ld .i64 1 at6, [], [], [], 0, 0, 0, [], []⟩] }).core 0).late, x.ctx = (box []).cur) := by
  decide +kernel

/-- Operands of a copy of one row of 64 bytes within the unit pad. -/
def boxCopy : State := box [(1, addr (upad 0x1000)), (2, addr (upad 0x2000)), (3, 0x100000040), (4, 0x4000000040)]

theorem test_meets_LocalCopies : Admits cp0.y boxCopy ∧ (tget [] (boxCopy.core 0).q cp0.q).length < 16 ∧ (boxCopy.core 0).score.length < 16 ∧
    copyAddr (shapeOf (.tfill 1 2 3 0 cp0)) 1 2 3 0 0 (box [(1, addr (upad 0x1000)), (3, 64)]) = none ∧
    (∃ r, copyAddr (shapeOf (.tmov 1 2 3 0 cp0)) 1 2 3 0 0 (box []) = some r) ∧
    (16 ≤ (tget [] ((boxCore [] { Core.reset with q := [(0, List.replicate 16 (newCmd 0 (.tmov 0 0 0 0 cp0) 0 ⟨0, 0, 0, 0⟩ 0 [] ⟨0, 0, none, none⟩))] }).core 0).q 0).length) ∧
    (∃ q, q < 4 ∧ Nat.testBit 1 q = true) := by
  and_intros <;> first | decide +kernel | (unfold Admits; decide +kernel) | skip
  exact ⟨_, rfl⟩

/-- A TFILL of one chunk of the unit pad at the head of queue 0. -/
def fillCmd : CopyCmd :=
  { id := 7, op := .tfill 1 2 3 0 cp0, vd := 0, a := addr (upad 0x1000), b := 0x8877665544332211, c := 64, e := 0, bar := 0, row := 0,
    rd := 0, wr := 0, buf := [], idx := none, headAt := none, hold := none, pins := [], done := ⟨0, 0x1000, none, none⟩ }

def boxFill : State := { boxCore [] { Core.reset with q := [(0, [fillCmd])] } with sel := [0, 0, 3], turn := [0] }

/-- No queue before queue 0 in rotation has a beat ready there. -/
theorem test_meets_CopyBeats_fill : let s := boxFill
    (∀ i, i < (0 + 3 - (s.core 0).beatQ) % 4 → s.beatReady 0 (((s.core 0).beatQ + 1 + i) % 4) = false) ∧
    s.sel = [0, 0, 3] ∧ s.turn ≠ [] ∧ tget [] (s.core 0).q 0 = [fillCmd] ∧ fillCmd.op = .tfill 1 2 3 0 cp0 ∧ fillCmd.row = 0 ∧
    fillCmd.rd = 0 ∧ fillCmd.wr = 0 ∧ fillCmd.buf = [] ∧ fillCmd.idx = none ∧ fillCmd.hold = none ∧ fillCmd.bar = 0 ∧
    (s.die 0).halted = false ∧ (s.core 0).beatAt ≠ some s.clock ∧ 0 < fillCmd.c.toNat ∧
    fillCmd.c.toNat ≤ 64 - fillCmd.a.toNat % 64 ∧ fillCmd.a.toNat / 2 ^ 44 % 16 = 0xA ∧
    (fillCmd.a.toNat / 2 ^ 52 = 0xFFF ∧ fillCmd.a.toNat / 2 ^ 48 % 16 = 0) ∧ s.bankBusy (addrBanks fillCmd.a fillCmd.c.toNat) = false := by
  decide +kernel

/-- A copy from byte 0x2000 to byte 0x1000 of the unit pad, with its count and its fourth operand. -/
def copyOf (i : Instr) (c e : Nat) : CopyCmd := { fillCmd with op := i, b := addr (upad 0x2000), c := addr c, e := addr e }

/-- That copy at the head of queue 0: the engine only reads once it has made the cycle's beat (`n` = 1), or may write. -/
def boxBeat (x : CopyCmd) (n : Nat) : State :=
  { boxCore [] { Core.reset with q := [(0, [x])], beatAt := if n = 1 then some 0 else none } with sel := [0, 0, n], turn := [0] }

/-- A range within one chunk of the unit or cluster pad of die 0. -/
def chunkIn (w : Word) (n : Nat) : Bool :=
  decide (w.toNat / 2 ^ 52 = 0xFFF ∧ w.toNat / 2 ^ 48 % 16 = 0 ∧ (w.toNat / 2 ^ 44 % 16 = 0x9 ∨ w.toNat / 2 ^ 44 % 16 = 0xA) ∧
    offOf w + n ≤ spaceSize (kindOf w) ∧ n ≤ 64 - w.toNat % 64)

/-- The hypotheses of the reads: the engine's state, a row of a TMOV, and two rows of 32 bytes with their indexes at 0x3000. -/
theorem test_meets_CopyBeats_reads : let x := copyOf (.tmov 1 2 3 0 cp0) 64 0
    let s := boxBeat x 1
    let g := copyOf (.tgath 1 2 3 4 cp0) 0x200000020 (upad 0x3000)
    (s.sel = [0, 0, 1] ∧ s.turn ≠ [] ∧ tget [] (s.core 0).q 0 = [x] ∧ x.hold = none ∧ x.bar = 0 ∧ (s.die 0).halted = false ∧
      (s.core 0).beatAt = some s.clock) ∧
    (x.rd = 0 ∧ x.wr = 0 ∧ x.buf = [] ∧ x.row < 1 ∧ 0 < x.c.toNat ∧ chunkIn x.b 64 = true ∧ s.bankBusy (addrBanks x.b 64) = false) ∧
    (g.idx = none ∧ g.row < g.c.toNat / 2 ^ 32 ∧ 0 < g.c.toNat % 2 ^ 32 ∧ chunkIn (g.e + BitVec.ofNat 64 (4 * g.row)) 4 = true ∧
      (boxBeat g 1).bankBusy (addrBanks (g.e + BitVec.ofNat 64 (4 * g.row)) 4) = false) ∧
    (∃ v : Nat, 2 ^ 20 < offOf g.b + v * 32 + 32 ∧ v < 2 ^ 31) ∧
    (let z := copyOf (.camo .add .i64 1 2 3 4 cp0) 1 0
     z.row = 0 ∧ Ty.i64.bytes ≠ 0 ∧ (addr (dpad 8)).toNat / 2 ^ 52 = 0xFFF ∧ (addr (dpad 8)).toNat / 2 ^ 48 % 16 = 0 ∧
       (addr (dpad 8)).toNat / 2 ^ 44 % 16 = 0x8 ∧ Ty.i64.isInt = true) := by
  and_intros <;> first | decide +kernel | exact ⟨65535, by decide +kernel⟩

/-- The hypotheses of the writes: a TMOV with its row read, and a TSCAT with an index. -/
theorem test_meets_CopyBeats_writes : let x := { copyOf (.tmov 1 2 3 0 cp0) 64 0 with rd := 64, buf := zeros 64 }
    let s := boxBeat x 0
    let g := { copyOf (.tscat 1 2 3 4 cp0) 0x200000020 (upad 0x3000) with idx := some 3 }
    (x.wr = 0 ∧ x.rd = x.c.toNat ∧ x.buf.length = x.c.toNat ∧ x.row < 1 ∧ (s.core 0).beatAt ≠ some s.clock ∧
      (∀ i, i < (0 + 3 - (s.core 0).beatQ) % 4 → s.beatReady 0 (((s.core 0).beatQ + 1 + i) % 4) = false)) ∧
    (chunkIn x.a 64 = true ∧ s.bankBusy (addrBanks x.a 64) = false) ∧
    (g.idx ≠ none ∧ offOf g.a + 3 * 32 + 32 ≤ spaceSize (kindOf g.a) ∧ chunkIn (g.a + BitVec.ofInt 64 (3 * 32)) 32 = true) ∧
    ([0, 1, 2, 3] : List Nat).filter (fun n => Nat.testBit 5 n) ≠ [] := by
  and_intros <;> decide +kernel

/-- Registers of the table region and the tables' root of virtual device 0, for a table at HBM offset 0. -/
def tblRegs : Tbl Word := [(regKey 0 0 2 0x010, 0x10000)]

/-- A package with further registers of control space. -/
def boxReg (r : Tbl Word) (l : Tbl Word) : State :=
  let s := boxSup r
  { s with creg := s.creg ++ l }

/-- A virtual address of 16 pages, its length, and a place in the unit pad. -/
def boxVa : State := boxReg [(1, addr 0xFFF0000000100000), (2, 0x100000), (3, addr (upad 0x100))] tblRegs

theorem test_meets_MigrationAndTranslation : Admits y0 boxVa ∧ boxVa.me.sup = true ∧ (boxVa.die 0).migrQ.length < 64 ∧
    (boxVa.me.h 1).out ≠ 2 ^ 32 - 1 ∧ migrTrap 1 2 3 boxVa = none ∧ (∃ t, migrTrap 1 2 1 boxVa = some t) ∧
    (let s := base { ctxWith [] with hnd := [(1, ⟨2 ^ 32 - 1, 0, 0, 0, 0⟩)] }; ¬ (s.me.h 1).out ≠ 2 ^ 32 - 1) ∧
    boxVa.vaTrap .y (boxVa.me.s 1) (boxVa.me.s 2) 65536 = none ∧ dirtyTrap 1 2 3 boxVa = none ∧
    ∃ l, boxVa.dirtyBits 0 0 0x100000 (0x100000 / 65536) = .ok l := by
  and_intros <;> first | decide +kernel | (unfold Admits; decide +kernel) | exact ⟨_, rfl⟩

/-- The semaphores of a context with a sibling of the same job, whose semaphores are 16 to 31. -/
def boxSems : State :=
  let s := boxSem [(4, 2)]
  { s with ctxs := s.ctxs ++ [(1, { ctxWith [] with sbase := 16, slim := 32 })] }

theorem test_meets_SemaphoreInstructions : let s := boxSems
    s.me.sbase + 15 < s.me.slim ∧ ¬ s.me.sbase + 16 < s.me.slim ∧
    (∃ k ∈ ([0, 1, 2, 3] : List Nat), (s.ctx k).st ≠ .free ∧ (s.ctx k).job = s.me.job ∧ (s.ctx k).sbase ≤ 31 ∧ 31 < (s.ctx k).slim) ∧
    (¬ ∃ k ∈ ([0, 1, 2, 3] : List Nat), (s.ctx k).st ≠ .free ∧ (s.ctx k).job = s.me.job ∧ (s.ctx k).sbase ≤ 32 ∧ 32 < (s.ctx k).slim) ∧
    Admits y0 s ∧ 1 ≤ (s.core 0).left 0 ∧ ¬ 2 ≤ (s.core 0).left 0 ∧
    ((boxCore [] { Core.reset with semUpd := [.sub 0 1, .set 0 3, .add 0 4] }).core 0).semUpd ≠ [] := by
  and_intros <;> first | decide +kernel | exact ⟨1, by decide +kernel⟩ | (unfold Admits; decide +kernel)

/-- A barrier of the own die pad, in its phase 0. -/
def boxBar : State := { box [(1, addr (dpad 0x40)), (2, 1)] with mem := memPuts [] (dpad 0x50) (leBytes 0 2) }

/-- An arrival of context 0 on its way to that barrier. -/
def someUpd : BarUpd := ⟨0, dpad 0x40, .arrive 1, 0, 1, 0⟩

theorem test_meets_BarrierInstructions : Admits y0 boxBar ∧ boxBar.barTrap .y (boxBar.me.s 1) = none ∧
    (∃ t, boxBar.barTrap .y (boxBar.me.s 2) = some t) ∧ (memGet boxBar.mem (dpad 0x52)).toNat % 2 ≠ (boxBar.me.s 2).toNat % 2 ∧
    (memGet boxBar.mem (dpad 0x52)).toNat % 2 = (boxBar.me.s 3).toNat % 2 ∧ (boxBar.die 0).barQ = [] ∧
    (∃ u ∈ ((boxDie [] { Die.reset with barQ := [someUpd] }).die 0).barQ, u.key = dpad 0x40 ∧ (u.src = 0 ∨ u.at_ ≤ 0)) ∧ (∃ b : Bar, 0 < b.pend) ∧
    (∃ b : Bar, b.pend = 0 ∧ b.early < max 1 b.exp ∧ b.early < 65535) ∧
    ∃ b : Bar, b.pend = 0 ∧ ¬ (b.early < max 1 b.exp ∧ b.early < 65535) := by
  refine ⟨by unfold Admits; decide +kernel, by decide +kernel, ⟨_, rfl⟩, by decide +kernel, by decide +kernel, by decide +kernel,
    by decide +kernel, ?_, ?_, ?_⟩
  · exact ⟨{ boxBar.bar (dpad 0x40) with pend := 1 }, by decide +kernel⟩
  · exact ⟨boxBar.bar (dpad 0x40), by decide +kernel⟩
  · exact ⟨{ boxBar.bar (dpad 0x40) with early := 65535 }, by decide +kernel⟩

theorem test_meets_HandleInstructions : Admits y0 (box []) ∧ ((box []).me.h 1).loc = ((box []).me.h 1).out ∧
    ((box []).me.h 1).rem = ((box []).me.h 1).out ∧
    (let s := base { ctxWith [] with hnd := [(1, ⟨2, 1, 0, 0, 0⟩)] }; (s.me.h 1).loc ≠ (s.me.h 1).out ∧ (s.me.h 1).rem ≠ (s.me.h 1).out) := by
  refine ⟨by unfold Admits; decide +kernel, by decide +kernel, by decide +kernel, by decide +kernel⟩

/-- A spawn image: its dependences, affinity, job, priority, rows and semaphores. -/
def image (dep aff job prio rows sems : Nat) : List Byte :=
  leBytes 0x4000 8 ++ zeros 8 ++ leBytes 7 8 ++ zeros 112 ++ leBytes 9 8 ++ leBytes dep 2 ++ leBytes aff 2 ++ leBytes job 4 ++
    leBytes prio 1 ++ leBytes rows 1 ++ leBytes sems 2 ++ zeros 36

/-- A package with an image at byte 0x1000 of the unit pad, s1 at it and s2 naming die 1. -/
def boxImage (d : Die) (l : List Byte) : State :=
  { boxDie [(1, addr (upad 0x1000)), (2, 1), (3, 16)] d with mem := memPuts [] (upad 0x1000) l }

/-- A die that knows job 5, cancelled or not. -/
def dieJob (cancel : Bool) : Die := { Die.reset with jobs := [⟨5, 0, 1, 1, 0, cancel, 1, none, 0, false⟩] }

/-- The same package without any bound. -/
def boxBound (d : Die) (l : List Byte) : State := { boxImage d l with creg := [(regKey 0 0 0 0x000, 3), (regKey 0 0 0 0x008, 1)] }

/-- A die whose job table is full, for job 5 among others. -/
def dieFull : Die := { Die.reset with jobs := (List.range 256).map fun i => ⟨1000 + i, 0, 1, 1, 0, false, 1, none, 0, false⟩ }

theorem test_meets_TaskSpawns_passes : let s := boxImage (dieJob false) (image 0 1 5 0 16 256)
    PadAccess s (s.me.s 1) 192 64 ∧ Calm s [(upad 0x1000, 192)] ∧ Clean s [(upad 0x1000, 192)] ∧ Admits y0 s ∧ (s.me.s 2).toNat < 16 ∧ s.jobRoom 0 5 = true ∧
    (0 < 4096 ∧ (s.bound 0 0 0x20).1 ≤ 0 ∧ 0 < (s.bound 0 0 0x20).2 ∧ (s.trec 0 0).st = 0) ∧
    (let f := numAt (memBytes s.mem (upad 0x1000) 192)
     ¬ 16 < f 153 1 ∧ ¬ 256 < f 154 2 ∧ ¬ (f 156 4 ≠ 0 ∨ f 0 1 % 2 ≠ 0 ∨ f 8 8 ≠ 0 ∨ 4 ≤ f 152 1 ∨ f 160 32 ≠ 0) ∧
     (∃ cl, cl < 16 ∧ (f 146 2).testBit cl = true ∧ s.ownsClus 0 0 cl = true) ∧ s.cancelled 0 (f 148 4) = false) := by
  and_intros <;> first
    | decide +kernel
    | (unfold PadAccess; decide +kernel)
    | (unfold Calm; decide +kernel)
    | (unfold Clean; decide +kernel)
    | (unfold Admits; decide +kernel)
    | exact ⟨0, by decide +kernel⟩

/-- One image for each code, a table without room, and what traps. -/
theorem test_meets_TaskSpawns_fails :
    let f := fun (l : List Byte) => numAt (memBytes (boxImage (dieJob true) l).mem (upad 0x1000) 192)
    16 < f (image 0 1 5 0 17 257) 153 1 ∧ 256 < f (image 0 1 5 4 16 257) 154 2 ∧ 4 ≤ f (image 0 2 5 4 16 256) 152 1 ∧
    (∀ cl, cl < 16 → ¬ ((f (image 0 2 5 3 16 256) 146 2).testBit cl = true ∧ (boxImage (dieJob true) []).ownsClus 0 0 cl = true)) ∧
    (boxImage (dieJob true) []).cancelled 0 (f (image 0 1 5 3 16 256) 148 4) = true ∧
    (boxBound (dieJob false) []).bound 0 0 0x20 = (0, 0) ∧ (boxImage dieFull []).jobRoom 0 5 = false ∧
    16 ≤ ((boxImage dieFull []).me.s 3).toNat ∧ ∃ t, (boxImage dieFull []).lsTrap .y (addr (upad 0x20)) 192 64 = some t := by
  and_intros <;> first | decide +kernel | exact ⟨_, rfl⟩

/-- A continuation of sixteen registers at an even pc, and a handle that is quiet, one that is not. -/
def boxSusp (h : Handle) : State :=
  base { ctxWith [(1, 0x1FFFE), (2, 0x400), (4, 0x1FFFF), (5, 0x401)] with hnd := [(1, h)] }

theorem test_meets_TaskInstructions_leave : let s := boxSusp .reset
    s.quiet s.cur none = true ∧ s.quiet s.cur (some 1) = true ∧ (boxSusp ⟨1, 0, 0, 0, 0⟩).quiet 0 none = false ∧
    (boxSusp ⟨1, 0, 0, 0, 0⟩).quiet 0 (some 2) = false ∧ (boxSusp ⟨1, 0, 0, 0, 0⟩).quiet 0 (some 1) = true ∧
    ((s.me.s 1).getLsbD 0 = false ∧ (List.range 64).countP (fun i => (s.me.s 1).getLsbD i) ≤ 16 ∧ (s.me.s 2).getLsbD 0 = false) ∧
    ((s.bound 0 0 0x28).1 ≤ 0 ∧ 511 < (s.bound 0 0 0x28).2 ∧ 511 < 512) ∧ (s.me.s 4).getLsbD 0 = true ∧
    (s.me.s 0 = 0 ∧ (s.me.s 5).getLsbD 0 = true) ∧ Admits y0 s := by
  and_intros <;> first | decide +kernel | (unfold Admits; decide +kernel)

/-- Entry 511 for window 255 and tag 0xFFF, 64 bytes; it is armed in a die of its own. -/
def boxMatch (armed : Bool) : State :=
  boxDie [(1, 0xFFF00FF01FF), (2, 64), (3, 2), (4, 2 ^ 44)] { Die.reset with matches_ := [(511, ⟨armed, 0, 0, 1, 0, .decr 0⟩)] }

theorem test_meets_TaskInstructions_match : let s := boxMatch false
    ((s.me.s 1).toNat / 2 ^ 44 = 0 ∧ (s.me.s 1).toNat / 2 ^ 24 % 2 ^ 8 = 0 ∧ (s.me.s 1).toNat / 2 ^ 9 % 2 ^ 7 = 0 ∧
      (s.bound 0 0 0x28).1 ≤ (s.me.s 1).toNat % 512 ∧ (s.me.s 1).toNat % 512 < (s.bound 0 0 0x28).2 ∧ (s.me.s 2).toNat % 2 ^ 32 ≠ 0) ∧
    (tget Match.reset (s.die 0).matches_ 511).armed = false ∧ (tget Match.reset ((boxMatch true).die 0).matches_ 511).armed = true ∧
    s.me.sbase + (s.me.s 3).toNat % 256 < s.me.slim ∧ (s.me.s 4).toNat / 2 ^ 44 ≠ 0 ∧ s.me.ask = none ∧
    (base { ctxWith [] with ask := some ⟨3, none⟩ }).me.ask = some ⟨3, none⟩ ∧
    (base { ctxWith [] with ask := some ⟨3, some 9⟩ }).me.ask = some ⟨3, some 9⟩ := by decide +kernel

/-- A die that holds record 0, of task 0x1000. -/
def dieRec (r : Rec) : Die := { Die.reset with recs := [(0, { r with gen := 1 })] }

/-- Context 0 in a state of its own, leaving or not, with its record. -/
def boxLeave (u : Option Susp) (h : Handle) : State :=
  { base { ctxWith [(1, 5)] with st := .leaving u, hnd := [(1, h)] } with
    dies := [(0, dieRec { Rec.reset with st := 3, at_ := .onCtx 0 })] }

theorem test_meets_TaskRecords : let s := boxLeave none .reset
    (0x1000 < 2 ^ 28 ∧ (s.trec 0 0).st ≠ 0 ∧ (s.trec 0 0).gen = 0x1000 / 2 ^ 12 % 2 ^ 12) ∧ ¬ (s.trec 0 0).gen = 0x2000 / 2 ^ 12 % 2 ^ 12 ∧
    (s.ctx 0).st = .leaving none ∧
    (∃ p, ((boxLeave (some p) .reset).ctx 0).st = .leaving (some p) ∧ p.kind < 2 ∧ taskDie ((boxLeave (some p) .reset).ctx 0).task = dieOf 0 ∧
      (boxLeave (some p) .reset).taskLive ((boxLeave (some p) .reset).ctx 0).task = true) ∧
    (((boxLeave none .reset).ctx 0).h 1).loc = (((boxLeave none .reset).ctx 0).h 1).out ∧
    ¬ (((boxLeave none ⟨1, 0, 0, 0, 0⟩).ctx 0).h 1).rem = (((boxLeave none ⟨1, 0, 0, 0, 0⟩).ctx 0).h 1).out := by
  and_intros <;> first | decide +kernel | exact ⟨⟨1, 1, 2, 0x400⟩, by decide +kernel⟩

/-- A package in which a message has come from die 1 for die 0. -/
def boxMsg (r : Tbl Word) (d : Die) (b : Body) : State :=
  { boxDie r d with wire := [⟨0xFFF * 16 + 1, 0xFFF * 16, b⟩], sel := [0] }

theorem test_meets_arrivals : ∀ b ∈ ([.tdep 0x1000 1, .spawn (image 0 1 5 0 1 0) 3 0, .spawnAck 3 5, .cancel 5 0, .join 5 1 0, .jobDone 5,
    .jobAnswer 0 3 9] : List Body), Arrives (boxMsg [] (dieJob false) b) (0xFFF * 16 + 1) 0 b := by
  unfold Arrives; decide +kernel

theorem test_meets_SchedulerEvents_messages : let m := image 0 1 5 0 1 0
    let s := boxMsg [] (dieJob false) (.spawn m 3 0)
    let kept := fun (src : Nat) => src / 16 = s.epid ∧ (s.reg (src % 16) 0 0 0x78).getLsbD 0 = true
    ¬ ((∃ z ∈ s.wire.take (s.arg 0), z.dst = s.place 0 ∧ ¬ kept z.src ∧ ∃ l' id', z.body = .spawn l' id' 0) ∨
      (s.reg 0 0 0 0x78).getLsbD 0 = true ∨ kept (0xFFF * 16 + 1) ∨ s.jobRoom 0 (numAt m 148 4) = false) ∧
    ((arrived s).acceptTask 0 0 m 0).isSome = true ∧
    (boxMsg [] dieFull (.spawn m 3 0)).jobRoom 0 (numAt m 148 4) = false ∧
    (let s := boxMsg [] { dieJob false with spawns := [⟨3, 0, 5, ⟨0, 0x1000, none, none⟩⟩] } (.spawnAck 3 5)
     ((s.die 0).spawns.find? fun z => z.id == 3) = some ⟨3, 0, 5, ⟨0, 0x1000, none, none⟩⟩) ∧
    s.jobRoom 0 5 = true ∧
    (let s := { base { ctxWith [] with ask := some ⟨3, none⟩ } with wire := [⟨0xFFF * 16, 0xFFF * 16, .jobAnswer 0 3 9⟩], sel := [0] }
     (s.ctx 0).ask = some ⟨3, none⟩) := by
  and_intros <;> first | decide +kernel | skip
  rintro (⟨z, h, -⟩ | h | h | h)
  · have e : (boxMsg [] (dieJob false) (.spawn (image 0 1 5 0 1 0) 3 0)).wire.take 0 = [] := rfl
    exact absurd h (e ▸ List.not_mem_nil)
  · exact absurd h (by decide +kernel)
  · exact absurd h (by decide +kernel)
  · exact absurd h (by decide +kernel)

/-- A die with job 0 of two members, found twice alike. -/
def boxWave : State :=
  { boxDie [] { Die.reset with jobs := [⟨0, 0, 0, 4, 2, false, 3, some (3, [(0, 4), (0, 0)]), 0, false⟩] } with sel := [0, 0, 1] }

/-- The question of context 0 about a job, on the wire to die 0. -/
def someQuestion (job : Nat) : Msg := ⟨0xFFF0, 0xFFF0, .jobAsk job 0 3⟩

/-- A record ready since the start, for cluster 0. -/
def boxReady (clock : Nat) (sel : List Nat) : State :=
  { boxDie [] (dieRec { Rec.reset with st := 2, aff := 1, rows := 2, sems := 8, vals := (List.range 16).map fun i => BitVec.ofNat 64 i }) with
    clock := clock, sel := sel }

theorem test_meets_SchedulerEvents_dispatch :
    (∃ j, boxWave.job 0 0 = some j ∧ j.done = false ∧ j.wave = some (j.mask, [(0, 4), (0, 0)]) ∧ boxWave.wire = []) ∧
    (let s := { boxWave with wire := [someQuestion 0] }; ∃ m ∈ s.wire, m.dst = s.place 0 ∧ m.body = .jobAsk 0 0 3) ∧
    { boxWave with wire := [someQuestion 7], sel := [0, 7, 1] }.job 0 7 = none ∧
    (let s := boxReady 0 [0, 0, 0, 1]
     s.mayDispatch 0 0 = true ∧ 0 ∈ s.placesFor 0 0 ∧ (s.ctx 1).st = .free ∧ (s.trec 0 0).live = 0 ∧ (s.trec 0 0).vals.length = 16) ∧
    (let s := boxReady 65536 [0, 0]
     (s.trec 0 0).st = 2 ∧ (s.trec 0 0).level < 3 ∧ 65536 ≤ s.clock - (s.trec 0 0).waited) := by
  refine ⟨⟨⟨0, 0, 0, 4, 2, false, 3, some (3, [(0, 4), (0, 0)]), 0, false⟩, by decide +kernel⟩,
    by decide +kernel, by decide +kernel, by decide +kernel, by decide +kernel⟩

/-- Virtual device 0's tables and hull aperture: two pages of it at most, from 32 MiB on. -/
def hullRegs : Tbl Word :=
  [(regKey 0 0 2 0x010, 0x10000), (regKey 0 0 3 0x000, 0x2000000), (regKey 0 0 3 0x008, 0x4000000), (regKey 0 0 3 0x010, 2)]

/-- A hull of one region of four granules with a view of its granules 1 to 3 in entry 3, generation 2. -/
def dieHull : Die :=
  { Die.reset with
    views := [(3, ⟨2, true, 0, 7, 65536, 262144⟩)]
    regions := [(7, ⟨true, 0, 0x2000000, 262144, [], [], []⟩)] }

/-- A package with that hull: s1 is the view's handle, s2 an interval in it, s3 one outside, s4 a length of one page. -/
def boxHull (d : Die) : State :=
  let s := boxDie [(1, 0x8003), (2, 0x2800000018000), (3, 0x2800000000000), (4, 65536), (5, 0x3000000010000)] d
  { s with creg := s.creg ++ hullRegs }

/-- An empty hull with one free frame, and the tables of its first 32 MiB. -/
def boxNew (hbm : List Host.Cell) : State :=
  { boxHull { Die.reset with hfree := [5] } with mem := hbm }

def hullTables : List Host.Cell := memPuts (memPuts [] (hbmKey 0 0) (leBytes 0x2001 8)) (hbmKey 0 0x2008) (leBytes 0x3001 8)

theorem test_meets_HullInstructions_new : Admits y0 (boxNew []) ∧
    ((boxNew []).me.s 2).toNat % 65536 ≠ 0 ∧ ((boxHull Die.reset).die 0).hfree.length < 65536 / 65536 ∧
    ((boxHull { Die.reset with hfree := [5] }).hullRun 0 0 65536) ≠ none ∧
    (boxNew hullTables).hullAsk 0 0 ((boxNew []).me.s 4) = .run 0x2000000 0 ∧ (boxNew []).hullAsk 0 0 ((boxNew []).me.s 4) = .node 0 := by
  and_intros <;> first | decide +kernel | (unfold Admits; decide +kernel)

theorem test_meets_HullInstructions_views : let s := boxHull dieHull
    let v := s.view 0 3
    ((s.me.s 1).toNat = v.gen * 2 ^ 14 + 3 ∧ v.gen < 65536 ∧ 3 < 16128 ∧ v.live = true ∧ v.vd = 0) ∧
    (v.lo ≤ 0x18000 ∧ 0x18000 ≤ 0x28000 ∧ 0x28000 ≤ v.hi ∧ (s.me.s 2).toNat % 2 ^ 32 = 0x18000 ∧ (s.me.s 2).toNat / 2 ^ 32 = 0x28000) ∧
    ¬ v.lo ≤ (s.me.s 3).toNat % 2 ^ 32 ∧ (s.die 0).deltas.length < 1024 ∧ (s.view 0 0).live = false ∧
    s.viewOf 0 0 (s.me.s 2) = none ∧ (∀ z ∈ (s.die 0).deltas, s.me.vwSeq ≤ z.seq) ∧
    (let t := { base { ctxWith [] with vwSeq := 1 } with dies := [(0, { Die.reset with deltas := [⟨0, 7, true, [0]⟩] })] }
     ∃ z ∈ (t.die 0).deltas, z.seq < t.me.vwSeq) ∧
    1024 ≤ ((boxHull { dieHull with deltas := List.replicate 1024 ⟨0, 7, true, [0]⟩ }).die 0).deltas.length := by
  and_intros <;> first | decide +kernel | exact ⟨_, List.mem_singleton.mpr rfl, by decide +kernel⟩

/-- The descriptor of a window of 4096 bytes of the unit pad, in a mode, with all rights, a view and group 0. -/
def desc (mode view base : Nat) : List Byte :=
  leBytes base 8 ++ leBytes 4096 8 ++ leBytes view 4 ++ leBytes 0 1 ++ leBytes mode 1 ++ leBytes 7 1 ++ zeros 9

/-- Group 0: this die and die 1. -/
def groupRegs : Tbl Word := [(regKey 0 15 4 0x828, 2), (regKey 0 15 4 0xA28, 0xFFF0), (regKey 0 15 4 0xA30, 0xFFF1)]

/-- A package with that group and a die of one's own; s1 is at a descriptor at byte 0x1000 of the unit pad. -/
def boxWins (c : Ctx) (d : Die) (l : List Byte) : State :=
  { base c with dies := [(0, d)], creg := vdRegs ++ hullRegs ++ groupRegs, mem := memPuts [] (upad 0x1000) l }

/-- The registers of the window tests: a descriptor's place, masks of no, one and too many members, and members 1 and 2. -/
def winCtx : Ctx := ctxWith [(1, addr (upad 0x1000)), (2, 2), (3, 4), (4, 1), (5, 2)]

/-- A die whose window 9 is as given. -/
def dieWin (w : Win) : Die := { dieHull with wins := [(9, w)] }

/-- A live window of a mode. -/
def live (mode : Nat) : Win := { Win.reset with live := true, gen := 1, base := addr (upad 0x8000), len := 4096, mode := mode, rights := 7 }

theorem test_meets_WindowTable_codes : let s := boxWins winCtx (dieWin .reset) (desc 1 0 (upad 0x8000))
    ((s.bound 0 0 0x30).1 ≤ 9 ∧ 9 < (s.bound 0 0 0x30).2 ∧ 255 < (s.bound 0 0 0x30).2 ∧ ¬ 256 < (s.bound 0 0 0x30).2) ∧
    (PadAccess s (s.me.s 1) 32 32 ∧ Calm s [(upad 0x1000, 32)] ∧ Clean s [(upad 0x1000, 32)]) ∧
    ((boxWins winCtx (dieWin (live 1)) []).win 0 9).live = true ∧
    4 ≤ (descOf (memBytes (boxWins winCtx (dieWin .reset) (desc 4 0 0)).mem (upad 0x1000) 32)).mode ∧
    (let x := descOf (memBytes (boxWins winCtx (dieWin .reset) (desc 3 0 0)).mem (upad 0x1000) 32)
     (boxWins winCtx (dieWin .reset) []).checkRange 0 .copy x.base x.len ≠ none) ∧
    (boxDie [] (dieWin .reset)).place 0 ∉ (boxDie [] (dieWin .reset)).groupPlaces 0 0 ∧
    (∃ t, s.lsTrap .y (s.me.s 2) 32 32 = some t) := by
  and_intros <;> first | decide +kernel | (unfold PadAccess; decide +kernel) | (unfold Calm; decide +kernel) | (unfold Clean; decide +kernel) | exact ⟨_, rfl⟩

theorem test_meets_WindowTable_creates : let s := boxWins winCtx (dieWin .reset) (desc 1 0 (upad 0x8000))
    let x := descOf (memBytes s.mem (upad 0x1000) 32)
    (x.zero = 0 ∧ x.rights < 8 ∧ x.group < 64 ∧ x.mode < 4 ∧ x.len ≠ 0 ∧ x.len ≤ 2 ^ 32 ∧ s.checkRange 0 .copy x.base x.len = none ∧
      s.place 0 ∈ s.groupPlaces 0 x.group ∧ (s.win 0 9).live = false) ∧ s.descView 0 x = none ∧ s.descHull 0 x = false ∧
    (let u := boxWins winCtx (dieWin .reset) (desc 1 5 (upad 0x8000))
     ∃ r, u.descView 0 (descOf (memBytes u.mem (upad 0x1000) 32)) = some r) ∧
    (let u := boxWins winCtx { dieWin .reset with deltas := List.replicate 1024 ⟨0, 7, true, [0]⟩ } (desc 1 0x8003 (0xFFF0000000000000 + 0x2010000))
     let z := descOf (memBytes u.mem (upad 0x1000) 32)
     ¬ (u.die 0).deltas.length < 1024 ∧ u.descHull 0 z = true ∧ u.descView 0 z = none) := by
  refine ⟨by decide +kernel, by decide +kernel, by decide +kernel, ⟨_, rfl⟩, by decide +kernel⟩

/-- A request as it comes to window 9. -/
def someReq : Req :=
  { id := 4, kind := .put, src := 0xFFF1, ctx := 0, task := 0x1001000, flow := 0, inc := 0, seq := 0, ordered := false, gv := false, gen := 0,
    win := 9, skind := 0, stamp := 0, tag := 0, tc := 0, addr := addr (upad 0x8000), count := 64,
    data := (List.range 64).map fun i => BitVec.ofNat 8 (i + 1), cmp := 0, prog := none, vd := 0, pins := [] }

theorem test_meets_WindowTable_frees : ((boxWins winCtx (dieWin .reset) []).win 0 9).live = false ∧
    (let s := boxWins winCtx (dieWin (live 1)) []
     (s.win 0 9).live = true ∧ s.winBusy 0 9 = false ∧ (s.win 0 9).view = false) ∧
    (let s := { boxWins winCtx (dieWin (live 1)) [] with wire := [⟨0xFFF1, 0xFFF0, .req { someReq with prog := some 0 }⟩] }
     s.winBusy 0 9 = true) := by
  decide +kernel

/-- An XPUT of context 0 to die 1 that names window 9 and waits in its core's queue. -/
def lateRem : RemCmd :=
  { id := 3, op := .xput 1 2 0 3 0 x0, vd := 0, place := 0xFFF1, a := 0, b := 0, c := 64, gv := false, gen := 0, win := 9, flow := 0,
    tc := 0, tag := 0, rel := false, ord := false, buf := [], owed := [], chan := 0, seq := 0, hold := none, done := ⟨0, 0x1000, none, none⟩ }

/-- The ids of the queued commands of die 0 that name window 9. -/
def earlyFor9 (s : State) : List Nat := ((s.remotes 0).filter fun z => z.names 9).map fun z => z.id

/-- The hypotheses of the fences: windows of another mode, FINAL, open in epoch 0 and in a later one with and without a command
that waits, and closing. -/
theorem test_meets_WindowInstructions_fences : let S := fun (w : Win) => boxWins winCtx (dieWin w) []
    (Admits y0 (S (live 1)) ∧ ((S .reset).win 0 9).live = false ∧ ((S (live 0)).win 0 9).live = true ∧ ((S (live 0)).win 0 9).mode = 0) ∧
    (∀ w ∈ [live 1, { live 1 with fst := .final }, { live 1 with n := 2 }, { live 1 with fst := .closing true }],
      ((S w).win 0 9).live = true ∧ ((S w).win 0 9).mode = 1) ∧
    ((live 1).fst = .isOpen ∧ (live 1).n = 0) ∧ { live 1 with n := 2 }.n ≠ 0 ∧ earlyFor9 (S { live 1 with n := 2 }) = [] ∧
    earlyFor9 { S { live 1 with n := 2 } with cores := [(0, { Core.reset with remote := [lateRem] })] } ≠ [] := by
  and_intros <;> first | decide +kernel | (unfold Admits; decide +kernel)

/-- The hypotheses of the instructions of posts: masks that fit and one that does not, members there and not, epochs open and
whole or not. -/
theorem test_meets_WindowInstructions_posts : let S := fun (w : Win) => boxWins winCtx (dieWin w) []
    ((S (live 2)).me.s 2).toNat < 2 ^ ((S (live 2)).groupPlaces 0 0).length ∧ ¬ ((S (live 2)).me.s 3).toNat < 2 ^ ((S (live 2)).groupPlaces 0 0).length ∧
    (live 2).exposing = false ∧ (live 2).ends = [] ∧ (live 2).ax = [] ∧ { live 2 with ends := [0xFFF1] }.ends ≠ [] ∧
    { live 2 with ax := [(0xFFF1, 1)] }.ax ≠ [] ∧
    (let x := { live 2 with posts := [(0xFFF1, 5)] }
     (∀ p ∈ (S x).maskPlaces 0 x 2, thas x.posts p = true ∧ thas x.ax p = false) ∧ (x.posts.map Prod.fst).Nodup) ∧
    (∃ p ∈ (S (live 2)).maskPlaces 0 (live 2) 2, ¬ (thas (live 2).posts p = true ∧ thas (live 2).ax p = false) ∧ (S (live 2)).skips p = false) ∧
    (let x := { live 2 with exposing := true, exposed := 2, compl := [(0xFFF1, 3)], recv := [(0xFFF1, 3)] }
     ∀ p ∈ (S x).maskPlaces 0 x x.exposed, tfind x.compl p = some (tget 0 x.recv p)) ∧
    (let x := { live 2 with exposing := true, exposed := 2, compl := [(0xFFF1, 3)], recv := [(0xFFF1, 2)] }
     ∃ p ∈ (S x).maskPlaces 0 x x.exposed, tfind x.compl p ≠ some (tget 0 x.recv p) ∧ (S x).skips p = false) := by
  and_intros <;> first | decide +kernel | exact ⟨0xFFF1, by decide +kernel⟩

/-- The hypotheses of the lock instructions: a member and none, a question not asked, without an answer and with one, and a
place that is down. -/
theorem test_meets_WindowInstructions_locks : let S := fun (l : List LockAsk) (d : List Nat) => boxWins winCtx { dieWin (live 3) with lockAsks := l, down := d } []
    let mine := fun (z : LockAsk) => z.task == 0x1000 && z.win == 9
    (((S [] []).win 0 9).live = true ∧ ((S [] []).win 0 9).mode = 3 ∧ (S [] []).me.task = 0x1000) ∧
    (S [] []).lockPlace 9 4 = some 0xFFF1 ∧ (S [] []).lockPlace 9 5 = none ∧ (S [] []).skips 0xFFF1 = false ∧
    (S [] [0xFFF1]).skips 0xFFF1 = true ∧ (S [] [0xFFF1]).isDown 0 0xFFF1 = true ∧ (S [] []).isDown 0 0xFFF1 = false ∧
    ((S [] []).die 0).lockAsks.find? mine = none ∧
    ((S [⟨0x1000, 9, 0xFFF1, none⟩] []).die 0).lockAsks.find? mine = some ⟨0x1000, 9, 0xFFF1, none⟩ ∧
    ((S [⟨0x1000, 9, 0xFFF1, some 0⟩] []).die 0).lockAsks.find? mine = some ⟨0x1000, 9, 0xFFF1, some 0⟩ := by
  and_intros <;> decide +kernel

/-- A package with a message from die 1 to a window of a mode. -/
def boxPost (c : Ctx) (w : Win) (b : Body) : State :=
  { boxWins c (dieWin w) [] with wire := [⟨0xFFF1, 0xFFF0, b⟩], sel := [0], clock := 1024 }

theorem test_meets_WindowEvents_arrivals : ∀ b ∈ ([.announce 9 0 2, .announce 9 1 2, .post 9 4, .complete 9 2, .lockReq 9 0 0x1001000 false,
    .lockRel 9 0 0x1001000, .lockGrant 9 0 0x1000 0, .lockBusy 9 0 0x1000 false 0, .relAck 9 0 0x1000 0] : List Body),
    Arrives (boxPost winCtx (live 1) b) 0xFFF1 0 b := by
  unfold Arrives; decide +kernel

theorem test_meets_WindowEvents : let S := fun (w : Win) => boxWins winCtx (dieWin w) []
    (∀ b, let x := { live 1 with fst := .closing b, ann := [(0xFFF0, 0), (0xFFF1, 2)], recv := [(0xFFF1, 2)], told := true }
     x.told = true ∧ (S x).stampedOut 0 x = false ∧ ∀ p ∈ (S x).members 0 x, p ∈ x.downs ∨ tfind x.ann p = some (tget 0 x.recv p)) ∧
    (live 2).exposing ≠ true ∧ { live 2 with exposing := true }.exposing = true ∧
    0xFFF1 ∈ (S (live 3)).members 0 (live 3) ∧ 0xFFF2 ∉ (S (live 3)).members 0 (live 3) ∧ (0xFFF1, 0x1001000) ∉ (live 3).holders ∧
    ((S (live 3)).die 0).lockQ = [] ∧ (S (live 3)).shutVd 0 0 = false ∧ (live 3).closing = false ∧
    (boxWins winCtx { dieWin (live 3) with deadVds := [0] } []).shutVd 0 0 = true ∧ { live 3 with closing := true }.closing = true ∧
    ((live 3).holders = [] ∧ (live 3).holders.length < 64) ∧
    (let x := { live 3 with holders := [(0xFFF1, 7)], excl := true }; ¬ (x.holders = [] ∨ (false = false ∧ x.excl = false))) ∧
    64 ≤ ((boxWins winCtx { dieWin (live 3) with lockQ := List.replicate 64 ⟨8, 1, 2, 3, true⟩ } []).die 0).lockQ.length ∧
    (let s := boxPost winCtx (live 3) (.lockBusy 9 0 0x1000 false 0)
     0 + 1024 ≤ s.clock ∧ s.clock < 1 + 1024 ∧ (s.die 0).lockAsks = []) ∧
    (∃ z ∈ ((boxWins winCtx { dieWin (live 3) with lockAsks := [⟨0x1000, 9, 0xFFF1, none⟩] } []).die 0).lockAsks,
      z.task = 0x1000 ∧ z.win = 9 ∧ z.answer = none) ∧
    (let h : Held := ⟨.unlock, 9, 1, 0xFFF1, false, ⟨0, 0x1000, none, none⟩⟩
     let s := base { winCtx with held := some h }
     (s.ctx 0).held = some h ∧ h.op = .unlock ∧ h.win = 9 ∧ (s.ctx 0).task = 0x1000) ∧
    ((boxDie [] { Die.reset with deltas := [⟨0, 7, true, [0, 1]⟩] }).die 0).deltas = [⟨0, 7, true, [0, 1]⟩] := by
  refine ⟨fun b => ?_, ?_⟩
  · cases b <;> decide +kernel
  · and_intros <;> decide +kernel

/-- An address in the unit pad of core 0 of cluster 0 of die 1. -/
def far (n : Nat) : Nat := 0xFFF1A00000000000 + n

/-- An address of group 0 in the reduce aperture. -/
def aper (n : Nat) : Nat := 0xFFFFC00000000000 + n

/-- Operands of remote commands: a remote address, a local one, 64 bytes, a key of window 9 and generation 1, no bytes. -/
def farRegs : Tbl Word :=
  [(1, addr (far 0x100)), (2, addr (upad 0x2000)), (3, 64), (4, 0x10109), (5, 0), (6, addr (upad 0x2001)), (7, addr (aper 0x40))]

/-- A package with those operands, one queue of remote commands and a die that belongs to reduce group 0. -/
def boxFar (q : List RemCmd) (h : Handle) : State :=
  { base { ctxWith farRegs with hnd := [(1, h)] } with
    cores := [(0, { Core.reset with remote := q })], creg := vdRegs ++ [(regKey 0 15 5 0x40, 0x901)] }

/-- A remote put of context 0 that waits in its queue. -/
def someRem : RemCmd := { lateRem with a := addr (far 0x100), b := addr (upad 0x2000), buf := zeros 64 }

theorem test_meets_RemoteCommands : let s := boxFar [] .reset
    Admits y0 s ∧ (s.core 0).remote.length < 32 ∧ (s.me.h 1).out ≠ 2 ^ 32 - 1 ∧ s.me.s 3 ≠ 0 ∧ s.me.s 5 = 0 ∧
    remTrap .get 2 1 3 4 s = none ∧ remTrap .put 1 2 3 4 s = none ∧ remTrap (.acc .add .i32) 1 2 3 4 s = none ∧
    remTrap (.amo .add .i64) 1 2 3 4 s = none ∧ remTrap (.red .add .i32) 7 2 3 0 s = none ∧ remTrap .put 1 2 5 4 s = none ∧
    (∃ r, remTrap (.acc .add .i32) 1 6 3 4 s = some r) ∧
    ¬ (boxFar (List.replicate 32 someRem) .reset |>.core 0).remote.length < 32 ∧ ¬ ((boxFar [] ⟨2 ^ 32 - 1, 0, 0, 0, 0⟩).me.h 1).out ≠ 2 ^ 32 - 1 ∧
    (∃ z ∈ ((boxFar [someRem] .reset).core 0).remote, (z.done.ctx = 0 ∧ z.done.task = 0x1000) ∧ Nat.testBit 1 z.flow = true ∧ remShape z.op = .put) := by
  and_intros <;> first
    | decide +kernel
    | (unfold Admits; decide +kernel)
    | exact ⟨_, rfl⟩
    | exact ⟨someRem, by decide +kernel⟩

/-- A package whose wire carries a request to window 9, and the step asked for `k` pieces of it. -/
def boxReq (w : Win) (r : Req) (k : Nat) (l : List (Nat × Word)) (lane : Word) : State :=
  { boxWins winCtx (dieWin w) [] with wire := [⟨0xFFF1, 0xFFF0, .req r⟩], sel := [0, k], creg := vdRegs ++ l ++ hullRegs ++ groupRegs ++ [(regKey 0 15 5 0, lane)] }

theorem test_meets_RequestEvents_checks : let s := boxReq (live 1) someReq 0 [] 0
    ({ someReq with gv := true, gen := 2 }.gv = true ∧ (s.win 0 9).gen ≠ 2) ∧ ((boxReq .reset someReq 0 [] 0).win 0 9).live = false ∧
    ((live 1).mode = 1 ∧ someReq.skind ≠ 1) ∧ (live 0).mode = 0 ∧ someReq.src ∈ s.groupPlaces 0 0 ∧ (live 1).rights.testBit 1 = true ∧
    (let w := { live 1 with fst := .isOpen }; w.fst = .isOpen ∧ w.n + 2 ≠ w.n) ∧ s.ownDie 0 someReq.addr = true ∧
    lowOf (addr (upad 0x8000)) + 4096 ≤ lowOf (live 0).base + (live 0).len ∧ ¬ lowOf (addr (upad 0x8FC1)) + 64 ≤ lowOf (live 0).base + (live 0).len := by
  decide +kernel

theorem test_meets_RequestEvents_performs : let r := { someReq with prog := some 0 }
    let s := boxReq (live 0) r 1 [] 0
    Arrives s 0xFFF1 0 (.req r) ∧ s.arg 1 = 1 ∧ r.pins = [] ∧ (s.win 0 r.win).mode = 0 ∧ (s.die 0).deadVds.contains r.vd = false ∧
    (s.lane 0 = false ∧ (boxReq (live 0) r 1 [] 1).lane 0 = true) ∧ (0 < r.count ∧ r.count ≤ 64 - r.addr.toNat % 64 ∧ r.data.length = r.count) ∧ r.addr.toNat / 2 ^ 44 % 16 = 0xA ∧
    s.bankBusy (addrBanks r.addr r.count) = false ∧ s.isDown 0 r.src = false ∧ (s.die 0).matches_ = [] := by
  and_intros <;> first | decide +kernel | (unfold Arrives; decide +kernel)

theorem test_meets_RequestEvents_begins : let r := { someReq with ordered := true, seq := 1 }
    let s := boxReq (live 0) r 0 [] 0
    ((s.shutVd 0 (s.win 0 9).vd = false ∧ (s.die 0).halted = false) ∧ s.flowBegun 0 { r with seq := 0 } = false ∧ ((s.die 0).flowIn r).next < r.seq ∧ (s.die 0).rob.length < 512) ∧
    512 ≤ ((boxDie [] { Die.reset with rob := List.replicate 512 someReq }).die 0).rob.length ∧
    (boxReq (live 0) someReq 0 [(regKey 0 0 0 0x78, 1)] 0).shutVd 0 0 = true ∧ s.checkReq 0 someReq = none ∧
    s.checkReq 0 { someReq with gv := true, gen := 2 } = some (3, false) ∧ kindOf someReq.addr ≠ 0 ∧ s.isLaunch 0 someReq = false ∧
    Arrives (boxReq (live 0) { someReq with kind := .result } 0 [] 0) 0xFFF1 0 (.req { someReq with kind := .result }) ∧
    (let t := boxReq (live 0) someReq 0 [(regKey 0 0 0 0x48, 0x109)] 0; t.launchDue 0 0 someReq = true) := by
  and_intros <;> first | decide +kernel | (unfold Arrives; decide +kernel)

/-- A request of context 0 that has left the port. -/
def someOut : Outst := ⟨4, .xput 1 2 0 3 0 x0, 0xFFF1, 0, 0, 9, 64, addr (upad 0x2000), 0, 0, true, 0, ⟨0, 0x1000, none, none⟩⟩

theorem test_meets_OriginEvents :
    (remShape someRem.op = .put ∧ (boxFar [] .reset).isDown 0 someRem.place = false ∧ ((boxFar [] .reset).win 0 9).live = false) ∧
    (boxDie [] { Die.reset with down := [0xFFF1] }).isDown 0 someRem.place = true ∧ (boxFar [] .reset).waiting 0 = [] ∧
    (let s := { boxFar [someRem] .reset with creg := vdRegs ++ [(regKey 0 15 5 0x08, 0x01010100)] }
     s.waiting 0 = [.head 0 someRem] ∧ s.weight 0 (s.classOfWaiter 0 (.head 0 someRem)) = 0 ∧ s.classOfWaiter 0 (.head 0 someRem) < 4) ∧
    (let s := boxMsg [] { Die.reset with outst := [someOut] } (.retry someReq 0)
     Arrives s 0xFFF1 0 (.retry someReq 0) ∧ ((s.die 0).request someReq.id).isSome = true ∧ s.isDown 0 0xFFF1 = false ∧ s.clock < 0 + 256 ∧
       0 + 256 ≤ { s with clock := 256 }.clock) ∧
    ((boxMsg [] .reset (.retry someReq 0)).die 0).request someReq.id = none ∧
    (let s := boxMsg [] { Die.reset with outst := [someOut] } (.ack 4 0 64 0)
     Arrives s 0xFFF1 0 (.ack 4 0 64 0) ∧ ((s.die 0).outst.find? fun z => z.id == 4) = some someOut ∧
       ((s.die 0).outst.find? fun z => z.id == 5) = none) ∧
    (let s := boxMsg [] { Die.reset with outst := [someOut] } (.data 4 [1, 2] 0)
     ∃ o, ((s.landChunks 0 4 [1, 2] 0).die 0).request 4 = some o ∧ o.landed < o.bytes) ∧
    (let o := { someOut with op := .xred .add .i32 7 2 3 0 x0 }
     let s := { boxDie [] { Die.reset with outst := [o] } with clock := 0x1000000 }
     (s.die 0).outst[0]? = some o ∧ remShape o.op = .red .add .i32 ∧ o.sentAt + (s.dreg 0 5 0x8040).toNat ≤ s.clock) := by
  and_intros <;> first | decide +kernel | (unfold Arrives; decide +kernel) | exact ⟨someOut, by decide +kernel⟩

/-- Channel 3 of die 0: the sender's side, or the receiver's with what it holds. -/
def chanTx : Chan := { Chan.reset with role := 1, peer := 0xFFF1, peerch := 5, eps := 64, depth := 4, ring := addr (upad 0x4000), key := 7, permits := 4 }
def chanRx (head ret : Nat) (filled : List Nat) : Chan :=
  { Chan.reset with role := 2, peer := 0xFFF1, peerch := 5, eps := 64, depth := 4, ring := addr (upad 0x4000), head := head, ret := ret, filled := filled }

/-- A package with a channel 3; s1 names it, s2 is a source in the unit pad, s3 names a channel beyond the bounds. -/
def boxChan (c : Chan) : State := boxDie [(1, 3), (2, addr (upad 0x2000)), (3, 256)] { Die.reset with chans := [(3, c)] }

theorem test_meets_ChannelInstructions : Admits y0 (boxChan chanTx) ∧ csendTrap 1 2 (boxChan chanTx) = none ∧
    (∃ r, csendTrap 3 2 (boxChan chanTx) = some r) ∧
    (let s := boxChan (chanRx 1 0 [0, 1])
     (3 < 256 ∧ (s.bound 0 0 0x38).1 ≤ 3 ∧ 3 < (s.bound 0 0 0x38).2 ∧ (s.chan 0 3).role = 2 ∧ (s.chan 0 3).vd = 0) ∧
     (s.chan 0 3).head ∈ (s.chan 0 3).filled ∧ (s.chan 0 3).ret < (s.chan 0 3).head) ∧
    (let s := boxChan (chanRx 1 1 []); (s.chan 0 3).head ∉ (s.chan 0 3).filled ∧ (s.chan 0 3).head ≤ (s.chan 0 3).ret) ∧
    ¬ (256 : Nat) < 256 ∧ ((boxChan chanTx).chan 0 3).role ≠ 2 := by
  and_intros <;> first | decide +kernel | (unfold Admits; decide +kernel) | exact ⟨_, rfl⟩

/-- A CSEND of context 0 at the head of queue 0. -/
def sendCmd : CopyCmd := { fillCmd with op := .csend 0 1 2 x0, a := 3, b := addr (upad 0x2000), c := 0 }

theorem test_meets_ChannelEvents :
    (let s := boxCore [] { Core.reset with q := [(0, [sendCmd])] }; (tget [] (s.core 0).q 0).head? = some sendCmd ∧ isCsend sendCmd.op = true ∧ sendCmd.hold = none) ∧
    (let s := boxDie [] { Die.reset with permitWaits := [⟨0x1000, 3, 1, [8]⟩] }
     (s.die 0).permitWaits[0]? = some ⟨0x1000, 3, 1, [8]⟩ ∧ 8 ∉ s.openIds 0 0x1000) ∧
    (let s := { boxFar [{ someRem with buf := [] }] .reset with dies := [(0, { Die.reset with permitWaits := [⟨0x1000, 3, 1, [3]⟩] })] }
     ∃ z ∈ ([3] : List Nat), z ∈ s.openIds 0 0x1000) ∧
    Arrives (boxMsg [] { Die.reset with chans := [(3, chanTx)] } (.permit 3 0)) 0xFFF1 0 (.permit 3 0) ∧
    Arrives (boxMsg [] { Die.reset with chans := [(3, chanRx 1 0 [0])] } (.mark 3 2)) 0xFFF1 0 (.mark 3 2) ∧
    Arrives (boxMsg [] { Die.reset with chans := [(3, chanTx)] } (.back 3 1 1 0)) 0xFFF1 0 (.back 3 1 1 0) ∧
    ((boxChan chanTx).die 0).audit.st ≠ 1 ∧ (boxChan chanTx).isDown 0 chanTx.peer = false ∧
    (let s := { boxDie [] { Die.reset with audit := { Audit.reset with st := 1 }, auditAt := some 0 } with clock := 0x10000 }
     (s.die 0).auditAt = some 0 ∧ 0 + (s.dreg 0 5 0x38).toNat ≤ s.clock) ∧
    (let w0 := 1 + 5 * 2 ^ 16 + 0xFFF1 * 2 ^ 32 + 5 * 2 ^ 48
     let slot := 64 * [8, 16, 32, 64, 8, 16, 32, 64, 4, 8, 8, 16, 16, 32, 64].getD (w0 / 2 ^ 16 % 256) 0
     w0 % 256 = 1 ∧ w0 / 2 ^ 16 % 256 < 15 ∧ 512 ∣ slot ∧ slot ≤ 524288 ∧ 64 ∣ upad 0x4000 ∧ Nat.testBit 0x10109 8 = true ∧
       0x10109 / 2 ^ 9 % 2 ^ 7 = 0 ∧ ¬ 512 ∣ 7 * 8) := by
  and_intros <;> first | decide +kernel | exact ⟨3, by decide +kernel⟩ | (unfold Arrives; decide +kernel)

/-- Operands of PREEMPT and of images: context 1, one beyond the die, one of a cluster not owned, an image and a slot. -/
def supRegs : Tbl Word := [(1, 1), (2, 256), (3, 16), (4, addr (dpad 0x40)), (5, addr (upad 8)), (6, addr (upad 1))]

/-- A supervisor's package with a context 1 of one's own. -/
def boxPair (c : Ctx) : State := let s := boxSup supRegs; { s with ctxs := s.ctxs ++ [(1, c)] }

theorem test_meets_PreemptionAndImages : let s := boxPair .reset
    Admits y0 s ∧ s.me.sup = true ∧ (box []).me.sup = false ∧ (s.me.s 1).toNat < 256 ∧ (s.me.s 0).toNat < 256 ∧ 256 ≤ (s.me.s 2).toNat ∧
    s.ownsClus 0 0 ((s.me.s 1).toNat / 16) = true ∧ ¬ s.ownsClus 0 0 ((s.me.s 3).toNat / 16) = true ∧ (s.ctx 1).st = .free ∧
    ((boxPair { Ctx.reset with st := .stopped 1 }).ctx 1).st = .stopped 1 ∧ ((boxPair { Ctx.reset with st := .dying 3 }).ctx 1).st = .dying 3 ∧
    ((boxPair { Ctx.reset with st := .running }).ctx 1).pre = none ∧
    ((boxPair { Ctx.reset with st := .running, pre := some ⟨3, 0, none⟩ }).ctx 1).pre.isSome = true ∧
    imageTrap 1 4 5 s = none ∧ (∃ r, imageTrap 1 6 5 s = some r) ∧ (tget [] (s.core 0).q 0).length < 16 ∧
    16 ≤ (tget [] ((boxCore [] { Core.reset with q := [(0, List.replicate 16 fillCmd)] }).core 0).q 0).length := by
  and_intros <;> first | decide +kernel | (unfold Admits; decide +kernel) | exact ⟨_, rfl⟩

/-- A package of two auctions a device with a die 0 of one's own: s1 is at a descriptor in the die pad, s2 at a status block. -/
def boxApex (c : Ctx) (d : Die) : State :=
  { base { c with sregs := [(1, addr (dpad 0x40)), (2, addr (upad 0x20)), (3, addr (upad 1))] } with
    dies := [(0, d)], creg := vdRegs ++ [(regKey 0 0 6 0, 2)] }

/-- An AGO of context 0. -/
def someAgo : AgoCmd := ⟨5, 0, Auction.reset, addr (dpad 0x40), addr (upad 0x20), ⟨0, 0x1000, none, none⟩⟩

/-- The context after that AGO. -/
def agoCtx : Ctx := { ctxWith [] with aqid := some 5 }

/-- An auction in its second round. -/
def agoRun (st : AgoStage) : AgoRun := ⟨someAgo, 0, st, [], none⟩

theorem test_meets_ApexAndEvents : let s := boxApex (ctxWith []) .reset
    Admits y0 s ∧ ((s.die 0).apexQ.length + (if (s.die 0).apexRun.isSome = true then 1 else 0) < 16 ∧ s.aqused 0 0 < (s.reg 0 0 6 0).toNat ∧
      (s.me.h 1).out ≠ 2 ^ 32 - 1) ∧ agoTrap 1 2 s = none ∧ (∃ r, agoTrap 3 2 s = some r) ∧
    ¬ (boxApex (ctxWith []) { Die.reset with apexQ := List.replicate 2 someAgo }).aqused 0 0 < 2 ∧ s.me.aqid = none ∧
    (let s := boxApex agoCtx { Die.reset with apexQ := [someAgo] }
     s.me.aqid = some 5 ∧ (s.die 0).apexRun = none ∧ ∃ z ∈ (s.die 0).apexQ, z.id = 5) ∧
    (let s := boxApex agoCtx .reset; s.me.aqid = some 5 ∧ (s.die 0).apexRun = none ∧ ∀ z ∈ (s.die 0).apexQ, z.id ≠ 5) ∧
    (s.die 0).evQ.length < 16 ∧
    16 ≤ ((boxApex agoCtx { Die.reset with evQ := List.replicate 16 ⟨1, 0, [], [], ⟨0, 0, none, none⟩⟩ }).die 0).evQ.length := by
  and_intros <;> first | decide +kernel | (unfold Admits; decide +kernel) | exact ⟨_, rfl⟩

/-- Program memory of die 0 with bytes at 0x100, where the contexts stand. -/
def codeAt (l : List Byte) : List Host.Cell := memPuts [] (codeKey 0 0x100) l

/-- A kill of context 0 that has begun. -/
def someKill : KillCount := ⟨0, 0x1000, 3, 0, 0, 0, []⟩

theorem test_not_stopped {c : Ctx} (h : c.st = .running) : ∀ m, c.st ≠ .stopped m := by simp [h]

theorem test_not_dying {c : Ctx} (h : c.st = .running) : ∀ r, c.st ≠ .dying r := by simp [h]

theorem test_meets_FaultEvents :
    (let s := boxDie [] { Die.reset with heldRecs := [⟨zeros 64⟩] }
     (s.die 0).heldRecs = ⟨zeros 64⟩ :: [] ∧ (s.dreg 0 7 0x18).toNat < 252) ∧
    (let s := boxReg [] [(regKey 0 15 7 0x18, 252)]; 252 ≤ (s.dreg 0 7 0x18).toNat ∧ (s.dreg 0 7 0x18).toNat < 253) ∧
    tfind ((boxDie [] .reset).die 0).faults 7 = none ∧
    (let s := boxDie [] { Die.reset with faults := [(7, .queue 0 2)] }; tfind (s.die 0).faults 7 = some (.queue 0 2) ∧ (s.die 0).unwritten 7 = false) ∧
    { Die.reset with heldRecs := [⟨pfRec 0x10 0 0 0 0 0 0 0 7 0 0 0⟩] }.unwritten 7 = true ∧
    (let s := base { ctxWith [] with pre := some ⟨0, 0, none⟩ }; (s.ctx 0).pre = some ⟨0, 0, none⟩ ∧ ∀ m, (s.ctx 0).st ≠ .stopped m) ∧
    (let s := { base { ctxWith [] with pre := some ⟨9, 0, none⟩ } with code := codeAt (leBytes 0x00180000 4) }
     s.stopMoves 0 = true ∧ (s.ctx 0).st = .running) ∧ (box []).stopMoves 0 = false ∧ (∀ r, ((box []).ctx 0).st ≠ .dying r) ∧
    (let s := { base { ctxWith [] with st := .dying 3 } with dies := [(0, { Die.reset with kills := [someKill] })] }
     (s.ctx 0).st = .dying 3 ∧ (s.withdraw 0).killDone 0 = true ∧
       ((s.withdraw 0).die (dieOf 0)).kills.find? (fun z => z.ctx == 0 && z.task == ((s.withdraw 0).ctx 0).task) = some someKill) ∧
    (let s := base { ctxWith [] with st := .ending }; s.stopMoves 0 = true ∧ (s.ctx 0).st = .ending ∧ (s.ctx 0).pre = none) ∧
    upad 0x123 / 64 * 64 / 2 ^ 44 % 16 = 0xA ∧ 3 / 4 = 64 * 0 + 4 * (upad 0x123 / 64 * 64 / 2 ^ 40 % 16) + upad 0x123 / 64 * 64 / 2 ^ 38 % 4 ∧
    cpad 0x123 / 64 * 64 / 2 ^ 44 % 16 = 0x9 ∧ (((box []).ctx 0).st = .running ∧ ((box []).ctx 0).pre = none) := by
  and_intros <;> first
    | decide +kernel
    | exact test_not_stopped (by decide +kernel)
    | exact test_not_dying (by decide +kernel)

/-- A copy between two virtual addresses. -/
def vaCmd (i : Instr) : CopyCmd := { fillCmd with op := i, a := addr 0xFFF0000000000100, b := addr 0xFFF0000000000200 }

/-- A package whose queue 0 holds that command, with a table region and the first entry of its table. -/
def boxWalk (i : Instr) (tables : Nat) (e : Nat) : State :=
  { boxCore [] { Core.reset with q := [(0, [vaCmd i])] } with
    creg := vdRegs ++ [(regKey 0 0 2 0x010, BitVec.ofNat 64 tables)], mem := memPuts [] (hbmKey 0 0) (leBytes e 8) }

/-- A late vector addition of context 0. -/
def someLate : Late := ⟨0, .va, .vadd .i32 0 1 2 g0 false, [], [], [], 0, 0, 0, [], []⟩

/-- A die that demotes from HBM and has a 16 GiB warm frame. -/
def dieWarm : Die := { Die.reset with pool := [⟨1, 2, 0⟩], demoting := [0] }

/-- A migration command whose next page is `k`, of one page. -/
def someMigr (k : Nat) : MigrCmd := ⟨6, 0, 0x10000, 1, 1, 0x100, k, 0, 0, 0, ⟨0, 0x1000, none, none⟩⟩

/-- An event of 64 bytes. -/
def someEvent : EvCmd := ⟨8, 0, zeros 64, [], ⟨0, 0x1000, none, none⟩⟩

theorem test_meets_EngineEvents_walks : let x := vaCmd (.tmov 1 2 3 0 cp0)
    (boxCore [] .reset).headCmd 0 0 = none ∧
    (let s := boxWalk (.tmov 1 2 3 0 cp0) 0x10000 0x400000363
     s.headCmd 0 0 = some x ∧ x.live (s.die 0).halted = true ∧ (s.die 0).deadVds.contains x.vd = false ∧
     s.nextVa 0 x = some (x.b, .read) ∧ s.walk 0 0 (x.b.toNat % 2 ^ 44) .read false = .leaf 1 0 0x400000363 ∧
     (0x400000363 : Word).getLsbD 7 = false) ∧
    (boxWalk x.op 0 0).walk 0 0 (x.b.toNat % 2 ^ 44) .read false = .node 0 ∧
    (boxWalk x.op 0x10000 0).walk 0 0 (x.b.toNat % 2 ^ 44) .read false = .fault .notValid 1 ∧
    (boxWalk (.tfill 1 2 3 0 cp0) 0x10000 0).nextVa 0 (vaCmd (.tfill 1 2 3 0 cp0)) = some (x.a, .write) := by
  decide +kernel

theorem test_meets_EngineEvents_cores : ((box []).core 0).late = [] ∧ (∀ j, j < 4 → ((box []).ctx j).inflight = []) ∧ ((box []).core 0).act = none ∧
    (let s := boxCore [] { Core.reset with late := [someLate] }
     (s.core 0).late = [someLate] ∧ (lateStep someLate [] (s.modCore 0 fun z => { z with late := [] })).1 = none) ∧
    (let x := { someLate with mark := 1 }
     let s := boxCore [] { Core.reset with late := [x], act := some someMat }
     (lateStep x [] (s.modCore 0 fun z => { z with late := [] })).1.isSome = true) ∧
    (let s := boxCore [] { Core.reset with act := some someMat, shadq := [(5, zeros 64)] }
     (s.core 0).act = some someMat ∧ someMat.start = none ∧ s.rowsInFlight someMat = false ∧ (s.core 0).shadq = (5, zeros 64) :: []) ∧
    (let s := base { ctxWith [] with inflight := [⟨.row 3, 0, 0, 0, 2, .va, false⟩] }; s.rowsInFlight someMat = true) ∧
    (let a := { someMat with start := some 0 }
     let s := { boxCore [] { Core.reset with act := some a } with clock := 15 }
     (s.core 0).act = some a ∧ a.start = some 0 ∧ a.kind = .mzero ∧ a.done.sig = none ∧ coreOf a.ctx = 0 ∧ s.turn = [] ∧
     0 + a.stream + 11 ≤ s.clock ∧ 14 < 0 + a.stream + 11) := by
  decide +kernel

theorem test_meets_EngineEvents_dies :
    (let s := boxDie [] { Die.reset with barQ := [someUpd, { someUpd with src := 4 }] }
     (s.die 0).barQ[0]? = some someUpd ∧ (s.die 0).barQ.take 0 = [] ∧
     ∃ z ∈ (s.die 0).barQ.take 1, z.key = someUpd.key ∧ (z.src = 4 ∨ z.at_ ≤ (s.ctx 4).synced)) ∧
    (let s := boxBar; (s.bar 0).pend = 0 ∧ (s.bar 0).pbytes = 0) ∧
    (let s := { box [] with mem := memPuts [] (dpad 0x4C) (leBytes 1 4) }; (s.bar (dpad 0x40)).pend ≠ 0) ∧
    (let s := boxDie [] .reset
     (s.victim 0 0).isNone = true ∧ (s.victim 0 1).isNone = true ∧ (s.victim 0 2).isNone = true ∧ ∀ t ∈ (s.die 0).demoting, t < 3) ∧
    (let s := boxDie [] { Die.reset with migrQ := [someMigr 1] }
     (s.die 0).migrQ = someMigr 1 :: [] ∧ (s.die 0).halted = false ∧ (s.die 0).deadVds.contains 0 = false ∧ (someMigr 1).len ≤ (someMigr 1).next ∧
       (someMigr 0).next < (someMigr 0).len) ∧
    (let s := boxReg [] [(regKey 0 15 2 0x40, 0x1000000000)]; s.frameTaken 0 1 0 3 = true ∧ s.frameTaken 0 0 3 0 = false) := by
  decide +kernel

theorem test_meets_EngineEvents_demotes : let s := { boxWalk (.tmov 1 2 3 0 cp0) 0x10000 0x400000363 with dies := [(0, dieWarm)] }
    (s.die 0).demoting = [0] ∧ s.victim 0 0 = some ⟨0, 1, 0, 0, 0x400000363⟩ := by
  decide +kernel

theorem test_meets_EngineEvents_apex : ((box []).die 0).apexRun = none ∧ ((box []).die 0).apexQ = [] ∧
    (let s := boxApex agoCtx { Die.reset with apexQ := [someAgo] }
     (s.die 0).apexRun = none ∧ (s.die 0).apexQ = someAgo :: [] ∧ (s.die 0).halted = false ∧ (s.die 0).deadVds.contains 0 = false ∧
       s.frozenVd 0 0 = false) ∧
    (let s := boxApex agoCtx { Die.reset with apexRun := some (agoRun (.writes [] (zeros 32) 0 1)) }
     (s.die 0).apexRun = some (agoRun (.writes [] (zeros 32) 0 1)) ∧ (agoRun (.writes [] (zeros 32) 0 1)).hold = none) ∧
    (let s := boxDie [] { Die.reset with evQ := [someEvent] }
     (s.die 0).evQ = someEvent :: [] ∧ s.eventReady 0 = true ∧ (s.reg 0 0 0 0x58).toNat = 0 ∧ someEvent.done.sig = none ∧
       someEvent.record.length = 64) ∧
    (let s := { boxDie [] { Die.reset with evQ := [someEvent] } with creg := vdRegs ++ [(regKey 0 0 0 0x58, 4)] }
     s.eventReady 0 = true ∧ (s.reg 0 0 0 0x58).toNat ≠ 0) := by
  decide +kernel

/-- A virtual device without contexts, frozen. -/
def boxFrozen (d : Die) : State := { State.reset with dies := [(0, d)], creg := vdRegs ++ [(regKey 0 0 0 0x78, 1)] }

/-- An image of nothing. -/
def noImage : VdImage := ⟨0, [], [], [], [], [], [], [], []⟩

/-- No reset is under way, and nothing of the die runs or is being killed. -/
theorem test_meets_SystemEvents_resets : (((box []).die 0).resets = [] ∧ ((box []).ctx 0).st = .running ∧ (box []).ownerOf 0 0 = some 0) ∧
    (State.reset.die 0).resets = [] ∧ (State.reset.die 0).kills = [] ∧ ∀ k, (State.reset.ctx k).st = .free := by
  refine ⟨by decide +kernel, rfl, rfl, fun _ => rfl⟩

theorem test_meets_SystemEvents : (box []).frozenVd 0 0 = false ∧ (box []).ctxsOfVd 0 0 ≠ [] ∧
    (boxWins winCtx (dieWin (live 1)) []).groupUsed 0 0x828 = true ∧ (box []).groupUsed 0 0x828 = false ∧
    (let s := boxFrozen .reset; s.frozenVd 0 0 = true ∧ s.ctxsOfVd 0 0 = [] ∧ s.vdEmpty 0 0 = true ∧ s.imageTakes 0 0 noImage = true) ∧
    (let s := { boxFrozen .reset with exported := [([], noImage)] }
     s.exported.find? (fun e => s.read (0xFFF * 2 ^ 52 + 0 * 2 ^ 48 + 8 * 2 ^ 44 + 0 % 2 ^ 25) e.1.length == e.1) = some ([], noImage)) ∧
    (boxFrozen (dieJob false)).vdEmpty 0 0 = false ∧
    (let s := { box [] with attleft := 3 }; (s.die 0).quote = false ∧ s.attleft ≠ 0 ∧ s.fail = 0 ∧ ¬ s.stage < 5) ∧
    { box [] with attleft := 0 }.attleft = 0 ∧ ((boxDie [] { Die.reset with quote := true }).die 0).quote = true ∧
    (State.reset.fail = 0 ∧ State.reset.stage < 5) ∧ { box [] with fail := 0x10 }.fail ≠ 0 ∧
    (∃ r, regRow dieRegRows 5 8 = some r ∧ r.acc = .rw ∧ (5, 8) ∉ [(0, 0x128), (2, 0x28), (2, 0x30), (2, 0x38), (7, 0x10)]) := by
  and_intros <;> first | decide +kernel | exact ⟨_, rfl, by decide, by decide⟩

theorem test_meets_RoundsToNearestEven : Ty.f32.isInt = false ∧ (roundTo .f32 .rne 0 (.fin true 1 3)).2 &&& (flOF ||| flSAT) = 0 ∧
    floatOf .f32 0x3EAAAAAB = .fin false 11184811 (2 ^ 25) ∧ 0x3EAAAAAB < 2 ^ Ty.f32.bits := by
  decide +kernel

theorem test_meets_encodings : (Instr.cmplt 4 3 7 g0).wf = true ∧ (Instr.cmplt 4 3 7 g0).kind ≠ .event ∧ 0x38206380 < 2 ^ 32 ∧
    decode .x 0x38206380 = .ok (.cmplt 4 3 7 g0) ∧ decode .hdr 0x00300000 = .ok (.nop 3 false) := by
  refine ⟨by decide, by decide, by decide, rfl, rfl⟩

theorem test_meets_memory : State.reset.MemWf ∧ Memory.wf [(5, 3)] = true := by
  refine ⟨?_, by decide⟩
  unfold State.MemWf
  decide

/-- A package whose context 0 stands at the bundle of the given bytes and has its turn. -/
def boxTurn (l : List Byte) : State := { base (ctxWith [(3, 5)]) with code := codeAt l, turn := [0] }

theorem test_meets_StepRunsDecoded :
    (∀ l ∈ [leBytes 0x80000000 4 ++ leBytes 0x38206380 4, leBytes 0x00300000 4], let s := boxTurn l
      let s1 := { s with turn := [] }
      s.agenda = [] ∧ s.turn = 0 :: [] ∧ (s.core 0).late = [] ∧ (s.core 0).freeze = false ∧ (s.ctx 0).st = .running ∧ (s.ctx 0).held = none ∧
      (s.ctx 0).idle = 0 ∧ (s.die 0).halted = false ∧ (∀ j, j < 4 → j ≠ 0 → (s.ctx j).st = .free) ∧ (s1.judge 0).eligible = true ∧
      s1.barred 0 = none) ∧
    (boxTurn (leBytes 0x80000000 4 ++ leBytes 0x38206380 4)).slotsAt 0 0x100 = [(.x, .ok (.cmplt 4 3 7 g0))] ∧
    (let s := boxTurn (leBytes 0x00300000 4); (s.hdr 0 0x100).mask = 0 ∧ decodeHdr (s.fetchNat 0 0x100 4) = .ok (.nop 3 false)) ∧
    (let s := boxTurn (leBytes 0x80000000 4 ++ leBytes 0x38206380 4)
     s.last = .issued ∧ (s.ctx 0).xfer = none ∧ (s.ctx 0).lc0.la = false ∧ (s.ctx 0).lc1.la = false ∧ (s.hdr 0 0x100).mask ≠ 0 ∧
     (s.hdr 0 0x100).e = 0) ∧
    { box [] with agenda := [⟨.rcntDecay, [0]⟩] }.agenda = ⟨.rcntDecay, [0]⟩ :: [] := by
  refine ⟨by decide +kernel, rfl, ⟨by decide +kernel, rfl⟩, by decide +kernel, rfl⟩

/-- An auction in its second round. -/
def someAuc : Auc := ⟨1, 1, 1, addr (dpad 0), 2, addr (dpad 0), addr (dpad 0), addr (dpad 0), [1], [], 0, 2, 1, [], [], [], [], [], [], []⟩

theorem test_meets_ApexAndEvents_rounds : let s := boxApex agoCtx { Die.reset with apexRun := some (agoRun (.rounds someAuc)) }
    s.me.aqid = some 5 ∧ (s.die 0).apexRun = some (agoRun (.rounds someAuc)) ∧ (agoRun (.rounds someAuc)).cmd.id = 5 := by
  decide +kernel

/-- A package whose context 0 stands at a CRECV of channel 3, which is empty, with a stall limit of one. -/
def boxStall : State :=
  { boxChan (chanRx 1 1 []) with
    code := codeAt (leBytes 0x01000000 4 ++ leBytes (encode (.crecv 20 1 y0)) 8), creg := vdRegs ++ [(regKey 0 0 5 0x08, 1)] }

theorem test_meets_ChannelEvents_stall : boxStall.stallDue 0 = true ∧ boxStall.chanWait 0 = some (3, 2, .y) ∧ (boxStall.ctx 0).sup = false := by
  decide +kernel

/-! ## More states for the clauses of one statement -/

theorem test_meets_TransferTakesEffect_late :
    let s := { base { ctxWith [] with xfer := some ⟨.eret, 0⟩ } with cores := [(0, { Core.reset with late := [someLate] })] }
    (s.ctx 0).idle = 0 ∧ (s.ctx 0).xfer = some ⟨.eret, 0⟩ ∧ (∃ x ∈ (s.core (0 / 4)).late, x.ctx = 0) ∧ ((box []).core 0).late = [] := by
  refine ⟨by decide +kernel, by decide +kernel, ⟨someLate, by decide +kernel⟩, by decide +kernel⟩

theorem test_meets_VectorReductionsAndConversions_nib : (Ty.e2m1 ≠ .f32 ∧ 0 < max Ty.e2m1.bits Ty.f32.bits / min Ty.e2m1.bits Ty.f32.bits) ∧
    (((box []).rd.c.k g0.k).getLsbD (0 * (32 / 8)) != g0.neg) = true ∧ (0 < 1 ∧ 0 < 2) ∧ 2 ≤ 1 * 4096 := by decide +kernel

/-- A scoreboard that is full, and operands that each check of R158 turns away. -/
theorem test_meets_LocalCopies_checks : let bar := fun (n : Nat) => box [(1, addr (upad 0x1000)), (2, addr (upad 0x2000)), (3, 64), (5, addr n)]
    let cls := fun (n : Nat) => (box []).checkAddr 0 .copy (addr n)
    copyScore 0 .move ⟨addr (upad 0x1000), 0, 64, 0⟩ 0 ≠ none ∧
    16 ≤ ((boxCore [] { Core.reset with score := List.replicate 16 ⟨0, 0, 63⟩ }).core 0).score.length ∧
    (cls (upad 0x1000) = none ∧ cls (upad 0x3FBFF0000) = some .addrClass ∧ cls (dpad 0x1FFFFF8) = none) ∧
    (∃ n, n ≤ 0x1FFFFF8 ∧ ¬ (n % 2 ^ 25 + 64 ≤ ((box []).bound 0 0 0x18).2 * 65536)) ∧ 2 ^ 20 < 0xFFFF8 % 2 ^ 20 + 64 ∧
    ¬ 16 ∣ 8 ∧ ¬ 16 ∣ (addr (upad 0x1008)).toNat ∧ ((bar (upad 0)).me.s 5).toNat / 2 ^ 44 % 16 = 0xA ∧
    (cls (dpad 0x48) = none ∧ ¬ 32 ∣ (addr (dpad 0x48)).toNat ∧ 32 ∣ (addr (dpad 0x40)).toNat) ∧
    (bar 0).viewTrap 0 (viewArg .move 0 ⟨addr (upad 0x1000), addr (upad 0x2000), 64, 0⟩)
      (copyRanges .move ⟨addr (upad 0x1000), addr (upad 0x2000), 64, 0⟩) = none := by
  and_intros <;> first | decide +kernel | exact ⟨0x1FFFFF8, by decide +kernel⟩

/-- An index row in the tile of a running operation, and lanes that fail each check. -/
theorem test_meets_MemoryGuardsAndTraps_indexed :
    let s := fun (b n : Nat) => { boxCore [(6, addr b)] { Core.reset with rows := [(0, BitVec.ofNat 2048 n)] } with last := .issued }
    let l := (List.range 64).filter fun i => laneEnabled (s (upad 0) 0) g0 4 i
    ((s (upad 0) 0).me.vbase + 1 < (s (upad 0) 0).me.vlim ∧ (s (upad 0) 0).rowBusy 0 0 = false) ∧
    (boxCore [] { Core.reset with act := some { someMat with tile := 0 } }).rowBusy 0 1 = true ∧ 0 ∈ l ∧
    (s (upad 0) 0).checkAddr 0 .ls (addr (upad 0x3FBFF0000)) = some .addrClass ∧ (s (upad 0) 0).checkAddr 0 .ls (addr (upad 4)) = none ∧
    spaceSize 0xA < offOf (addr (upad 0xFFFFE)) + 4 ∧ ¬ 4 ∣ (addr (upad 1)).toNat := by
  and_intros <;> decide +kernel

theorem test_meets_SchedulerEvents_joins : let s := { boxWave with wire := [⟨0xFFF1, 0xFFF0, .join 0 2 0⟩, someQuestion 0] }
    (s.wire.findIdx? fun m => m.dst == s.place 0 && match m.body with | .join j _ _ => j == 0 | _ => false) = some 0 ∧
    s.jobRoom 0 0 = true ∧ (∃ m ∈ s.wire, m.dst = s.place 0 ∧ ∃ k id, m.body = .jobAsk 0 k id) ∧
    ∃ u, exec .jobWave (stepJobJoinNotice 0 s) = .next u := by
  refine ⟨by decide +kernel, by decide +kernel, ⟨someQuestion 0, by decide +kernel, by decide +kernel, 0, 3, rfl⟩, _, rfl⟩

/-- A port with a request of class 0, of weight 1 and of weight 0, and one that would pass its cap. -/
theorem test_meets_OriginEvents_round : let s := fun (w : Word) => { boxFar [someRem] .reset with creg := vdRegs ++ [(regKey 0 15 5 0x08, w)] }
    (s 1).waiting 0 = [.head 0 someRem] ∧ (s 1).classOfWaiter 0 (.head 0 someRem) = 0 ∧
    ((s 1).dreg 0 5 0x08).toNat / 256 ^ 0 % 256 ≠ 0 ∧ (∀ cl, cl < 4 → ((s 0).dreg 0 5 0x08).toNat / 256 ^ cl % 256 = 0) ∧
    (Waiter.head 0 someRem).bytes ≤ 64 ∧
    (let c := { s 1 with creg := vdRegs ++ [(regKey 0 0 5 0, 1)], dies := [(0, { (s 1).die 0 with used := [(0, 990)] })] }
     (c.reg 0 (c.vdOfWaiter 0 (.head 0 someRem)) 5 0).toNat ≠ 0 ∧ tget 0 (c.die 0).used 0 ≠ 0 ∧ 1000 * 1 < tget 0 (c.die 0).used 0 + 64) := by
  and_intros <;> decide +kernel

/-- A CSEND of one chunk with its permit, with its flow in the table, and with a full table without it; and one that waits. -/
theorem test_meets_ChannelEvents_send : let c := { chanTx with eps := 32, ty := 11 }
    let f : FlowE := ⟨0, 0, 0xFFF1, 4, 2⟩
    let x := { sendCmd with idx := some 6 }
    let s := fun (l : List FlowE) (y : CopyCmd) => { boxDie [] { Die.reset with chans := [(3, c)], flows := l } with
      cores := [(0, { Core.reset with q := [(0, [y])] })] }
    ((tget [] ((s [f] x).core 0).q 0).head? = some x ∧ x.op = .csend 0 1 2 x0 ∧ x.idx = some ((6 : Nat) : Int) ∧ x.rd = 0 ∧ x.buf = []) ∧
    (c.slotBytes = 64 ∧ c.slotBytes ≤ 64 - x.b.toNat % 64 ∧ x.b.toNat / 2 ^ 44 % 16 = 0xA ∧ x.b.toNat / 2 ^ 52 = 0xFFF) ∧
    (s [f] x).bankBusy (addrBanks x.b 64) = false ∧ ((s [f] x).ctx 0).before = [] ∧ x.done.sig = none ∧ x.done.hnd = none ∧
    (f ∈ ((s [f] x).die 0).flows ∧ f.ctx = x.done.ctx ∧ f.flow = x0.flow ∧ f.place = c.peer) ∧
    1024 ≤ ((s (List.replicate 1024 { f with flow := 3 }) x).die 0).flows.length ∧
    (let t := s [] sendCmd
     ((t.chan 0 3).role = 1 ∧ (t.chan 0 3).permits ≠ 0 ∧ (t.die 0).halted = false ∧ (t.chan 0 3).vd ∉ (t.die 0).deadVds) ∧
       firstHead (t.csendHeads 0) 3 = some (0, 0, sendCmd)) := by
  and_intros <;> first | decide +kernel | rfl

/-- A page fault with two logged beats, and its replay under way. -/
theorem test_meets_FaultEvents_replay : let b : LogBeat := ⟨7, 0, 0, 0, 0x100000, [1], 9⟩
    let s := fun (l : Tbl FaultOf) => { boxDie [] { Die.reset with faults := l } with
      cores := [(0, { Core.reset with log := [b, { b with va := 0x100040 }] })], sel := [0, 9] }
    (tfind ((s [(9, .page 0 0 0x100000)]).die 0).faults 9 = some (.page 0 0 0x100000) ∧
      ((s [(9, .page 0 0 0x100000)]).die 0).unwritten 9 = false) ∧
    ((s []).replays 0).find? (fun e => e.2 == 9) = some (0, 9) ∧ (∀ e ∈ (box []).replays 0, e.2 ≠ 9) ∧
    ((s []).core 0).log.find? (fun z => z.token == 9) = some b ∧ ((s []).core 0).beatAt ≠ some (s []).clock := by
  and_intros <;> decide +kernel

/-- A halted die, and an auction whose status is written. -/
theorem test_meets_EngineEvents_halts : let r := agoRun (.ended 3 7)
    let s := boxApex agoCtx { Die.reset with apexRun := some r }
    (boxDie [] { Die.reset with halted := true }).die (0 / 64) = { Die.reset with halted := true } ∧
    (∀ n, ((boxDie [] { Die.reset with halted := true }).ctx 0).st ≠ .dying n) ∧ (boxDie [] { Die.reset with resets := [⟨3, 0, 0⟩] }).shutVd 0 0 = true ∧
    (s.die 0).apexRun = some r ∧ r.stage = .ended 3 7 ∧ r.hold = none ∧ (s.die 0).deadVds.contains r.cmd.vd = false := by
  refine ⟨rfl, fun n => ?_, by decide +kernel, by decide +kernel, rfl, rfl, by decide +kernel⟩
  have e : ((boxDie [] { Die.reset with halted := true }).ctx 0).st = .running := by decide +kernel
  rw [e]; exact nofun

/-- Writes of RESET with a target in VDCLUS and outside it, and by a device without DIEADM. -/
theorem test_meets_SystemEvents_ignored : Nat.testBit ((box []).vdClus 0 0) (0x0F0 % 256 / 16) = false ∧
    Nat.testBit ((box []).vdClus 0 0) (0x300 % 256 / 16) = true ∧ 0x300 / 256 % 8 = 3 ∧ 4 ≤ 0x400 / 256 % 8 ∧
    { box [] with creg := [] }.vdAdm 0 1 = false ∧ (box []).vdAdm 0 0 = true ∧ 6 ≤ 0x700 / 256 % 8 := by
  and_intros <;> decide +kernel

/-- A CTXSV, or another image command, at the head of queue 2 of core 0, with context 1 as its target. -/
def imgCmd (i : Instr) : CopyCmd := { fillCmd with op := i, a := 1, b := addr (dpad 0x40), e := addr (upad 8), id := 3 }

/-- A package with that command and a context 1, whose task 5 of generation 1 is running, as its queues stand at the end of a cycle. -/
def boxImg (c : Ctx) (x : CopyCmd) (turn : List Nat) : State :=
  { boxPair c with
    cores := [(0, { Core.reset with q := [(2, [x, { x with id := 4 }])] })]
    dies := [(0, { Die.reset with recs := [(5, { Rec.reset with st := 3, gen := 1 })] })]
    sel := [0, 2, 0]
    turn := turn }

/-- A stopped context of that task. -/
def stoppedCtx : Ctx := { ctxWith [] with st := .stopped 1, task := 0x1005, synced := 12 }

/-- Targets that run, that are stopped with a command under way and without one, and images that fit and do not. -/
theorem test_meets_ImageSaves_begin : let i : Instr := .ctxsv 2 1 4 5 y0
    let s := boxImg stoppedCtx (imgCmd i) []
    (tget [] (s.core 0).q 2 = [imgCmd i, { imgCmd i with id := 4 }] ∧ (imgCmd i).live (s.die 0).halted = true ∧
      (imgCmd i).b.toNat / 2 ^ 44 % 16 = 8 ∧ (imgCmd i).rd = 0 ∧ s.sel = [0, 2, 0] ∧ s.turn = []) ∧
    ((s.ctx 1).st = .stopped 1 ∧ (s.ctx 1).inflight = [] ∧ (s.core 0).late = [] ∧ (s.core 0).act = none ∧ (s.core 0).pend = none) ∧
    s.imageQuiet 1 3 = true ∧ ((boxImg { stoppedCtx with inflight := [vResult] } (imgCmd i) []).ctx 1).inflight ≠ [] ∧
    (boxImg { stoppedCtx with held := some ⟨.fence, 0, 0, 0, false, ⟨0, 0, none, none⟩⟩ } (imgCmd i) []).imageQuiet 1 3 = false ∧
    ((s.bound 0 0 0x18).1 * 65536 ≤ 0x40 ∧ 0x40 + 2176 ≤ (s.bound 0 0 0x18).2 * 65536) ∧ ¬ 0x1FFF800 % 2 ^ 25 + 2176 ≤ 2 ^ 25 := by
  and_intros <;> decide +kernel

/-- A save whose beats are written, with a target that is the same and one that was loaded anew; the beats of an image and of a status
slot. -/
theorem test_meets_ImageSaves_end : let i : Instr := .ctxsv 2 1 4 5 y0
    let x := { imgCmd i with rd := 1, buf := zeros 128, row := 128, wr := 128, c := 0x1005, idx := some 12 }
    let same := fun s : State => (s.ctx 1).st = .stopped 1 ∧ (s.ctx 1).task = x.c.toNat ∧ x.idx = some ((s.ctx 1).synced : Int)
    same (boxImg stoppedCtx x []) ∧ ¬ same (boxImg { stoppedCtx with synced := 13 } x []) ∧ x.row ≤ x.wr ∧
    (∀ z ∈ ((boxImg stoppedCtx x []).core 0).log, z.id ≠ x.id) ∧ ((boxImg stoppedCtx x []).core 0).semUpd = [] ∧
    (∀ y ∈ [{ x with wr := 64 }, { x with rd := 2, wr := 0, row := 8, buf := zeros 8 }], let s := boxImg stoppedCtx y [0]
      y.wr < y.row ∧ y.row ≤ y.buf.length ∧ s.turn ≠ [] ∧ (s.core 0).beatAt ≠ some s.clock ∧
      (∀ n, n < (2 + 3 - (s.core 0).beatQ) % 4 → s.beatReady 0 (((s.core 0).beatQ + 1 + n) % 4) = false) ∧
      s.bankBusy (addrBanks (if y.rd = 2 then y.e else y.b + BitVec.ofNat 64 y.wr) (min 64 (y.row - y.wr))) = false) := by
  and_intros <;> decide +kernel

/-- The pad forms: a context of the pad that runs and one that is stopped, and a pad with nothing dirty. -/
theorem test_meets_ImageSaves_pads : let x := imgCmd (.ctxsvUpad 2 1 4 5 y0)
    let s := boxImg { stoppedCtx with st := .running } x []
    (1 / 256 = 0 ∧ 1 / 4 = x.a.toNat / 4 % 64 ∧ 1 / 16 = x.a.toNat / 16 % 16 ∧ (s.ctx 1).st = .running) ∧
    s.padBusy true 0 1 = true ∧
    (let t := { boxImg stoppedCtx { x with rd := 3 } [] with ctxs := [(1, stoppedCtx)] }
     t.padBusy true 0 1 = false ∧ t.dirty = [] ∧ ({ x with rd := 3 } : CopyCmd).buf = []) := by
  and_intros <;> decide +kernel

/-- A package whose die pad holds a context image's header at 0x40: TASKID, CLMAP, rows and semaphores as given, and LEN 2176. -/
def boxLoad (c : Ctx) (kind task clmap rows sems : Nat) : State :=
  { boxImg c (imgCmd (.ctxld 2 1 4 5 y0)) [] with mem := memPuts (memPuts (memPuts [] (dpad 0x40) (leBytes kind 2 ++ leBytes 1 2 ++
      leBytes 2176 4 ++ leBytes task 4)) (dpad 0x52) (leBytes clmap 2 ++ leBytes rows 1)) (dpad 0x56) (leBytes sems 2) }

/-- An image that R338's checks pass, and images and targets that fail each of them. -/
theorem test_meets_ImageLoads : let f := fun s : State => numAt (memBytes s.mem (dpad 0x40) 64)
    let s := boxLoad .reset 0x40 0x1005 1 2 6
    let here := fun t : State => (t.trec 0 (f t 8 4 % 2 ^ 12)).st = 3 ∧ (t.trec 0 (f t 8 4 % 2 ^ 12)).gen = f t 8 4 / 2 ^ 12 % 2 ^ 12
    ((s.ctx 1).st = .free ∧ ((boxLoad stoppedCtx 0x40 0x1005 1 2 6).ctx 1).st ≠ .free ∧ (imgCmd (.ctxld 2 1 4 5 y0)).rd = 0 ∧
      64 ∣ (imgCmd (.ctxld 2 1 4 5 y0)).b.toNat ∧ (imgCmd (.ctxld 2 1 4 5 y0)).b.toNat % 2 ^ 44 < 2 ^ 25) ∧
    (f s 0 2 = 0x40 ∧ f s 2 2 = 1 ∧ f s 21 1 = 0 ∧ f s 38 10 = 0 ∧ f s 56 8 = 0 ∧ f s 4 4 = 2176 ∧ f s 32 2 = 0 ∧ f s 34 2 = 0 ∧ f s 36 2 = 0) ∧
    f (boxLoad .reset 0x41 0x1005 1 2 6) 0 2 ≠ 0x40 ∧ (0x40 + 2176 ≤ 2 ^ 25 ∧ 0x40 + 2176 ≤ (s.bound 0 0 0x18).2 * 65536) ∧
    here s ∧ f s 8 4 / 2 ^ 24 % 16 = 0 ∧ ¬ here (boxLoad .reset 0x40 0x2005 1 2 6) ∧
    (∀ cl, cl < 16 → (f s 18 2).testBit cl = true → s.ownsClus 0 0 cl = true) ∧
    (∃ cl, cl < 16 ∧ (0x8000 : Nat).testBit cl = true ∧ s.ownsClus 0 0 cl = false) ∧
    (s.rowRun 0 (f s 20 1)).isSome = true ∧ (s.semRun 0 (f s 22 2)).isSome = true ∧ (s.rowRun 0 200).isNone = true := by
  and_intros <;> first | decide +kernel | exact ⟨15, by decide +kernel⟩

/-- Operands that pass R251's checks, and ones that fail each of them. -/
theorem test_meets_RemoteCommands_checks : let s := boxFar [] .reset
    let n := Ty.i32.bytes
    (0 < n ∧ s.checkAddr 0 .remote (addr (far 0x100)) = none ∧ s.checkAddr 0 .copy (addr (upad 0x2000)) = none ∧
      s.checkAddr 0 .red (addr (aper 0)) = none ∧ s.checkAddr 0 .copy (addr (upad 0x3FBFF0000)) = some .addrClass) ∧
    (∀ w ∈ [far 0x100, upad 0x2000, aper 0, dpad 0], (addr w).toNat / 2 ^ 44 % 16 ≠ 0xF) ∧
    (s.ownDie 0 (addr (dpad 0x1FFFFF8)) = true ∧ ¬ 0x1FFFFF8 + 64 ≤ (s.bound 0 0 0x18).2 * 65536) ∧
    2 ^ 20 < (addr (upad 0xFFFF8)).toNat % 2 ^ 44 % 2 ^ 20 + 64 ∧ (0x10000000000 : Nat) / 2 ^ 32 ≠ 0 ∧ 0x200 / 2 ^ 9 % 2 ^ 7 ≠ 0 ∧
    (s.dreg 0 5 (0x40 + 8 * 5)).getLsbD 0 = false ∧ (s.dreg 0 5 (0x40 + 8 * ((addr (aper 0)).toNat % 2 ^ 44 / 2 ^ 32))).getLsbD 0 = true ∧ ¬ n ∣ 6 ∧ ¬ 64 ∣ 96 ∧
    ¬ 4 ∣ (addr (far 2)).toNat ∧ (let t := { s with creg := s.creg ++ hullRegs }; t.meetsAperture 0 0 0x2000000 64 = true) := by
  and_intros <;> decide +kernel

/-- An auction of one row and two columns with its descriptor at 0x40 of the die pad, its scores, capacities and outputs behind it; `r`
and `fmt` stand in R and SFMT, and `caps` in the capacities. -/
def boxAuc (r fmt : Nat) (caps : List Nat) (cfg : Auction) : State :=
  let d := leBytes (dpad 0x100) 8 ++ leBytes (dpad 0x140) 8 ++ leBytes (dpad 0x180) 8 ++ leBytes (dpad 0x1C0) 8 ++ leBytes (dpad 0x200) 8 ++
    leBytes r 4 ++ leBytes 2 2 ++ leBytes fmt 1 ++ zeros 1 ++ leBytes 8 4 ++ zeros 12
  let s := boxApex agoCtx { Die.reset with apexRun := some { agoRun .start with cmd := { someAgo with cfg := cfg } } }
  let m := memPuts (memPuts [] (dpad 0x40) d) (dpad 0x100) (leBytes 0x3F800000 4 ++ leBytes 0x40000000 4)
  { s with mem := memPuts m (dpad 0x140) (caps.map fun c => leBytes c 2).flatten }

/-- Descriptors that pass R345's checks and that fail each of them, and capacities that suffice and that do not. -/
theorem test_meets_ApexAndEvents_start : let s := boxAuc 1 13 [1, 1] Auction.reset
    let R := fun t : State => t.descReason { agoRun .start with cmd := someAgo } (aucDesc (memBytes t.mem (dpad 0x40) 64))
    let at_ := fun w : Nat => leNat (memBytes s.mem (dpad 0x40 + w) 8)
    (R s = none ∧ ((s.die 0).apexRun.map fun r => (r.stage, r.hold, r.got)) = some (AgoStage.start, none, [])) ∧
    (R (boxAuc 0 13 [1, 1] Auction.reset) = some 1 ∧ R (boxAuc 1 9 [1, 1] Auction.reset) = some 2 ∧
      s.checkRange 0 .copy (addr (dpad 0x1FFFFFC)) 8 ≠ none ∧ ({ Auction.reset with phases := 9 } : Auction).bad = true) ∧
    (at_ 0 = dpad 0x100 ∧ at_ 8 = dpad 0x140 ∧ (∀ w ∈ [dpad 0x40, dpad 0x100, dpad 0x140, dpad 0x180], w / 2 ^ 44 % 16 = 8 ∧ w / 2 ^ 48 % 16 = 0 ∧
      w % 2 ^ 44 + 64 ≤ 2 ^ 44)) ∧
    (1 ≤ [1, 1].sum ∧ [0, 0].sum < 1) ∧ ((floatOf .f32 0).isNan = false ∧ (floatOf .f32 0).isInf = false) ∧ (floatOf .f32 0x7F800000).isInf = true := by
  and_intros <;> decide +kernel

/-- Rows that bid, with a bid that is finite and one that overflows; no row left in the last phase and in one before it; a column with two
bids; and a beat to write. -/
theorem test_meets_ApexAndEvents_auction : let x := { someAuc with c := 2, w := 4, caps := [1, 1], eps := 0x3F800000 }
    let sc := [0x3F800000, 0x40000000]
    let F := floatOf .f32
    let U := fun y : Auc => (List.range y.r).filter fun i => (tfind y.asg i).isNone && !y.stranded.contains i
    let v := fun j => (roundTo .f32 .rne 0 (exactSum [F (sc.getD j 0), (F (tget 0 x.price j)).negate]).1).1
    (x.bid sc = some (1, 0x40000000) ∧ { x with eps := 0x7F800000 }.bid sc = none ∧ v 0 = 0x3F800000 ∧ v 1 = 0x40000000 ∧
      (F (v 0)).lt (F (v 1)) = true ∧ (F (v 1)).isInf = false ∧ x.bid [0xFF800000, 0xFF800000] = none) ∧
    (U x = [0] ∧ x.rounds ≠ Auction.reset.rounds.toNat ∧ U { x with asg := [(0, 1)] } = [] ∧ x.ph + 1 ≥ Auction.reset.phases.toNat ∧
      { x with ph := 0 }.ph + 1 < 2 ∧ (∃ a b e, F x.eps = .fin a b e) ∧ (∃ q n z, F 0x40800000 = .fin q n z ∧ 0 < n)) ∧
    (let l := [(0, 0x3F800000), (2, 0x40000000)]
     let S := [(2, 0x40000000), (0, 0x3F800000)]
     l ≠ [] ∧ S.Perm (tget [] x.held 0 ++ l) ∧ S.Pairwise (fun e f => (F f.2).lt (F e.2) = true ∨ ((F e.2).lt (F f.2) = false ∧ e.1 < f.1)) ∧
       (S.map Prod.fst).Nodup ∧ (x.asg.map Prod.fst).Nodup ∧ (∀ e ∈ S, (F e.2).isNan = false ∧ (F e.2).isInf = false)) ∧
    x.r ≤ 65536 ∧ x.c ≤ 4096 ∧ (zeros 8).length ≤ 64 - dpad 0x180 % 64 := by
  and_intros <;> first | decide +kernel | exact ⟨false, 2 ^ 23, 2 ^ 23, by decide +kernel⟩ | exact ⟨false, 2 ^ 23, 2 ^ 21, by decide +kernel⟩

/-- A job whose entry the die holds, and a record of it that is in no armed list. -/
theorem test_meets_SchedulerEvents_discards : let s := boxDie [] { dieJob false with recs := [(3, { Rec.reset with st := 2, job := 5, gen := 4 })] }
    s.job 0 (s.trec 0 3).job = some ⟨5, 0, 1, 1, 0, false, 1, none, 0, false⟩ ∧ (s.trec 0 3).armed = none := by
  decide +kernel

/-- A request for a page whose table entry lies in an uncorrectable chunk, and a task that has left its context with requests open. -/
theorem test_meets_RequestEvents_bad : let w := { live 0 with base := addr 0xFFF0000000100000, len := 0x10000 }
    let r := { someReq with addr := addr 0xFFF0000000100000 }
    let s := { boxReq w r 0 tblRegs 0 with bad := [hbmKey 0 0] }
    s.checkReq 0 r = none ∧ s.reqBad 0 0 r = some (hbmKey 0 0) := by
  decide +kernel

/-- A port that is dead, a place that stays down while its reset runs, and a request of a dead port that waits to be sent again. -/
theorem test_meets_OriginEvents_down : let s := { boxFar [someRem] .reset with dies := [(0, { Die.reset with deadVds := [0], outst := [someOut] }), (1, { Die.reset with resets := [⟨4, 0, 0⟩] })] }
    someRem.vd ∈ (s.die 0).deadVds ∧ ((boxFar [] .reset).die 0).deadVds = [] ∧ (s.die 0).request 4 = some someOut ∧ someOut.vd ∈ (s.die 0).deadVds ∧
    (0xFFF1 / 16 = s.epid ∧ ∃ x ∈ (s.die (0xFFF1 % 16)).resets, 3 ≤ x.scope) ∧
    ¬ (0xFFF2 / 16 = s.epid ∧ ((s.die (0xFFF2 % 16)).halted = true ∨ ∃ x ∈ (s.die (0xFFF2 % 16)).resets, 3 ≤ x.scope)) := by
  and_intros <;> first | decide +kernel | exact ⟨⟨4, 0, 0⟩, by decide +kernel⟩

/-- A barrier and a table entry in uncorrectable chunks. -/
theorem test_meets_checks : { boxBar with bad := [dpad 0x40] }.badIn (dpad 0x40) 32 = some (dpad 0x40) ∧ boxBar.badIn (dpad 0x40) 32 = none ∧
    (let s := { boxVa with bad := [hbmKey 0 0] }
     s.entriesOf 0 0 0x100000 = [0] ∧ s.badIn (hbmKey 0 0) 8 = some (hbmKey 0 0)) := by
  decide +kernel

/-- Operations that may start, and one held by a result in a latch of a running context; a pending one behind an active one. -/
theorem test_meets_EngineEvents_starts : let s := boxCore [] { Core.reset with act := some { matNow with start := none } }
    (s.rowsInFlight { matNow with start := none } = false ∧ (s.die 0).halted = false) ∧
    (base { ctxWith [] with latches := [⟨.row 3, 0, 0, 0, 2, .va, false⟩] }).rowsInFlight matNow = true ∧
    (base { ctxWith [] with st := .stopped 1, latches := [⟨.row 3, 0, 0, 0, 2, .va, false⟩] }).rowsInFlight matNow = false ∧
    (let p := { matNow with tile := 64, start := none }
     let t := { boxCore [] { Core.reset with act := some matNow, pend := some p } with clock := 4 }
     (t.core 0).act = some matNow ∧ matNow.start = some 0 ∧ (t.core 0).pend = some p ∧ p.start = none ∧ p.tile ≠ matNow.tile ∧
       0 + matNow.stream ≤ t.clock ∧ t.rowsInFlight p = false) := by
  decide +kernel

/-- A bundle that passes a wait, with a new matrix operation of its context. -/
theorem test_meets_StepRunsDecoded_sees :
    let s := { boxTurn (leBytes 0x01000000 4 ++ leBytes (encode (.barwait 14 15 y0)) 8) with writes := [(upad 0x40, [1]), (dpad 0, [1])] }
    let t := { s with cores := [(0, { Core.reset with act := some { matNow with id := 7 } })], last := .issued }
    s.passesWait 0 = true ∧ t.last = .issued ∧ (t.ctx 0).st = .running ∧ (s.ctx 0).idle = 0 ∧ matNow.ctx = 0 ∧ s.bids ≤ 7 ∧
    (t.core 0).act = some { matNow with id := 7 } := by
  decide +kernel

/-- Writes of RESET with the scopes of a core, a cluster and the package, by a device with DIEADM. -/
theorem test_meets_SystemEvents_scopes : (box []).vdAdm 0 0 = true ∧
    ∀ v ∈ [0x000, 0x100, 0x200, 0x300, 0x400, 0x500], Nat.testBit ((box []).vdClus 0 0) (v % 256 / 16) = true ∧ v < 2 ^ 64 ∧ v / 256 % 8 < 6 := by
  decide +kernel

/-- A CSEND whose task has left its context. -/
theorem test_meets_ChannelEvents_gone : let x := { sendCmd with idx := some 6 }
    ((base { ctxWith [] with task := 0x2000 }).ctx 0).task ≠ x.done.task ∧ ((box []).ctx 0).task = x.done.task ∧ x.done.ctx < 4096 := by
  decide +kernel

/-- A channel descriptor that R276's table refuses, and a live entry. -/
theorem test_meets_ChannelEvents_table : (boxChan .reset).chan 0 3 = .reset ∧ (boxChan chanTx).chan 0 3 ≠ .reset ∧
    (1 + 15 * 2 ^ 16) % 256 ≠ 0 ∧ ¬ (1 + 15 * 2 ^ 16) / 2 ^ 16 % 256 < 15 := by
  decide +kernel

/-! ## Effects, with the results of the spec's examples or worked out by hand -/

/-- R84 and R86: the sum wraps, and the latency is 1. -/
theorem test_addi_wraps : flying (exec (.addi 1 2 (-1)) (box [])) = [(.sreg 1, 2 ^ 64 - 1, 1)] := by decide +kernel

/-- R85: a subtraction reads its second operand last. -/
theorem test_sub : flying (exec (.sub 1 2 3 g0) (box [(2, 5), (3, 7)])) = [(.sreg 1, 2 ^ 64 - 2, 1)] := by decide +kernel

/-- A guard that fails leaves nothing in flight. -/
theorem test_guard_off : flying (exec (.add 1 2 3 gOff) (box [(2, 5), (3, 7)])) = [] := by decide +kernel

/-- R87: imm19 shifted by 13, with its sign. -/
theorem test_sethi : flying (exec (.sethi 1 (-1)) (box [])) = [(.sreg 1, 2 ^ 64 - 2 ^ 13, 1)] := by decide +kernel

/-- R54's worked example: the first draw from state 1. -/
theorem test_draw : drawNext 1 = 0x40822041 ∧ drawBits 0x40822041 = 16514 := by decide +kernel

/-- R54's worked example: 1 + 2^-9 to BF16 with that draw rounds down, with IX. -/
theorem test_sr : roundTo .bf16 .sr 16514 (.fin false 513 512) = (0x3F80, flIX) := by decide +kernel

/-- R58's worked example: group 0 gives 16,777,218 and group 1 a tie that goes to 16,777,220. -/
theorem test_matrix_groups : let e := entOf 0xBBD0F000
    let one := (FVal.fin false 1 1, (0 : Flags))
    let big := (FVal.fin false (2 ^ 24) 1, (0 : Flags))
    let first := accStep e (0, 0) (sumTerms [big, one, one])
    floatOf .f32 first.1 = .fin false 16777218 1 ∧
      floatOf .f32 (accStep e first (sumTerms [one])).1 = .fin false 16777220 1 ∧ (accStep e first (sumTerms [one])).2 = flIX := by
  decide +kernel

/-- R129's worked example: the packed values that the masks with N = 4 take. -/
theorem test_matrix_masks : [0, 5, 7, 10, 1].map (packedAt 0x04A1 4) = [some 0, some 1, some 2, some 3, none] ∧
    [0, 2, 3, 9, 15].map (packedAt 0x820D 4) = [some 0, some 1, some 2, some 3, none] ∧ [8, 9, 10].map (packedAt 0x0300 4) = [some 0, some 1, none] := by
  decide +kernel

/-- The row of 32-bit lanes that the list gives. -/
def rowOf (l : List Nat) : Row := BitVec.ofNat 2048 (leNat (l.map fun n => leBytes n 4).flatten)

/-- A package with rows 6 and 7. -/
def boxRows (a b : List Nat) : State := boxCore [] { Core.reset with rows := [(6, rowOf a), (7, rowOf b)] }

/-- Lane 0 of a row in flight, with its cycles. -/
def lane0 (o : Host.Outcome State Fault Refusal) : List (Dest × Nat × Nat) := (flying o).map fun e => (e.1, e.2.1 % 2 ^ 32, e.2.2)

/-- R122's worked example: 1.0 / 1.5 at four iterations is 0.625, with latency 10. -/
theorem test_vcor_div : (lane0 (exec (.vcor .f32 .div 4 6 7 ⟨false, 1⟩)
    { boxRows [0x3F800000] [0x3FC00000] with ctxs := [(0, { ctxWith [] with kregs := [(1, 0xF)] })] })).take 1 = [(.row 6, 0x3F200000, 10)] := by
  decide +kernel

/-- R118's worked example: the scale code of the block is 0x36. -/
theorem test_vquant_scale : ((lane0 (exec (.vquantScale .f32 41 6 0 ⟨false, 1⟩)
    { boxRows [0x3E99999A, 0xBF99999A, 0x40200000, 0, 0x3D4CCCCD, 0x3F666666, 0xC019999A, 0x3F800000] [] with
      ctxs := [(0, { ctxWith [] with kregs := [(1, 0xFFFFFFFF)] })] })).map fun e => (e.1, e.2.1 % 256)) = [(.row 41, 0x36)] := by
  decide +kernel

/-- R149 and R150: a load of eight bytes, least significant first, with latency 5. -/
theorem test_ld : let s := { box [(6, addr (upad 0x40))] with mem := memPuts [] (upad 0x40) (leBytes 0x8877665544332211 8) }
    flying (exec (.ld .i64 10 at6) s) = [(.sreg 10, 0x8877665544332211, 5)] := by decide +kernel

/-- R150: a store's bytes are in memory when the cycle ends. -/
theorem test_st : let s := box [(6, addr (upad 0x40)), (10, 0x0201)]
    ask (exec (.st .i16 10 at6) s) (fun t => leNat (memBytes t.mem (upad 0x40) 3)) = 0x0201 := by decide +kernel

/-- R285's worked example: RI 5, one slot filled, one in flight, two permits home: the audit passes. -/
theorem test_audit : let s := boxMsg [] { Die.reset with chans := [(3, chanTx)], audit := { Audit.reset with st := 1, ch := 3, p := 0, got := [3, 4] } } (.back 3 5 1 1)
    ask (exec .auditBack s) (fun t => (t.die 0).audit.st) = 2 := by decide +kernel

/-- A word placed at the fetch runs as the first instruction after reset: R25's CMPLT, with its bundle 8 bytes long. -/
theorem test_withFetchWord : ask (step (State.reset.withFetchWord 32 0x38206380)) (fun t => (t.ctx 0).pc.toNat) = 8 ∧
    decodeTableWord 32 0x38206380 = some (.cmplt 4 3 7 g0) := by decide +kernel

end Sys2Proof.Tests
end

section
/-! # O58: the canonical form of memory

A canonical memory is settled by what it reads (`memory_ext`), so two ways to say what a memory is agree as soon as they read
alike; what a run of writes reads is `memGet_memPuts` of the laws of memory. -/

namespace Sys2Proof.Machine

theorem memGet_cons (b : Nat) (v : Byte) (m : List Host.Cell) (a : Nat) :
    memGet ((b, v) :: m) a = if a = b then v else memGet m a := rfl

/-- An address that is not listed reads zero. -/
theorem memGet_eq_zero {m : List Host.Cell} {a : Nat} (h : ∀ c ∈ m, c.1 ≠ a) : memGet m a = 0 := by
  induction m with
  | nil => rfl
  | cons e m ih =>
    obtain ⟨b, v⟩ := e
    rw [List.forall_mem_cons] at h
    rw [memGet_cons, if_neg (Ne.symm h.1), ih h.2]

/-- A canonical memory with a first byte: that byte is not zero, the others lie above it, and they are canonical. -/
theorem memory_wf_cons {b : Nat} {v : Byte} {m : List Host.Cell} (h : Memory.wf ((b, v) :: m) = true) :
    v ≠ 0 ∧ (∀ c ∈ m, b < c.1) ∧ Memory.wf m = true := by
  rw [memory_wf_iff, List.pairwise_cons, List.forall_mem_cons] at h
  exact ⟨h.2.1, h.1.1, (memory_wf_iff m).2 ⟨h.1.2, h.2.2⟩⟩

/-- Below its first address a canonical memory reads zero. -/
theorem memGet_below {b : Nat} {v : Byte} {m : List Host.Cell} (h : Memory.wf ((b, v) :: m) = true) {a : Nat} (ha : a < b) :
    memGet ((b, v) :: m) a = 0 := by
  obtain ⟨-, hm, -⟩ := memory_wf_cons h
  refine memGet_eq_zero fun c hc => ?_
  rcases List.mem_cons.1 hc with rfl | hc
  · exact Nat.ne_of_gt ha
  · exact Nat.ne_of_gt (Nat.lt_trans ha (hm c hc))

/-- Of two canonical memories that read alike neither begins below the other. -/
theorem first_le_of_reads {b c : Nat} {v w : Byte} {m n : List Host.Cell} (hm : Memory.wf ((b, v) :: m) = true)
    (hn : Memory.wf ((c, w) :: n) = true) (h : ∀ a, memGet ((b, v) :: m) a = memGet ((c, w) :: n) a) : c ≤ b := by
  refine Nat.le_of_not_lt fun hlt => ?_
  have hz := h b
  rw [memGet_below hn hlt, memGet_cons, if_pos rfl] at hz
  exact (memory_wf_cons hm).1 hz

/-- Canonical memories that read alike are equal. -/
theorem memory_ext {m n : List Host.Cell} (hm : Memory.wf m = true) (hn : Memory.wf n = true)
    (h : ∀ a, memGet m a = memGet n a) : m = n := by
  induction m generalizing n with
  | nil =>
    cases n with
    | nil => rfl
    | cons e n =>
      obtain ⟨c, w⟩ := e
      have hc := h c
      rw [memGet_cons, if_pos rfl] at hc
      exact absurd hc.symm (memory_wf_cons hn).1
  | cons d m ih =>
    obtain ⟨b, v⟩ := d
    cases n with
    | nil =>
      have hb := h b
      rw [memGet_cons, if_pos rfl] at hb
      exact absurd hb (memory_wf_cons hm).1
    | cons e n =>
      obtain ⟨c, w⟩ := e
      obtain rfl : b = c := Nat.le_antisymm (first_le_of_reads hn hm fun a => (h a).symm) (first_le_of_reads hm hn h)
      obtain ⟨-, hbm, hm'⟩ := memory_wf_cons hm
      obtain ⟨-, hbn, hn'⟩ := memory_wf_cons hn
      have hvw : v = w := by simpa [memGet_cons] using h b
      have htail : ∀ a, memGet m a = memGet n a := by
        intro a
        by_cases ha : a = b
        · subst ha
          rw [memGet_eq_zero fun c hc => Nat.ne_of_gt (hbm c hc), memGet_eq_zero fun c hc => Nat.ne_of_gt (hbn c hc)]
        · simpa [memGet_cons, ha] using h a
      rw [hvw, ih hm' hn' htail]

theorem memBytes_length (m : List Host.Cell) (a k : Nat) : (memBytes m a k).length = k := by
  induction k generalizing a with
  | zero => rfl
  | succ k ih => simp [memBytes, ih]

theorem memBytes_getElem (m : List Host.Cell) (a k i : Nat) (h : i < (memBytes m a k).length) :
    (memBytes m a k)[i] = memGet m (a + i) := by
  induction k generalizing a i with
  | zero => exact absurd h (Nat.not_lt_zero i)
  | succ k ih =>
    cases i with
    | zero => rfl
    | succ i => simp only [memBytes, List.getElem_cons_succ, ih, Nat.add_assoc, Nat.add_comm 1 i]

/-- What is read and written back changes nothing. -/
theorem memPuts_memBytes {m : List Host.Cell} (h : Memory.wf m = true) (a k : Nat) : memPuts m a (memBytes m a k) = m := by
  refine memory_ext (memPuts_wf a _ h) h fun x => ?_
  rw [memGet_memPuts]
  split
  · rename_i hx
    obtain ⟨i, rfl⟩ := Nat.exists_eq_add_of_le hx.1
    have hi : i < (memBytes m a k).length := by omega
    rw [Nat.add_sub_cancel_left, ← List.getElem_eq_getD (h := hi) 0, memBytes_getElem]
  · rfl

/-- A write of bytes is read back at its own addresses. -/
theorem memBytes_memPuts (m : List Host.Cell) (a : Nat) (l : List Byte) : memBytes (memPuts m a l) a l.length = l := by
  refine List.ext_getElem (memBytes_length _ _ _) fun i h1 h2 => ?_
  rw [memBytes_getElem, memGet_memPuts, if_pos ⟨Nat.le_add_right a i, Nat.add_lt_add_left h2 a⟩, Nat.add_sub_cancel_left,
    ← List.getElem_eq_getD 0]

/-- Outside a write of bytes memory reads as before. -/
theorem memGet_memPuts_outside (m : List Host.Cell) (a : Nat) (l : List Byte) (p : Nat) (h : p < a ∨ a + l.length ≤ p) :
    memGet (memPuts m a l) p = memGet m p := by
  rw [memGet_memPuts, if_neg (by omega)]

/-- Settles O58: a canonical memory is settled by what it reads, and what a write reads is known byte by byte. -/
theorem memoryCanonical : Obligations.MemoryCanonical := by
  unfold Obligations.MemoryCanonical
  intro m n hm
  exact ⟨fun hn h => memory_ext hm hn h, memPuts_memBytes hm, memBytes_memPuts m, memGet_memPuts_outside m⟩

end Sys2Proof.Machine
end

section
/-! # O57: what keeps memory canonical

`State.MemWf` looks at two fields. A record update of other fields keeps it by definition, so the rules below are of two kinds:
one for each operation that writes memory or has branches, and one for each shape in which operations are put together. Each
says that what the operation makes of a state with canonical memories has canonical memories. -/

namespace Sys2Proof.Machine.State.MemWf

variable {s : State}

/-! ## The shapes -/

theorem ite {c : Prop} [Decidable c] {a b : State} (ha : a.MemWf) (hb : b.MemWf) : (if c then a else b).MemWf := by
  split
  · exact ha
  · exact hb

theorem foldl {α : Type} {f : State → α → State} {l : List α} (h : s.MemWf)
    (hf : ∀ (t : State) (x : α), t.MemWf → (f t x).MemWf) : (l.foldl f s).MemWf := by
  induction l generalizing s with
  | nil => exact h
  | cons x l ih => exact ih (hf s x h)

theorem getD {o : Option State} (h : s.MemWf) (ho : ∀ t, o = some t → t.MemWf) : (o.getD s).MemWf := by
  cases o with
  | none => exact h
  | some t => exact ho t rfl

/-! ## Operations on other fields -/

theorem setCtx {k c} (h : s.MemWf) : (s.setCtx k c).MemWf := h

theorem modCtx {k f} (h : s.MemWf) : (s.modCtx k f).MemWf := h

theorem modMe {f} (h : s.MemWf) : (s.modMe f).MemWf := h

theorem setCore {n c} (h : s.MemWf) : (s.setCore n c).MemWf := h

theorem modCore {n f} (h : s.MemWf) : (s.modCore n f).MemWf := h

theorem setDie {n d} (h : s.MemWf) : (s.setDie n d).MemWf := h

theorem modDie {n f} (h : s.MemWf) : (s.modDie n f).MemWf := h

theorem setReg {die copy block off v} (h : s.MemWf) : (s.setReg die copy block off v).MemWf := h

theorem setDreg {die block off v} (h : s.MemWf) : (s.setDreg die block off v).MemWf := h

theorem setRec {die idx r} (h : s.MemWf) : (s.setRec die idx r).MemWf := h

theorem send {src dst b} (h : s.MemWf) : (s.send src dst b).MemWf := h

theorem push {k r} (h : s.MemWf) : (s.push k r).MemWf := h

theorem pushS {d v l src} (h : s.MemWf) : (s.pushS d v l src).MemWf := h

theorem takeBanks {who bs} (h : s.MemWf) : (s.takeBanks who bs).MemWf := h

theorem checkAt {die who l} (h : s.MemWf) : (s.checkAt die who l).MemWf := h

theorem later {u} (h : s.MemWf) : (s.later u).MemWf := h

theorem freeCtx {k} (h : s.MemWf) : (s.freeCtx k).MemWf := h

theorem setCmd {core q x} (h : s.MemWf) : (s.setCmd core q x).MemWf := h

theorem makeReady {die idx} (h : s.MemWf) : (s.makeReady die idx).MemWf := h

theorem setMat {die i m} (h : s.MemWf) : (s.setMat die i m).MemWf := h

theorem setMigr {die m} (h : s.MemWf) : (s.setMigr die m).MemWf := h

theorem takeView {die i vd region lo hi} (h : s.MemWf) : (s.takeView die i vd region lo hi).MemWf := h

theorem setRegion {die i r} (h : s.MemWf) : (s.setRegion die i r).MemWf := h

theorem setWin {die n w} (h : s.MemWf) : (s.setWin die n w).MemWf := h

theorem setOutst {die o} (h : s.MemWf) : (s.setOutst die o).MemWf := h

theorem setRem {core x} (h : s.MemWf) : (s.setRem core x).MemWf := h

theorem setReq {n r} (h : s.MemWf) : (s.setReq n r).MemWf := h

theorem setRun {die r} (h : s.MemWf) : (s.setRun die r).MemWf := h

theorem setChan {die n c} (h : s.MemWf) : (s.setChan die n c).MemWf := h

theorem taken {n} (h : s.MemWf) : (s.taken n).MemWf := h

theorem beaten {core q} (h : s.MemWf) : (s.beaten core q).MemWf := h

theorem tlbFill {die vd lvl va pte e} (h : s.MemWf) : (s.tlbFill die vd lvl va pte e).MemWf := h

theorem portCheck {die chunk} (h : s.MemWf) : (s.portCheck die chunk).MemWf := h

theorem dropBeats {die ids} (h : s.MemWf) : (s.dropBeats die ids).MemWf := h

/-! ## Writing memory -/

theorem write {a l} (h : s.MemWf) : (s.write a l).MemWf := write_memWf a l h

theorem writeNat {a n v} (h : s.MemWf) : (s.writeNat a n v).MemWf := .write h

theorem zeroBytes {a n} (h : s.MemWf) : (s.zeroBytes a n).MemWf := ⟨filter_wf _ h.1, h.2⟩

theorem zeroPad {a n} (h : s.MemWf) : (s.zeroPad a n).MemWf := .zeroBytes h

/-! ## Faults, kills and traps -/

theorem fqWrite {die r} (h : s.MemWf) : (s.fqWrite die r).MemWf := write h

theorem fatal {die r} (h : s.MemWf) : (s.fatal die r).MemWf := .ite (.fqWrite h) h

theorem nonFatal {die r} (h : s.MemWf) : (s.nonFatal die r).MemWf := .ite (.fqWrite h) h

theorem kill {k reason} (h : s.MemWf) : (s.kill k reason).MemWf := by
  simp only [State.kill]
  split <;> exact h

theorem killAll {reason l} (h : s.MemWf) : (s.killAll reason l).MemWf := .foldl h fun _ _ h => .kill h

theorem trapEntry {k pc t} (h : s.MemWf) : (s.trapEntry k pc t).MemWf := .ite (.kill h) h

theorem trap {t} (h : s.MemWf) : (s.trap t).MemWf := trapEntry h

theorem tableNode {die vd off} (h : s.MemWf) : (s.tableNode die vd off).MemWf := .ite h (.fatal (killAll h))

theorem pageFault {die what rcd} (h : s.MemWf) : (s.pageFault die what rcd).2.MemWf := .nonFatal h

/-! ## Results -/

theorem signalAccept {y} (h : s.MemWf) : (s.signalAccept y).MemWf := .ite h h

theorem signalBoth {y} (h : s.MemWf) : (s.signalBoth y).MemWf := .ite h h

theorem accept {hnd} (h : s.MemWf) : (s.accept hnd).MemWf := by
  unfold State.accept
  split <;> exact h

theorem specWrite {k n v} (h : s.MemWf) : (s.specWrite k n v).MemWf := by
  unfold State.specWrite
  split <;> exact h

theorem writeResult {k r} (h : s.MemWf) : (s.writeResult k r).MemWf := by
  unfold State.writeResult
  obtain ⟨dest, val, mask, flags, left, src, acq⟩ := r
  cases dest with
  | special n => exact specWrite h
  | _ => exact h

theorem writeResults {k l} (h : s.MemWf) : (s.writeResults k l).MemWf := .foldl h fun _ _ h => .writeResult h

theorem writeback {k} (h : s.MemWf) : (s.writeback k).MemWf := .writeResults h

theorem landRows {k} (h : s.MemWf) : (s.landRows k).MemWf := .writeResults h

/-! ## The accesses of vector and pad operations -/

theorem voPerform {v : VOp} {sl rd k id} (h : s.MemWf) : (v.perform sl rd k id s).MemWf := by
  unfold VOp.perform
  split <;> exact h

theorem storeLine {t a lo j row l} (h : s.MemWf) : (storeLine t a lo j row l s).MemWf :=
  .ite (.writeNat h) (.foldl h fun _ _ h => .writeNat h)

theorem storeRow {t d x lo n rd k now} (h : s.MemWf) : (storeRow t d x lo n rd k now s).MemWf :=
  .foldl h fun _ _ h => .ite (.storeLine h) h

/-! ## Translation and the accesses of engines and ports -/

theorem setPteBit {die pte bit} (h : s.MemWf) : (s.setPteBit die pte bit).MemWf := .ite h (.writeNat h)

theorem touch {die x wr} (h : s.MemWf) : (s.touch die x wr).MemWf := by
  have h1 : (if leafA x.leaf then s else s.setPteBit die x.pte 6).MemWf := .ite h (.setPteBit h)
  exact ite (.setPteBit h1) h1

theorem translate {die vd va acc who} (h : s.MemWf) : (s.translate die vd va acc who).2.MemWf := by
  simp only [State.translate]
  split
  · split
    · exact h
    · split
      · exact h
      · exact .touch (by split <;> exact h)
  · split
    · exact h
    · split
      · exact h
      · split
        · split <;> exact h
        · split <;> exact h
        · split
          · split <;> exact h
          · exact .touch (by split <;> exact h)

theorem locate {die vd a acc who} (h : s.MemWf) : (s.locate die vd a acc who).2.MemWf := by
  unfold State.locate
  split
  · exact .translate h
  · exact h
  · exact h

theorem countBeat {die rci} (h : s.MemWf) : (s.countBeat die rci).MemWf := by
  unfold State.countBeat
  split <;> exact h

theorem aread1 {die vd a n acc who cnt} (h : s.MemWf) : (s.aread1 die vd a n acc who cnt).2.MemWf := by
  simp only [State.aread1]
  have hl : (s.locate die vd a acc who).2.MemWf := .locate h
  split
  · exact .ite (.countBeat hl) hl
  all_goals exact hl

theorem aread {die vd a n acc who} (h : s.MemWf) : (s.aread die vd a n acc who).2.MemWf := by
  simp only [State.aread]
  split
  · exact .aread1 h
  · split
    · split <;> exact .aread1 (.aread1 h)
    · exact .aread1 h

theorem awrite1 {die vd a l acc who cnt} (h : s.MemWf) : (s.awrite1 die vd a l acc who cnt).2.MemWf := by
  simp only [State.awrite1]
  have hl : (s.locate die vd a acc who).2.MemWf := .locate h
  split
  · exact .ite (.countBeat (.write hl)) (.write hl)
  · exact .write hl
  all_goals exact hl

theorem awrite {die vd a l acc who} (h : s.MemWf) : (s.awrite die vd a l acc who).2.MemWf := by
  simp only [State.awrite]
  split
  · exact .awrite1 h
  · split
    · exact .awrite1 (.awrite1 h)
    · exact .awrite1 h

theorem checkOf {die who key n} (h : s.MemWf) : (s.checkOf die who key n).MemWf := by
  unfold State.checkOf
  split <;> exact h

theorem areadAll {die vd acc who ps} (h : s.MemWf) : (s.areadAll die vd acc who ps).2.MemWf := by
  induction ps generalizing s with
  | nil => exact h
  | cons p ps ih =>
    simp only [State.areadAll]
    split
    · split <;> exact ih (.checkOf (.aread h))
    · exact .aread h

theorem areadN {die vd a n acc who} (h : s.MemWf) : (s.areadN die vd a n acc who).2.MemWf := .areadAll h

theorem awriteAll {die vd acc who l ps} (h : s.MemWf) : (s.awriteAll die vd acc who l ps).2.MemWf := by
  induction ps generalizing s l with
  | nil => exact h
  | cons p ps ih =>
    simp only [State.awriteAll]
    split
    · exact ih (.awrite h)
    · exact .awrite h

theorem awriteN {die vd a l acc who} (h : s.MemWf) : (s.awriteN die vd a l acc who).2.MemWf := .awriteAll h

theorem telemetry {die r} (h : s.MemWf) : (s.telemetry die r).MemWf := .ite h (write h)

end Sys2Proof.Machine.State.MemWf
end

section
/-! # O57: records, barriers, tasks, hulls and tiers -/

namespace Sys2Proof.Machine

/-- What a change of a saved image leaves, made or still to be made, has canonical memories. -/
def Patch.MemWf : Patch → Prop
  | .made _ t => t.MemWf
  | .open_ t => t.MemWf

end Sys2Proof.Machine

namespace Sys2Proof.Machine.State.MemWf

variable {s : State}

/-! ## Jobs, records and completions -/

theorem jobEnsure {die vd num} (h : s.MemWf) : (s.jobEnsure die vd num).MemWf := .ite h (ite h h)

theorem partAdd {die vd num n} (h : s.MemWf) : (s.partAdd die vd num n).MemWf := jobEnsure h

theorem discAdd {die vd num} (h : s.MemWf) : (s.discAdd die vd num).MemWf := jobEnsure h

theorem decr {t n} (h : s.MemWf) : (s.decr t n).MemWf := by
  have h2 : (if (s.trec (taskDie t) (taskIdx t)).dep < n then s.depDrop (taskDie t) else s).MemWf := .ite h h
  exact ite h (ite h2 h2)

theorem imagePatch {die vd a n f} (h : s.MemWf) : (s.imagePatch die vd a n f).MemWf := by
  simp only [State.imagePatch]
  split
  · split
    · exact awriteN (.areadN h)
    · exact tableNode h
    · exact h
  · exact tableNode h
  · exact h

theorem of_made {die vd a n f l t} (e : s.imagePatch die vd a n f = .made l t) (h : s.MemWf) : t.MemWf := by
  have hp : (s.imagePatch die vd a n f).MemWf := imagePatch h
  rwa [e] at hp

theorem of_open {die vd a n f t} (e : s.imagePatch die vd a n f = .open_ t) (h : s.MemWf) : t.MemWf := by
  have hp : (s.imagePatch die vd a n f).MemWf := imagePatch h
  rwa [e] at hp

theorem count {d dl dr bytes err} (h : s.MemWf) : (s.count d dl dr bytes err).MemWf := .ite h h

theorem counted {u} (h : s.MemWf) : (s.counted u).MemWf := by
  simp only [State.counted]
  split
  · exact h
  · split
    · exact h
    · split
      · next e => exact of_made e h
      · next e => exact .later (of_open e h)
    · exact .ite (.ite (.decr h) h) h
    · exact h

theorem sigDone {d} (h : s.MemWf) : (s.sigDone d).MemWf := by
  simp only [State.sigDone]
  split
  · exact h
  · split
    · exact h
    · split
      · next e => exact .later (of_open e h)
      · next e => exact .ite (.nonFatal (of_made e h)) (of_made e h)
    · exact h

theorem countsEnd (h : s.MemWf) : s.countsEnd.MemWf :=
  foldl (s := { s with counts := [] }) h fun _ _ h => .ite (.sigDone h) (.counted h)

theorem finish {d bytes err} (h : s.MemWf) : (s.finish d bytes err).MemWf := .sigDone (.count h)

/-! ## Barriers -/

theorem setBar {a b} (h : s.MemWf) : (s.setBar a b).MemWf := .write h

theorem releaseArmed {die l} (h : s.MemWf) : (s.releaseArmed die l).MemWf := .foldl h fun _ _ h => decr h

theorem relink {die l} (h : s.MemWf) : (s.relink die l).MemWf := by
  induction l generalizing s with
  | nil => exact h
  | cons i l ih =>
    cases l with
    | nil => exact h
    | cons j l =>
      simp only [State.relink]
      exact ih (.setRec h)

theorem unarm {die i} (h : s.MemWf) : (s.unarm die i).MemWf := by
  simp only [State.unarm]
  split
  · exact h
  · exact .setBar (.relink h)

theorem endRec {die idx} (h : s.MemWf) : (s.endRec die idx).MemWf := unarm h

theorem discard {die idx} (h : s.MemWf) : (s.discard die idx).MemWf := .discAdd (.partAdd (.endRec h))

theorem barPhase {a b} (h : s.MemWf) : (s.barPhase a b).MemWf := .releaseArmed (.setBar h)

theorem barCheck {a} (h : s.MemWf) : (s.barCheck a).MemWf := .ite (.ite (barPhase h) (.barPhase h)) h

theorem autoPhase {a} (h : s.MemWf) : (s.autoPhase a).MemWf := .ite (.ite (.barPhase h) h) h

theorem arrivals {a n} (h : s.MemWf) : (s.arrivals a n).MemWf := by
  induction n generalizing s with
  | zero => exact h
  | succ n ih =>
    simp only [State.arrivals]
    have h1 : (s.setBar a (s.bar a).arrive).MemWf := .setBar h
    exact ih (.ite (.barPhase (.ite (.barPhase h1) h1)) (.ite (.barPhase h1) h1))

theorem barUpdate {u} (h : s.MemWf) : (s.barUpdate u).MemWf := by
  simp only [State.barUpdate]
  have ha : ((s.checkAt (keyDie u.key) u.src [(u.key, 32)]).autoPhase u.key).MemWf := .autoPhase h
  split
  · exact .write (.releaseArmed ha)
  · exact .ite (.barCheck ha) (.arrivals ha)
  · exact .barCheck (.setBar ha)
  · exact .barCheck (.ite ha (.ite (.decr ha) (.setBar ha)))

theorem barFlush {die a k id} (h : s.MemWf) : (s.barFlush die a k id).MemWf := by
  simp only [State.barFlush]
  split
  · exact h
  · exact .foldl h fun _ _ h => .barUpdate h

theorem barBytes {a n} (h : s.MemWf) : (s.barBytes a n).MemWf := by
  simp only [State.barBytes]
  exact .barCheck (.setBar (.autoPhase h))

theorem stepBarrierUpdate {die n} (h : s.MemWf) : (Machine.stepBarrierUpdate die n s).MemWf := by
  simp only [Machine.stepBarrierUpdate]
  split
  · split
    · exact h
    · exact .barUpdate h
  · exact h

theorem stepBarrierAutoPhase {die a} (h : s.MemWf) : (Machine.stepBarrierAutoPhase die a s).MemWf := .ite (.barPhase h) h

/-! ## Semaphores -/

theorem semEnd {core l n} (h : s.MemWf) : (s.semEnd core l n).MemWf := .ite h (.nonFatal h)

theorem semsEnd {core} (h : s.MemWf) : (s.semsEnd core).MemWf := .foldl h fun _ _ h => .semEnd h

/-! ## Tasks -/

theorem of_acceptTask {die vd l extra r} (e : s.acceptTask die vd l extra = some r) (h : s.MemWf) : r.2.MemWf := by
  unfold State.acceptTask at e
  split at e
  · cases e
  · obtain rfl := Option.some.inj e
    exact .ite (.makeReady (partAdd h)) (partAdd h)

theorem signalOf {k late y} (h : s.MemWf) : (s.signalOf k late y).MemWf := .ite h h

theorem spawnFail {k c job code late y} (h : s.MemWf) : (s.spawnFail k c job code late y).MemWf :=
  .signalOf (ite (.discAdd h) h)

theorem spawnRun {remote c b y rd k l} (h : s.MemWf) : (Machine.spawnRun remote c b y rd k l s).MemWf := by
  simp only [Machine.spawnRun]
  split
  · exact .spawnFail h
  · split
    · exact .push (.ite (.send (.modDie (.partAdd h))) (.signalOf (.send (.modDie (.partAdd h)))))
    · split
      · exact h
      · next e => exact signalOf (of_acceptTask e h)

theorem stepRemoteSpawnArrival {n} (h : s.MemWf) : (Machine.stepRemoteSpawnArrival n s).MemWf := by
  simp only [Machine.stepRemoteSpawnArrival]
  split
  · split
    · exact h
    · split
      · exact h
      · next e =>
        have h1 := of_acceptTask e h
        exact ite (.discard h1) h1
  · exact h

theorem stepSpawnAckArrival {n} (h : s.MemWf) : (Machine.stepSpawnAckArrival n s).MemWf := by
  simp only [Machine.stepSpawnAckArrival]
  split
  · split
    · exact h
    · exact .sigDone (.modDie (.partAdd h))
  · exact h

theorem stepTdepArrival {n} (h : s.MemWf) : (Machine.stepTdepArrival n s).MemWf := by
  unfold Machine.stepTdepArrival
  split
  · exact .decr h
  · exact h

theorem suspend {k u} (h : s.MemWf) : (s.suspend k u).MemWf :=
  .ite (.ite (.decr h) h) (.ite h (.decr h))

theorem leave {k} (h : s.MemWf) : (s.leave k).MemWf := by
  simp only [State.leave]
  split
  · exact .freeCtx (.partAdd (.endRec h))
  · exact .suspend h
  · exact h

theorem matFire {act} (h : s.MemWf) : (s.matFire act).MemWf := by
  unfold State.matFire
  split
  · exact .decr h
  · exact h

theorem matCount {die win tag n} (h : s.MemWf) : (s.matCount die win tag n).MemWf :=
  .ite h (.foldl h fun _ _ h => .ite (.matFire h) h)

theorem stepCancelArrival {n} (h : s.MemWf) : (Machine.stepCancelArrival n s).MemWf := by
  simp only [Machine.stepCancelArrival]
  split
  · exact .ite h (.foldl (jobEnsure h) fun _ _ h => .discard h)
  · exact h

theorem stepJobJoinNotice {n} (h : s.MemWf) : (Machine.stepJobJoinNotice n s).MemWf := by
  simp only [Machine.stepJobJoinNotice]
  split
  · exact .ite h (jobEnsure h)
  · exact h

theorem wave {die job} (h : s.MemWf) : (s.wave die job).MemWf := by
  simp only [State.wave]
  split
  · exact h
  · exact .ite (.foldl h fun _ _ h => h) h

theorem joinsIn {die job n} (h : s.MemWf) : (s.joinsIn die job n).MemWf := by
  induction n generalizing s with
  | zero => exact h
  | succ n ih =>
    simp only [State.joinsIn]
    split
    · exact ih (.stepJobJoinNotice h)
    · exact h

theorem stepJobWave {die job asked} (h : s.MemWf) : (Machine.stepJobWave die job asked s).MemWf :=
  .ite h (wave (joinsIn h))

theorem stepJobDoneNotice {n} (h : s.MemWf) : (Machine.stepJobDoneNotice n s).MemWf := by
  unfold Machine.stepJobDoneNotice
  split <;> exact h

theorem stepTjobqAnswer {n} (h : s.MemWf) : (Machine.stepTjobqAnswer n s).MemWf := by
  unfold Machine.stepTjobqAnswer
  split <;> exact h

theorem stepTaskDispatch {die idx core ctx} (h : s.MemWf) : (Machine.stepTaskDispatch die idx core ctx s).MemWf := by
  simp only [Machine.stepTaskDispatch]
  split
  · split <;> exact h
  · exact h

theorem stepTaskPriorityRise {die idx} (h : s.MemWf) : (Machine.stepTaskPriorityRise die idx s).MemWf := .ite h h

theorem reserve {die} (h : s.MemWf) : (s.reserve die).MemWf := .ite h h

/-! ## Hulls -/

theorem endRegion {die r} (h : s.MemWf) : (s.endRegion die r).MemWf := .ite h h

theorem freeGranule {die r g} (h : s.MemWf) : (s.freeGranule die r g).MemWf := by
  simp only [State.freeGranule]
  split
  · exact .tableNode h
  · exact .endRegion (writeNat h)

theorem freeIfDone {die r g} (h : s.MemWf) : (s.freeIfDone die r g).MemWf := .ite (.freeGranule h) h

theorem coverBy {die r up g} (h : s.MemWf) : (s.coverBy die r up g).MemWf := .freeIfDone h

theorem stepChordDeltaApply {die} (h : s.MemWf) : (Machine.stepChordDeltaApply die s).MemWf := by
  simp only [Machine.stepChordDeltaApply]
  split
  · exact h
  · exact .endRegion (.foldl h fun _ _ h => .coverBy h)

theorem pin {die l} (h : s.MemWf) : (s.pin die l).MemWf := .foldl h fun _ _ h => h

theorem unpin {die l} (h : s.MemWf) : (s.unpin die l).MemWf := .foldl h fun _ _ h => .freeIfDone h

theorem hullPage {die vd va} (h : s.MemWf) : (s.hullPage die vd va).MemWf := by
  simp only [State.hullPage]
  split
  · exact .writeNat (.zeroPad h)
  · exact h

theorem of_pickView {die r} (e : s.pickView die = some r) (h : s.MemWf) : r.2.MemWf := by
  unfold State.pickView at e
  split at e
  · cases e
  · obtain rfl := Option.some.inj e
    exact h

theorem hullNew {die vd va r n c} (h : s.MemWf) : (s.hullNew die vd va r n c).MemWf := by
  unfold State.hullNew
  extract_lets s0 s1 s2
  have h2 : s2.MemWf := .setRegion (.foldl (checkAt h) fun _ _ h => .hullPage h)
  split
  · exact h2
  · next e => exact .pushS (.takeView (of_pickView e h2))

/-! ## Tiers -/

theorem poolCheck {die} (h : s.MemWf) : (s.poolCheck die).MemWf := .ite (.nonFatal h) h

theorem stepFrpush {die v} (h : s.MemWf) : (Machine.stepFrpush die v s).MemWf := .ite (.poolCheck h) h

theorem stepTrgWrite {die vd lim v} (h : s.MemWf) : (Machine.stepTrgWrite die vd lim v s).MemWf := .poolCheck h

theorem of_move {die p tier t} (e : s.move die p tier = some t) (h : s.MemWf) : t.MemWf := by
  simp only [State.move] at e
  split at e
  · cases e
  · obtain rfl := Option.some.inj e
    exact .poolCheck (writeNat ⟨memMove_wf _ _ _ h.1, h.2⟩)

theorem demote {die} (h : s.MemWf) : (s.demote die).MemWf := by
  unfold State.demote
  split
  · exact h
  · next p _ _ =>
    exact .getD h fun _ e => of_move e h

theorem migrPage {die m} (h : s.MemWf) : (s.migrPage die m).MemWf := by
  simp only [State.migrPage]
  split
  · exact .tableNode h
  · exact h
  · split
    · exact h
    · split
      · exact h
      · split
        · exact h
        · next e => exact .setMigr (of_move e h)

theorem migrEnd {die m} (h : s.MemWf) : (s.migrEnd die m).MemWf := .finish (write h)

theorem stepMigrationMove {die auto} (h : s.MemWf) : (Machine.stepMigrationMove die auto s).MemWf := by
  simp only [Machine.stepMigrationMove]
  split
  · exact .demote h
  · split
    · exact h
    · exact .ite h (.ite (.migrEnd h) (.migrPage h))

theorem clearD {die p} (h : s.MemWf) : (s.clearD die p).MemWf := writeNat h

theorem dirtyRun {a b c keep} (h : s.MemWf) : (Machine.dirtyRun a b c keep s).MemWf := by
  simp only [Machine.dirtyRun]
  split
  · exact .tableNode h
  · exact .ite (.writeNat h) (.foldl (.writeNat h) fun _ _ h => .clearD h)

theorem stepRcntDecay {die} (h : s.MemWf) : (Machine.stepRcntDecay die s).MemWf :=
  .foldl h fun _ _ h => .ite h h

end Sys2Proof.Machine.State.MemWf
end

section
/-! # O57: copies, windows, reductions, remote requests, channels and the Apex engine -/

namespace Sys2Proof.Machine

/-- The state that an engine's step ends in, if any, has canonical memories. -/
def Eng.MemWf : Eng → Prop
  | .ok t => t.MemWf
  | .absent _ => True

/-- The state that a piece of a request leaves has canonical memories. -/
def Piece.MemWf : Piece → Prop
  | .ok t _ => t.MemWf
  | .err t _ => t.MemWf
  | .wait t => t.MemWf

end Sys2Proof.Machine

namespace Sys2Proof.Machine.State.MemWf

variable {s : State}

/-! ## Copies -/

theorem holdCmd {core q x c acc a} (h : s.MemWf) : (s.holdCmd core q x c acc a).MemWf := .setCmd (.pageFault h)

theorem endCmd {core x bytes err} (h : s.MemWf) : (s.endCmd core x bytes err).MemWf := .finish (.unpin h)

theorem deadCmd {core q x} (h : s.MemWf) : (s.deadCmd core q x).MemWf := .ite h (.endCmd h)

theorem pageToken {core k vd task c a} (h : s.MemWf) : (s.pageToken core k vd task c a).2.MemWf := by
  simp only [State.pageToken]
  split
  · exact h
  · exact .pageFault h

theorem of_logBeat {core q id row k vd task c a l t} (e : s.logBeat core q id row k vd task c a l = some t) (h : s.MemWf) :
    t.MemWf := by
  simp only [State.logBeat] at e
  split at e
  · obtain rfl := Option.some.inj e
    exact h
  · split at e
    · obtain rfl := Option.some.inj e
      exact .modCore (.pageToken h)
    · cases e

theorem regPut {die vd a l} (h : s.MemWf) : (s.regPut die vd a l).MemWf := .ite h (.ite h h)

theorem engRead {die vd a n acc d cnt} (h : s.MemWf) : (s.engRead die vd a n acc d cnt).2.MemWf := by
  simp only [State.engRead]
  split
  · exact h
  · split
    · exact .checkAt (.aread1 h)
    · exact .aread1 h

theorem engWrite {die vd a l d cnt} (h : s.MemWf) : (s.engWrite die vd a l d cnt).2.MemWf := by
  unfold State.engWrite
  split
  · exact .regPut h
  · exact .awrite1 h

theorem barTake {core d id bar n} (h : s.MemWf) : (s.barTake core d id bar n).MemWf :=
  .ite h (.barBytes (.barFlush h))

theorem readIdx {core q x} (h : s.MemWf) : (s.readIdx core q x).MemWf := by
  simp only [State.readIdx]
  split
  · exact h
  · split
    · exact setCmd (engRead h)
    · exact holdCmd (engRead h)
    · exact tableNode (engRead h)
    · exact deadCmd (engRead h)
    · trivial
    · exact engRead h

theorem readChunk {core q x} (h : s.MemWf) : (s.readChunk core q x).MemWf := by
  simp only [State.readChunk]
  split
  · exact h
  · exact setCmd h
  · exact setCmd h
  · split
    · exact h
    · split
      · exact setCmd (takeBanks (engRead h))
      · exact ite h (holdCmd (engRead h))
      · exact tableNode (engRead h)
      · exact deadCmd (engRead h)
      · trivial
      · exact engRead h

theorem camoStep {core q x op t} (h : s.MemWf) : (s.camoStep core q x op t).MemWf := by
  simp only [State.camoStep]
  split
  · exact setCmd (write (engRead h))
  · exact holdCmd (engRead h)
  · exact tableNode (engRead h)
  · exact deadCmd (engRead h)
  · trivial
  · exact engRead h

theorem readStep {core q x} (h : s.MemWf) : (s.readStep core q x).MemWf := by
  simp only [State.readStep]
  split
  · exact h
  · split
    · exact readIdx h
    · split
      · exact h
      · split
        · exact camoStep h
        · exact readChunk h

/-- The writes of one beat to its destinations, which stop at the first that is not done. -/
theorem engWrites {die vd l d} {cnt : Word → Bool} {dst : List Word} {r : WriteRes} (h : s.MemWf) :
    (dst.foldl (fun t w => match t.1 with
      | .done => t.2.engWrite die vd w l d (cnt w)
      | _ => t) (r, s)).2.MemWf := by
  induction dst generalizing s r with
  | nil => exact h
  | cons w dst ih =>
    rw [List.foldl_cons]
    cases r with
    | done => exact ih (.engWrite h)
    | _ => exact ih h

theorem writeStep {core q x} (h : s.MemWf) : (s.writeStep core q x).MemWf := by
  simp only [State.writeStep]
  split
  · exact h
  · split
    · exact barTake (setCmd h)
    · split
      · exact h
      · split
        · exact h
        · split
          · exact barTake (setCmd (engWrites h))
          · split
            · next e => exact setCmd (of_logBeat e (engWrites h))
            · exact h
          · exact tableNode (engWrites h)
          · exact deadCmd (engWrites h)
          · trivial
          · exact engWrites h

theorem readSteps {core q n} (h : s.MemWf) : (s.readSteps core q n).MemWf := by
  induction n generalizing s with
  | zero => exact h
  | succ n ih =>
    simp only [State.readSteps]
    split
    · exact h
    · split
      · exact h
      · next x _ _ =>
        have hr : (s.readStep core q x).MemWf := readStep h
        split
        · next e =>
          rw [e] at hr
          exact ih hr
        · exact hr

theorem copyWork {core q n} (h : s.MemWf) : (s.copyWork core q n).MemWf := by
  simp only [State.copyWork]
  have hr : (s.readSteps core q n).MemWf := readSteps h
  split
  · trivial
  · next s1 e =>
    replace hr : s1.MemWf := by rwa [e] at hr
    split
    · exact hr
    · next x _ =>
      have hw : (s1.writeStep core q x).MemWf := writeStep hr
      split
      · exact hw
      · split
        · split
          · trivial
          · next e =>
            rw [e] at hw
            exact beaten hw
        · exact hr

theorem joins {core n} (h : s.MemWf) : (s.joins core n).MemWf := by
  induction n generalizing s with
  | zero => exact h
  | succ n ih =>
    simp only [State.joins]
    split
    · exact ih (.endCmd h)
    · exact h

theorem copyEnd {core q} (h : s.MemWf) : (s.copyEnd core q).MemWf := by
  unfold State.copyEnd
  split
  · exact h
  · exact .ite (.endCmd h) h

theorem stepPageWalk {core q} (h : s.MemWf) : (Machine.stepPageWalk core q s).MemWf := by
  simp only [Machine.stepPageWalk]
  split
  · exact h
  · split
    · exact h
    · split
      · exact h
      · split
        · exact .ite h (.tlbFill h)
        · exact .tableNode h
        · exact .ite h (.holdCmd h)

/-! ## Windows -/

theorem port {die p b} (h : s.MemWf) : (s.port die p b).MemWf := .ite h h

theorem windowView {k n x} (h : s.MemWf) : (s.windowView k n x).MemWf := by
  simp only [State.windowView]
  split <;> exact h

theorem takeWin {k n x} (h : s.MemWf) : (s.takeWin k n x).MemWf := .setDreg (.ite (.windowView h) h)

theorem wcreateRun {n c y rd k l} (h : s.MemWf) : (Machine.wcreateRun n c y rd k l s).MemWf := by
  simp only [Machine.wcreateRun]
  have h0 : (s.signalOf k rd.late y).MemWf := .signalOf h
  split
  · exact .push h0
  · exact .ite (.push h0) (.push (.takeWin h0))

theorem wEnd {c st y} (h : s.MemWf) : (s.wEnd c st y).MemWf := .pushS (.modMe (.signalBoth h))

theorem wDone {k st} (h : s.MemWf) : (s.wDone k st).MemWf := by
  unfold State.wDone
  split
  · exact h
  · exact .sigDone h

theorem wDoneAll {die n op st} (h : s.MemWf) : (s.wDoneAll die n op st).MemWf := .foldl h fun _ _ h => .wDone h

theorem hold {op n c place y} (h : s.MemWf) : (s.hold op n c place y).MemWf := .modMe (.signalAccept h)

theorem freeWin {k n} (h : s.MemWf) : (s.freeWin k n).MemWf :=
  .wDoneAll (.wDoneAll (.modDie (.foldl (.ite h h) fun _ _ h => .ite (.port h) h)))

theorem tell {die n} (h : s.MemWf) : (s.tell die n).MemWf :=
  .ite h (.ite (.setWin (.foldl h fun _ _ h => .port h)) (.setWin (.foldl h fun _ _ h => .port h)))

theorem fenceStart {n close} (h : s.MemWf) : (s.fenceStart n close).MemWf := .tell h

theorem complStart {n} (h : s.MemWf) : (s.complStart n).MemWf := .tell h

theorem stepFenceAnnounce {n} (h : s.MemWf) : (Machine.stepFenceAnnounce n s).MemWf := by
  simp only [Machine.stepFenceAnnounce]
  split
  · exact .ite h h
  · exact h

theorem stepWfenceComplete {die n} (h : s.MemWf) : (Machine.stepWfenceComplete die n s).MemWf := by
  simp only [Machine.stepWfenceComplete]
  split
  · exact .ite (.wDoneAll h) h
  · exact h

theorem stepPostArrival {n} (h : s.MemWf) : (Machine.stepPostArrival n s).MemWf := by
  simp only [Machine.stepPostArrival]
  split
  · exact .ite h h
  · exact h

theorem stepCompleteArrival {n} (h : s.MemWf) : (Machine.stepCompleteArrival n s).MemWf := by
  simp only [Machine.stepCompleteArrival]
  split
  · exact .ite h h
  · exact h

theorem grantLock {die x} (h : s.MemWf) : (s.grantLock die x).MemWf := .port h

theorem grantWaiters {die win n} (h : s.MemWf) : (s.grantWaiters die win n).MemWf := by
  induction n generalizing s with
  | zero => exact h
  | succ n ih =>
    simp only [State.grantWaiters]
    split
    · exact h
    · exact .ite (ih (.grantLock h)) h

theorem stepLockRequestArrival {n} (h : s.MemWf) : (Machine.stepLockRequestArrival n s).MemWf := by
  simp only [Machine.stepLockRequestArrival]
  split
  · exact .ite (.port h) (.ite (.port h) (.ite (.port h) (.ite (.grantLock h) (.ite h (.port h)))))
  · exact h

theorem stepLockReleaseArrival {n} (h : s.MemWf) : (Machine.stepLockReleaseArrival n s).MemWf := by
  simp only [Machine.stepLockReleaseArrival]
  split
  · exact .ite (.port (.grantWaiters h)) (.port h)
  · exact h

theorem stepLockGrantArrival {n} (h : s.MemWf) : (Machine.stepLockGrantArrival n s).MemWf := by
  unfold Machine.stepLockGrantArrival
  split <;> exact h

theorem stepLockRetry {n} (h : s.MemWf) : (Machine.stepLockRetry n s).MemWf := by
  simp only [Machine.stepLockRetry]
  split
  · exact .ite h (.ite (.port h) h)
  · exact h

theorem stepReleaseAcknowledgement {n} (h : s.MemWf) : (Machine.stepReleaseAcknowledgement n s).MemWf := by
  unfold Machine.stepReleaseAcknowledgement
  split
  · split
    · exact .ite (.wDone h) h
    · exact h
  · exact h

theorem settleCompl {die} (h : s.MemWf) : (s.settleCompl die).MemWf :=
  .foldl h fun _ _ h => .ite (.wDoneAll h) h

theorem tellAll {die} (h : s.MemWf) : (s.tellAll die).MemWf := .foldl h fun _ _ h => .tell h

theorem settleUnlock {k} (h : s.MemWf) : (s.settleUnlock k).MemWf := by
  unfold State.settleUnlock
  split
  · exact .ite (.port h) h
  · exact h

/-! ## Reductions -/

theorem redFinish {x} (h : s.MemWf) : (s.redFinish x).MemWf := .ite h (.foldl h fun _ _ h => h)

theorem redTell {x l} (h : s.MemWf) : (s.redTell x l).MemWf := .foldl h fun _ _ h => h

theorem redPut {i x} (h : s.MemWf) : (s.redPut i x).MemWf := .ite (.redFinish h) h

theorem contribute {p grp off tag op t count data} (h : s.MemWf) : (s.contribute p grp off tag op t count data).MemWf := by
  simp only [State.contribute]
  split
  · exact .redPut h
  · exact .redPut (.ite (.redTell h) h)

/-! ## Remote requests at their source -/

theorem casRead {x} (h : s.MemWf) : (s.casRead x).2.MemWf := by
  simp only [State.casRead]
  split
  · split
    · split
      · exact .areadN h
      · exact .takeBanks (.areadN h)
    · exact .areadN h
  · exact h

theorem acceptWhole {hnd} (h : s.MemWf) : (s.acceptWhole hnd).MemWf := by
  unfold State.acceptWhole
  split <;> exact h

theorem readRem {core} (h : s.MemWf) : (s.readRem core).MemWf := by
  simp only [State.readRem]
  split
  · exact h
  · split
    · exact .ite h h
    · split
      · exact h
      · split
        · exact .ite (.count (.setRem (.takeBanks (.engRead h)))) (.setRem (.takeBanks (.engRead h)))
        · exact .setRem (.pageFault (.engRead h))
        · exact .tableNode (.engRead h)
        · exact .engRead h

theorem readRems {core n} (h : s.MemWf) : (s.readRems core n).MemWf := by
  induction n generalizing s with
  | zero => exact h
  | succ n ih => exact ih (.readRem h)

theorem takeSeq {die x} (h : s.MemWf) : (s.takeSeq die x).2.MemWf := by
  unfold State.takeSeq
  split <;> exact h

theorem openFlow {die x} (h : s.MemWf) : (s.openFlow die x).MemWf := .ite h h

theorem freeFlow {die k flow place} (h : s.MemWf) : (s.freeFlow die k flow place).MemWf := .ite h h

theorem remEnd {die o err} (h : s.MemWf) : (s.remEnd die o err).MemWf := .sigDone (.count (.freeFlow h))

theorem remFail {x err} (h : s.MemWf) : (s.remFail x err).MemWf := .sigDone (.count h)

theorem rejected {die err} (h : s.MemWf) : (s.rejected die err).MemWf := .ite h (.ite h (.ite h (.ite h h)))

theorem sendRed {die x op t} (h : s.MemWf) : (s.sendRed die x op t).MemWf := .contribute h

theorem sendRem {die x} (h : s.MemWf) : (s.sendRem die x).MemWf := by
  simp only [State.sendRem]
  split
  · exact .freeFlow (.remFail h)
  · split
    · exact .sendRed h
    · split
      · exact .freeFlow (.remFail h)
      · split
        · exact .rejected (.remFail h)
        · exact .send (.modDie (.takeSeq (.ite h h)))

theorem leaveWaiter {die w} (h : s.MemWf) : (s.leaveWaiter die w).MemWf := by
  simp only [State.leaveWaiter]
  split
  · exact .sendRem h
  · exact .sendRem h
  · split
    · exact .ite (.remEnd h) h
    · exact h

theorem of_sendOne {die cl cr t} (e : s.sendOne die cl cr = some t) (h : s.MemWf) : t.MemWf := by
  simp only [State.sendOne] at e
  split at e
  · cases e
  · split at e
    · cases e
    · obtain rfl := Option.some.inj e
      exact .leaveWaiter h

theorem serveClass {die cl n} (h : s.MemWf) : (s.serveClass die cl n).MemWf := by
  induction n generalizing s with
  | zero => exact h
  | succ n ih =>
    simp only [State.serveClass]
    split
    · split
      · next e => exact ih (of_sendOne e h)
      · exact h
    · exact h

theorem roundClass {die cl} (h : s.MemWf) : (s.roundClass die cl).MemWf := .ite (.serveClass h) h

theorem round {die} (h : s.MemWf) : (s.round die).MemWf := by
  unfold State.round
  split
  · exact .foldl h fun _ _ h => .roundClass h
  · split
    · exact .getD h fun _ e => of_sendOne e h
    · exact h

theorem stepPortArbitration {die core n} (h : s.MemWf) : (Machine.stepPortArbitration die core n s).MemWf :=
  .ite (.round h) (.readRems h)

theorem stepRemoteAck {n} (h : s.MemWf) : (Machine.stepRemoteAck n s).MemWf := by
  unfold Machine.stepRemoteAck
  split
  · split
    · exact .remEnd h
    · exact h
  · exact h

theorem landCheck {die id} (h : s.MemWf) : (s.landCheck die id).MemWf := by
  unfold State.landCheck
  split
  · exact .ite (.remEnd h) h
  · exact h

theorem landChunk {die o l} (h : s.MemWf) : (s.landChunk die o l).MemWf := by
  simp only [State.landChunk]
  split
  · exact h
  · split
    · exact .landCheck (.setOutst (.takeBanks (.engWrite h)))
    · split
      · next e => exact .landCheck (.setOutst (of_logBeat e (.engWrite h)))
      · exact h
    · exact .tableNode (.engWrite h)
    · exact .remEnd (.dropBeats (.engWrite h))
    · exact .engWrite h

theorem landChunks {die id l k} (h : s.MemWf) : (s.landChunks die id l k).MemWf := by
  induction k generalizing s with
  | zero => exact h
  | succ k ih =>
    simp only [State.landChunks]
    split
    · exact ih (.landChunk h)
    · exact h

theorem stepGetDataLand {n k} (h : s.MemWf) : (Machine.stepGetDataLand n k s).MemWf := by
  simp only [Machine.stepGetDataLand]
  split
  · split
    · exact .ite (.taken (.landChunks h)) (.landChunks h)
    · exact .taken (.landChunks h)
  · exact h

theorem stepFlowRetry {n} (h : s.MemWf) : (Machine.stepFlowRetry n s).MemWf := by
  unfold Machine.stepFlowRetry
  split
  · exact .ite h (.ite h h)
  · exact h

theorem dropWaits {die p} (h : s.MemWf) : (s.dropWaits die p).MemWf := by
  refine foldl h fun t k h => ?_
  split
  · exact .ite (.wDone h) h
  · exact h
  · exact h

theorem flowsEnd {src dst} (h : s.MemWf) : (s.flowsEnd src dst).MemWf := by
  unfold State.flowsEnd
  split
  · exact h
  · refine .modDie (.foldl h fun t m h => ?_)
    split
    · exact .ite (.unpin h) h
    · exact h

theorem stepPlaceDown {die p} (h : s.MemWf) : (Machine.stepPlaceDown die p s).MemWf :=
  .ite h (flowsEnd (.foldl (.dropBeats (.dropWaits h)) fun _ _ h => .remEnd h))

theorem stepPlaceUp {die p} (h : s.MemWf) : (Machine.stepPlaceUp die p s).MemWf := .ite h h

/-! ## Remote requests at their target -/

theorem recvCount {die r} (h : s.MemWf) : (s.recvCount die r).MemWf := .ite h (.ite h (.ite h h))

theorem redLanded {die grp off tag err} (h : s.MemWf) : (s.redLanded die grp off tag err).MemWf := by
  unfold State.redLanded
  split
  · exact .remEnd h
  · exact h

theorem reqEnd {die n r err counted} (h : s.MemWf) : (s.reqEnd die n r err counted).MemWf := by
  unfold State.reqEnd
  extract_lets s1 s2
  have h1 : s1.MemWf := .rejected (.unpin h)
  have h2 : s2.MemWf := .ite (.recvCount h1) h1
  split
  · exact .redLanded h2
  · split <;> exact .port h2

theorem reqStart {die n r} (h : s.MemWf) : (s.reqStart die n r).MemWf := by
  simp only [State.reqStart]
  split
  · exact .reqEnd h
  · split
    · exact .reqEnd h
    · split
      · exact .reqEnd h
      · exact .reqEnd (.tableNode h)
      · exact .reqEnd (.pageFault h)
      · split
        · exact h
        · exact .setReq (.pin h)

theorem reqMatch {die r n} (h : s.MemWf) : (s.reqMatch die r n).MemWf := by
  unfold State.reqMatch
  split
  · exact .matCount h
  · exact .matCount h
  · exact .matCount h
  · exact h

theorem pieceRead {die r a n cnt f} (h : s.MemWf) : (s.pieceRead die r a n cnt f).MemWf := by
  simp only [State.pieceRead]
  split
  · split
    · exact portCheck (aread1 h)
    · split
      · exact aread1 h
      · exact write (aread1 h)
  · exact pageFault (aread1 h)
  · exact tableNode (aread1 h)
  · exact portCheck (aread1 h)
  · exact aread1 h

theorem pieceWrite {die r a l cnt} (h : s.MemWf) : (s.pieceWrite die r a l cnt).MemWf := by
  simp only [State.pieceWrite]
  split
  · exact awrite1 h
  · exact pageFault (awrite1 h)
  · exact tableNode (awrite1 h)
  · exact portCheck (awrite1 h)
  · exact awrite1 h

theorem reqPerform {die n r} (h : s.MemWf) : (s.reqPerform die n r).MemWf := by
  unfold State.reqPerform
  split
  extract_lets a bs t cnt res
  split
  · exact .reqEnd h
  · split
    · exact h
    · have hres : res.MemWf := by
        unfold res
        split
        · exact pieceRead h
        · exact pieceRead h
        · exact pieceRead h
        · exact pieceWrite h
      clear_value res
      cases res with
      | wait t1 => exact hres
      | err t1 code => exact .reqEnd hres
      | ok t1 data => exact .ite (.reqEnd (.reqMatch hres)) (.setReq (.reqMatch hres))

theorem reqPieces {n id src k} (h : s.MemWf) : (s.reqPieces n id src k).MemWf := by
  induction k generalizing s with
  | zero => exact h
  | succ k ih =>
    simp only [State.reqPieces]
    split
    · exact .ite (ih (.reqPerform h)) h
    · exact h

theorem reqArrive {die n r} (h : s.MemWf) : (s.reqArrive die n r).MemWf :=
  .ite (.ite h (.port h)) (.ite h (.reqStart h))

theorem stepRemoteRequest {n k} (h : s.MemWf) : (Machine.stepRemoteRequest n k s).MemWf := by
  unfold Machine.stepRemoteRequest
  split
  · exact .ite h (.ite (.reqPieces h) (.ite h (.reqPieces (.reqArrive h))))
  · exact h

theorem stepReduceResultArrival {n k} (h : s.MemWf) : (Machine.stepReduceResultArrival n k s).MemWf := by
  unfold Machine.stepReduceResultArrival
  split
  · exact .ite (.ite (.reqPieces h) (.ite h (.reqPieces (.reqStart h)))) h
  · exact h

theorem stepReduceTimeout {die i} (h : s.MemWf) : (Machine.stepReduceTimeout die i s).MemWf := by
  unfold Machine.stepReduceTimeout
  split
  · split
    · exact .ite (.remEnd h) h
    · exact h
  · exact h

theorem stepReduceKeyAbort {n} (h : s.MemWf) : (Machine.stepReduceKeyAbort n s).MemWf := by
  unfold Machine.stepReduceKeyAbort
  split
  · exact .redLanded h
  · exact h

/-! ## Channels -/

theorem givePermits {die ch n} (h : s.MemWf) : (s.givePermits die ch n).MemWf := by
  induction n generalizing s with
  | zero => exact h
  | succ n ih =>
    simp only [State.givePermits]
    split
    · exact h
    · split
      · exact h
      · exact ih (.setChan (.setCmd h))

theorem csendPermits {die} (h : s.MemWf) : (s.csendPermits die).MemWf :=
  .ite h (.foldl (.foldl h fun _ _ h => .ite (.setCmd h) h) fun _ _ h => .givePermits h)

theorem csendEnd {core q x y buf slot} (h : s.MemWf) : (s.csendEnd core q x y buf slot).MemWf :=
  .sigDone (.count (.modDie (.openFlow h)))

theorem csendRead {core q x} (h : s.MemWf) : (s.csendRead core q x).MemWf := by
  simp only [State.csendRead]
  split
  · split
    · exact h
    · split
      · exact .ite (.csendEnd (.takeBanks (.engRead h))) (.setCmd (.takeBanks (.engRead h)))
      · exact .holdCmd (.engRead h)
      · exact .tableNode (.engRead h)
      · exact .deadCmd (.engRead h)
      · exact .engRead h
  · exact h

theorem stepCsendSend {core q n} (h : s.MemWf) : (Machine.stepCsendSend core q n s).MemWf := by
  induction n generalizing s with
  | zero => exact h
  | succ n ih =>
    simp only [Machine.stepCsendSend]
    split
    · exact .ite (ih (.csendRead h)) h
    · exact h

theorem stepCretPermitSend {die n} (h : s.MemWf) : (Machine.stepCretPermitSend die n s).MemWf := by
  simp only [Machine.stepCretPermitSend]
  split
  · exact h
  · exact .ite h (.port h)

theorem auditCheck {die} (h : s.MemWf) : (s.auditCheck die).MemWf := by
  simp only [State.auditCheck]
  split
  · exact h
  · exact .ite h h

theorem stepPermitArrival {n} (h : s.MemWf) : (Machine.stepPermitArrival n s).MemWf := by
  simp only [Machine.stepPermitArrival]
  split
  · exact .ite (.auditCheck h) h
  · exact h

theorem stepChaudit {die ch} (h : s.MemWf) : (Machine.stepChaudit die ch s).MemWf := .ite h (.port h)

theorem stepAuditMark {n} (h : s.MemWf) : (Machine.stepAuditMark n s).MemWf := by
  simp only [Machine.stepAuditMark]
  split
  · exact .ite (.port h) h
  · exact h

theorem stepAuditBack {n} (h : s.MemWf) : (Machine.stepAuditBack n s).MemWf := by
  simp only [Machine.stepAuditBack]
  split
  · exact .ite (.auditCheck h) h
  · exact h

theorem stepChanStall {k} (h : s.MemWf) : (Machine.stepChanStall k s).MemWf := by
  simp only [Machine.stepChanStall]
  split
  · exact h
  · exact .trapEntry (.modCtx (.nonFatal h))

theorem stepAuditTimeout {die} (h : s.MemWf) : (Machine.stepAuditTimeout die s).MemWf := by
  simp only [Machine.stepAuditTimeout]
  split
  · exact h
  · exact .ite (.fatal h) h

theorem stepChantabWrite {die n w0 w1 w2 w3} (h : s.MemWf) : (Machine.stepChantabWrite die n w0 w1 w2 w3 s).MemWf :=
  .ite h (.ite h h)

/-! ## The Apex engine -/

theorem holdApex {die r c acc va} (h : s.MemWf) : (s.holdApex die r c acc va).MemWf := .setRun (.pageFault h)

theorem deadApex {die r} (h : s.MemWf) : (s.deadApex die r).MemWf := .ite h (.finish h)

theorem apexPieces {die r n ps} (h : s.MemWf) : (s.apexPieces die r n ps).st.MemWf := by
  induction ps generalizing s r n with
  | nil => exact h
  | cons p ps ih =>
    simp only [State.apexPieces]
    split
    · exact ih h
    · split
      · exact ih (.checkAt (.aread h))
      · exact .holdApex (.aread h)
      · exact .tableNode (.setRun (.aread h))
      · exact .deadApex (.aread h)
      · exact .setRun (.aread h)

theorem apexRead {die r k a n} (h : s.MemWf) : (s.apexRead die r k a n).st.MemWf := .apexPieces h

theorem apexRows {die r k x l} (h : s.MemWf) : (s.apexRows die r k x l).st.MemWf := by
  induction l generalizing s r k with
  | nil => exact h
  | cons i l ih =>
    simp only [State.apexRows]
    split
    · exact .apexRead h
    · exact ih (.apexRead h)

theorem apexBegin {die r} (h : s.MemWf) : (s.apexBegin die r).MemWf := by
  simp only [State.apexBegin]
  split
  · exact .apexRead h
  · split
    · exact .setRun (.apexRead h)
    · split
      · exact .apexRead (.apexRead h)
      · split
        · exact .apexRead (.apexRead (.apexRead h))
        · refine .ite (.setRun (.apexRead (.apexRead (.apexRead h)))) (.ite (.setRun (.apexRead (.apexRead (.apexRead h)))) ?_)
          split
          · exact .apexRows (.apexRead (.apexRead (.apexRead h)))
          · exact .setRun (.apexRows (.apexRead (.apexRead (.apexRead h))))

theorem apexRound {die r x} (h : s.MemWf) : (s.apexRound die r x).MemWf := by
  simp only [State.apexRound]
  refine .ite (.ite h h) (.ite h ?_)
  split
  · exact .apexRows h
  · split <;> exact .setRun (.apexRows h)

theorem apexDone {die r st code rounds} (h : s.MemWf) : (s.apexDone die r st code rounds).MemWf := .setRun (.write h)

theorem apexFree {die} (h : s.MemWf) : (s.apexFree die).MemWf := by
  simp only [State.apexFree]
  split
  · exact h
  · split
    · exact .finish (.ite h h)
    · exact h

theorem apexStep {die} (h : s.MemWf) : (s.apexStep die).MemWf := by
  simp only [State.apexStep]
  split
  · exact h
  · split
    · exact h
    · split
      · exact h
      · exact .apexBegin h
      · exact .apexRound h
      · exact .apexDone h
      · split
        · exact .setRun (.awrite h)
        · exact .holdApex (.awrite h)
        · exact .tableNode (.awrite h)
        · exact .deadApex (.awrite h)
        · exact .awrite h

theorem stepApexStart {die} (h : s.MemWf) : (Machine.stepApexStart die s).MemWf := by
  simp only [Machine.stepApexStart]
  split
  · exact .ite h (.apexStep h)
  · exact h

theorem stepApexEnd {die k} (h : s.MemWf) : (Machine.stepApexEnd die k s).MemWf := by
  induction k generalizing s with
  | zero => exact h
  | succ k ih =>
    simp only [Machine.stepApexEnd]
    exact .ite (ih (.apexStep h)) h

end Sys2Proof.Machine.State.MemWf
end

section
/-! # O57: the matrix engine and the accesses of memory operations -/

namespace Sys2Proof.Machine

/-- What a memory operation does when it is performed keeps memories canonical. -/
def MOp.Keeps (m : MOp) : Prop := ∀ rd k now s, s.MemWf → (m.perform rd k now s).MemWf

end Sys2Proof.Machine

namespace Sys2Proof.Machine.State.MemWf

variable {s : State}

/-! ## The matrix engine -/

theorem startMat {core m} (h : s.MemWf) : (s.startMat core m).2.MemWf := by
  simp only [State.startMat]
  split <;> exact h

theorem takeSlot {m} (h : s.MemWf) : (s.takeSlot m).MemWf := h

theorem stepMatrixStart {core} (h : s.MemWf) : (Machine.stepMatrixStart core s).MemWf := by
  simp only [Machine.stepMatrixStart]
  split
  · exact h
  · split
    · exact ite h (modCore (startMat h))
    · split
      · exact h
      · exact ite h (modCore (startMat h))

theorem matResult {m} (h : s.MemWf) : (s.matResult m).MemWf := .ite h h

theorem stepMatrixComplete {core} (h : s.MemWf) : (Machine.stepMatrixComplete core s).MemWf := by
  simp only [Machine.stepMatrixComplete]
  split
  · exact h
  · split
    · exact h
    · have hr {m} : (s.matResult m).MemWf := .matResult h
      exact .ite (.modCore (by split <;> exact hr)) h

theorem stepShadowRecord {core} (h : s.MemWf) : (Machine.stepShadowRecord core s).MemWf := by
  unfold Machine.stepShadowRecord
  split
  · exact h
  · exact .telemetry h

/-! ## Loads and stores -/

theorem pushLate {sl i rows seed passed touch got} (h : s.MemWf) : (s.pushLate sl i rows seed passed touch got).MemWf := h

theorem readGo {rd k ahead touch got} (h : s.MemWf) : (s.readGo rd k ahead touch got).2.MemWf := h

/-- Memory with bytes put back, as an access sees it that read them before. -/
theorem putBack {got : List Host.Cell} (h : s.MemWf) :
    ({ s with mem := got.foldl (fun t e => memPut t e.1 e.2) s.mem } : State).MemWf := by
  refine ⟨?_, h.2⟩
  obtain ⟨hm, -⟩ := h
  revert hm
  generalize s.mem = mem
  intro hm
  induction got generalizing mem with
  | nil => exact hm
  | cons e got ih => exact ih _ (memPut_wf e.1 e.2 hm)

theorem go {m : MOp} {rd k ahead touch got} (hm : m.Keeps) (h : s.MemWf) : (m.go rd k ahead touch got s).2.MemWf := by
  have h2 {b : Bool} {now} : (if b then (s.takeBanks (k + 1) (banksOf now)).checkReads k now else s.takeBanks (k + 1) (banksOf now)).MemWf :=
    .ite h h
  simp only [MOp.go]
  split
  · exact h
  · split
    · exact ite (hm _ _ _ _ h2) ⟨h2.1, (hm _ _ _ _ (putBack h2)).2⟩
    · split
      · exact h2
      · exact hm _ _ _ _ h2

end Sys2Proof.Machine.State.MemWf

namespace Sys2Proof.Machine

theorem mLd_keeps {t d x} : (mLd t d x).Keeps := fun _ _ _ _ h => h

theorem mLdv_keeps {t d x} : (mLdv t d x).Keeps := fun _ _ _ _ h => h

theorem mLdvh_keeps {t hi d x} : (mLdvh t hi d x).Keeps := fun _ _ _ _ h => h

theorem mLdk_keeps {d x} : (mLdk d x).Keeps := fun _ _ _ _ h => h

theorem mLdg_keeps {t d vx x} : (mLdg t d vx x).Keeps := fun _ _ _ _ h => h

theorem mSt_keeps {t d x} : (mSt t d x).Keeps := fun _ _ _ _ h => .writeNat h

theorem mStv_keeps {t d x} : (mStv t d x).Keeps := fun _ k _ _ h => .storeRow (k := k) h

theorem mStvh_keeps {t hi d x} : (mStvh t hi d x).Keeps := fun _ k _ _ h => .storeRow (k := k) h

theorem mStk_keeps {d x} : (mStk d x).Keeps := fun _ _ _ _ h => .writeNat h

theorem mSts_keeps {t d vx x} : (mSts t d vx x).Keeps := fun _ _ _ _ h => .foldl h fun _ _ h => .ite (.writeNat h) h

theorem mAtomic_keeps {op t d x} : (mAtomic op t d x).Keeps := fun _ _ _ _ h => .push (.writeNat h)

theorem mopOf_keeps {i m} (e : mopOf i = some m) : m.Keeps := by
  unfold mopOf at e
  split at e <;> cases e
  case h_1 => exact mLd_keeps
  case h_2 => exact mLdv_keeps
  case h_3 => exact mLdvh_keeps
  case h_4 => exact mLdk_keeps
  case h_5 => exact mLdg_keeps
  case h_6 => exact mSt_keeps
  case h_7 => exact mStv_keeps
  case h_8 => exact mStvh_keeps
  case h_9 => exact mStk_keeps
  case h_10 => exact mSts_keeps
  all_goals exact mAtomic_keeps

end Sys2Proof.Machine
end

section
/-! # O57: the operations of a bundle -/

namespace Sys2Proof.Machine

/-- What an operation does at its issue, and what it asks while it is blocked, keeps memories canonical. -/
structure Op.Keeps (o : Op) : Prop where
  effect : ∀ s, s.MemWf → (o.effect s).MemWf
  probe : ∀ s, s.MemWf → (o.probe s).MemWf

namespace Op.Keeps

/-- An operation that asks nothing. -/
theorem of_effect {o : Op} (hp : ∀ s, o.probe s = s) (he : ∀ s, s.MemWf → (o.effect s).MemWf) : o.Keeps :=
  ⟨he, fun s h => (hp s).symm ▸ h⟩

theorem base {sl} : (Op.base sl).Keeps := ⟨fun _ h => h, fun _ h => h⟩

theorem inSlot {o : Op} {sl} (h : o.Keeps) : (o.inSlot sl).Keeps := ⟨fun _ hs => h.effect _ hs, fun _ hs => h.probe _ hs⟩

theorem onSlot {o : Op} {sl} (h : o.Keeps) : (o.onSlot sl).Keeps := ⟨h.effect, h.probe⟩

end Op.Keeps

open Op.Keeps State.MemWf

/-! ## The X slot -/

theorem xop_keeps {d g l f} : (xop d g l f).Keeps := of_effect (fun _ => rfl) fun _ h => .ite h h

theorem xopK_keeps {d g f} : (xopK d g f).Keeps := of_effect (fun _ => rfl) fun _ h => .ite h h

theorem linkTo_memWf {d g} {s : State} (h : s.MemWf) : (linkTo d g s).MemWf := .ite h h

theorem opCall_keeps {g off} : (opCall g off).Keeps := of_effect (fun _ => rfl) fun _ h => linkTo_memWf h

theorem opCallr_keeps {d a g} : (opCallr d a g).Keeps := of_effect (fun _ => rfl) fun _ h => linkTo_memWf h

theorem breakLoop_memWf {g : Guard} {s : State} (h : s.MemWf) :
    (if s.me.on g then s.modMe Ctx.breakLoop else s).MemWf := .ite h h

theorem opLbrk_keeps {g off} : (opLbrk g off).Keeps := of_effect (fun _ => rfl) fun _ h => breakLoop_memWf (g := g) h

/-! ## The V, M, L and S slots -/

theorem vop_keeps {i v} : (vop i v).Keeps := of_effect (fun _ => rfl) fun _ h => .ite h (.voPerform h)

theorem matOp_keeps {k tile src e acc y} : (matOp k tile src e acc y).Keeps :=
  of_effect (fun _ => rfl) fun _ h => .takeSlot (.ite (.signalAccept h) (.signalAccept h))

theorem mop_keeps {i m} (hm : m.Keeps) : (mop i m).Keeps := by
  refine of_effect (fun _ => rfl) fun s h => ?_
  simp only [mop]
  split
  · exact h
  · split
    · exact .go hm h
    · exact .pushLate (.go hm h)

/-! ## Copies and queued commands -/

theorem enqueue_memWf {core q x} {s : State} (h : s.MemWf) : (s.enqueue core q x).MemWf := h

theorem copyOp_keeps {i a b c e x} : (copyOp i a b c e x).Keeps := by
  refine of_effect (fun _ => rfl) fun s h => ?_
  have hp {pins} : (s.fresh.2.pin (dieOf s.cur) pins).MemWf := .pin h
  simp only [copyOp]
  exact .signalAccept (by split <;> exact hp)

theorem opQjoin_keeps {mask y} : (opQjoin mask y).Keeps :=
  of_effect (fun _ => rfl) fun s h =>
    .signalAccept (.foldl (s := s.fresh.2) h fun _ _ h => enqueue_memWf h)

theorem opMigr_keeps {a b c tier hnd y} : (opMigr a b c tier hnd y).Keeps := by
  refine of_effect (fun _ => rfl) fun s h => ?_
  have hs : (s.signalAccept y).MemWf := .signalAccept h
  exact .accept hs

theorem dirtyOp_keeps {a b c keep y} : (dirtyOp a b c keep y).Keeps :=
  of_effect (fun _ => rfl) fun _ h => .dirtyRun (.signalBoth h)

theorem imageOp_keeps {i q a b e y} : (imageOp i q a b e y).Keeps := of_effect (fun _ => rfl) fun s h =>
  .signalAccept (enqueue_memWf (s := s.fresh.2) h)

theorem opCsend_keeps {q a b x} : (opCsend q a b x).Keeps := of_effect (fun _ => rfl) fun s h =>
  .accept (.signalAccept (enqueue_memWf (s := s.fresh.2) h))

theorem remOp_keeps {i a b c e tag rel x} : (remOp i a b c e tag rel x).Keeps := of_effect (fun _ => rfl) fun s h =>
  .ite (.acceptWhole (.signalBoth h)) (.accept (.signalAccept (.modCore (.casRead (s := s.fresh.2) h))))

theorem opAgo_keeps {a b hnd y} : (opAgo a b hnd y).Keeps := by
  refine of_effect (fun _ => rfl) fun s h => ?_
  have hs : (s.signalAccept y).MemWf := .signalAccept h
  exact .accept hs

/-! ## Semaphores, barriers and handles -/

theorem semOp_keeps {n gl y f} (hf : ∀ s : State, s.MemWf → (f s).MemWf) : (semOp n gl y f).Keeps :=
  of_effect (fun _ => rfl) fun _ h => hf _ (.signalBoth h)

theorem barOp_keeps {a y f} : (barOp a y f).Keeps := of_effect (fun _ => rfl) fun _ h => .signalBoth h

theorem opBarwait_keeps {a b y} : (opBarwait a b y).Keeps := ⟨fun _ h => .signalBoth h, fun _ h => .ite h h⟩

/-! ## Tasks and jobs -/

theorem readThen_memWf {i a n y} {run : List Byte → State → State} {s : State} (hr : ∀ l t, t.MemWf → (run l t).MemWf) (h : s.MemWf) :
    (s.readThen i a n y run).MemWf := .ite (hr _ _ (.readGo h)) (.signalAccept (.pushLate (.readGo h)))

theorem spawnOp_keeps {i remote c a b y} : (spawnOp i remote c a b y).Keeps :=
  of_effect (fun _ => rfl) fun _ h => readThen_memWf (fun _ _ h => .spawnRun h) h

theorem suspOp_keeps {kind obj a b y} : (suspOp kind obj a b y).Keeps := of_effect (fun _ => rfl) fun _ h => .signalBoth h

theorem matOpOf_keeps {sem a b c y} : (matOpOf sem a b c y).Keeps := of_effect (fun _ => rfl) fun _ h => .signalBoth h

theorem opTcancel_keeps {a y} : (opTcancel a y).Keeps := of_effect (fun _ => rfl) fun _ h =>
  .foldl (.signalBoth h) fun _ _ h => .send h

theorem opTjobq_keeps {c a y} : (opTjobq c a y).Keeps := ⟨fun _ h => .signalBoth h, fun _ h => .ite h h⟩

/-! ## Views -/

theorem opVwnew_keeps {c b y} : (opVwnew c b y).Keeps where
  effect s h := by
    have hs : (s.signalBoth y).MemWf := .signalBoth h
    simp only [opVwnew, Op.atOnce]
    split
    · exact hs
    · exact hs
    · exact .hullNew hs
  probe s h := by
    simp only [opVwnew, Op.atOnce]
    split
    · exact .tableNode h
    · exact h

theorem viewOp_keeps {a iv y dests need} {f : Nat → State → State} (hf : ∀ i s, s.MemWf → (f i s).MemWf) :
    (viewOp a iv y dests need f).Keeps := by
  refine of_effect (fun _ => rfl) fun s h => ?_
  have hs : (s.signalBoth y).MemWf := .signalBoth h
  simp only [viewOp, Op.atOnce]
  split
  · exact hf _ _ hs
  · exact hs

theorem opVwdup_keeps {c a b y} : (opVwdup c a b y).Keeps := by
  refine viewOp_keeps fun i s h => ?_
  dsimp only
  split
  · exact h
  · next e => exact .pushS (of_pickView e h)

theorem opVwnar_keeps {a b y} : (opVwnar a b y).Keeps := viewOp_keeps fun _ _ h => .ite h h

theorem opVwdrop_keeps {a y} : (opVwdrop a y).Keeps := viewOp_keeps fun _ _ h => h

theorem opVwq_keeps {c a sel y} : (opVwq c a sel y).Keeps := viewOp_keeps fun _ _ h => h

/-! ## Windows -/

theorem opWcreate_keeps {w c a y} : (opWcreate w c a y).Keeps :=
  of_effect (fun _ => rfl) fun _ h => readThen_memWf (fun _ _ h => .wcreateRun h) h

theorem opWfree_keeps {w y} : (opWfree w y).Keeps :=
  ⟨fun _ h => .ite (.freeWin (.signalBoth h)) (.signalBoth h), fun _ h => .ite h h⟩

theorem fenceOp_keeps {w c close y} : (fenceOp w c close y).Keeps := by
  refine of_effect (fun _ => rfl) fun s h => ?_
  simp only [fenceOp]
  split
  · exact .wEnd h
  · exact .ite (.wEnd h) (.ite (.wEnd (.setWin h)) (.hold (.fenceStart h)))

theorem opWpost_keeps {w c y} : (opWpost w c y).Keeps := by
  refine of_effect (fun _ => rfl) fun s h => ?_
  simp only [opWpost]
  split
  · exact .wEnd h
  · exact .wEnd (.foldl (.setWin h) fun _ _ h => .port h)

theorem opWstart_keeps {w c y} : (opWstart w c y).Keeps := by
  refine ⟨fun s h => ?_, fun _ h => h⟩
  simp only [opWstart]
  split
  · exact .wEnd h
  · exact .wEnd (.setWin h)

theorem opWcompl_keeps {w c y} : (opWcompl w c y).Keeps := by
  refine of_effect (fun _ => rfl) fun s h => ?_
  simp only [opWcompl]
  split
  · exact .wEnd h
  · exact .ite (.wEnd h) (.hold (.complStart h))

theorem opWwait_keeps {w c y} : (opWwait w c y).Keeps := by
  refine ⟨fun s h => ?_, fun _ h => h⟩
  simp only [opWwait]
  split
  · exact .wEnd h
  · exact .wEnd (.setWin h)

theorem lockOp_keeps {w c ex y} : (lockOp w c ex y).Keeps where
  effect s h := by
    simp only [lockOp]
    split
    · exact .wEnd h
    · exact .wEnd (.ite h h)
  probe s h := by
    simp only [lockOp]
    split
    · exact h
    · exact .ite h (.port h)

theorem opWunlock_keeps {w c y} : (opWunlock w c y).Keeps := by
  refine of_effect (fun _ => rfl) fun s h => ?_
  simp only [opWunlock]
  split
  · exact .wEnd h
  · exact .ite (.wEnd h) (.hold h)

/-! ## Channels, flows, preemption, the Apex unit and events -/

theorem opCret_keeps {c a y} : (opCret c a y).Keeps := of_effect (fun _ => rfl) fun _ h =>
  .ite (.signalBoth h) (.signalBoth h)

theorem opPreempt_keeps {a c y} : (opPreempt a c y).Keeps := by
  refine of_effect (fun _ => rfl) fun s h => ?_
  simp only [opPreempt, Op.supOnly]
  split
  · exact .pushS (.signalBoth h)
  · exact .signalAccept h

theorem opEvent_keeps {a b code y} : (opEvent a b code y).Keeps := of_effect (fun _ => rfl) fun _ h => .signalAccept h

end Sys2Proof.Machine
end

section
/-! # O57: bundles at their issue -/

namespace Sys2Proof.Machine

open Op.Keeps

/-- Every instruction's operation, by what its definition is made of. -/
theorem opOf_keeps (i : Instr) : (opOf i).Keeps := by
  cases i <;> dsimp only [opOf]
  case add | sub | mul | mulh | mulhn | div | divn | rem | remn | and | or | xor | shl | shr | sra | min | minn | max
      | maxn | addsh | sel | clz | popc | sext | zext | cmpeq | cmpne | cmplt | cmple | cmpltn | cmplen | addi | andi
      | ori | xori | shli | shri | srai | cmpeqi | cmplti | cmpltni | sethi | krd | kfirst => exact xop_keeps
  case kand | kandn | kor | kxor | knot | kmov | kmovB | kmovLo => exact xopK_keeps
  case br | jmp | jr | ret | loop | mfs | mts | trapi | tfence | eret | nop | fenceAcq | fenceRel | fenceAr =>
    exact of_effect (fun _ => rfl) fun _ h => h
  case call => exact opCall_keeps
  case callr => exact opCallr_keeps
  case lbrk => exact opLbrk_keeps
  case vadd | vsub | vmul | vfma | vfms | vmin | vmax | vabs | vneg | vdot4 | vdot2 | vand | vor | vxor | vnot | vshl
      | vshlImm | vshr | vshrImm | vsra | vsraImm | vcmpeq | vcmpne | vcmplt | vcmple | vsel | vmov | vbcast
      | vbcastScalar | vlaneInsert | vlaneExtract | vperm | vrot | vcvt | vscl | vredadd | vredmax | vredmin | vscan
      | vcnt | vcntLz | vtop2 | vquant | vquantScale | vdeq | vcor => exact vop_keeps
  case mcfg | mcfgi | mrestart | mrestartOff | mkeep | mdrop | mfmt | mshad | tlbinv | tlbinvAll | semwait | semrd
      | hwaitL | hwaitR | hstat | hrel | tdep | texit | vwsync | flowcfg | crecv | preemptSelf | acfg | aq =>
    exact of_effect (fun _ => rfl) fun _ h => .signalBoth h
  case mma | mmas | mmac | mzero => exact matOp_keeps
  case ld => exact mop_keeps mLd_keeps
  case ldv => exact mop_keeps mLdv_keeps
  case ldvh => exact mop_keeps mLdvh_keeps
  case ldk => exact mop_keeps mLdk_keeps
  case ldg => exact mop_keeps mLdg_keeps
  case st => exact mop_keeps mSt_keeps
  case stv => exact mop_keeps mStv_keeps
  case stvh => exact mop_keeps mStvh_keeps
  case stk => exact mop_keeps mStk_keeps
  case sts => exact mop_keeps mSts_keeps
  case aadd | amin | amax | aand | aor | axch | acas | afadd => exact mop_keeps mAtomic_keeps
  case tmov | tmov2 | tmcast | tgath | tscat | tfill | camo => exact copyOp_keeps
  case qjoin => exact opQjoin_keeps
  case migr => exact opMigr_keeps
  case dirty | dirtyKeep => exact dirtyOp_keeps
  case semadd | semset => exact semOp_keeps fun _ h => h
  case barinit | bararr | barexp | barwaitT => exact barOp_keeps
  case barwait => exact opBarwait_keeps
  case tspawn | tspawnR => exact spawnOp_keeps
  case tsuspL | tsuspR | tsuspM => exact suspOp_keeps
  case tmatch | tmatchS => exact matOpOf_keeps
  case tcancel => exact opTcancel_keeps
  case tjobq => exact opTjobq_keeps
  case vwnew => exact opVwnew_keeps
  case vwdup => exact opVwdup_keeps
  case vwnar => exact opVwnar_keeps
  case vwdrop => exact opVwdrop_keeps
  case vwq => exact opVwq_keeps
  case wcreate => exact opWcreate_keeps
  case wfree => exact opWfree_keeps
  case wfence | wfenceClose => exact fenceOp_keeps
  case wpost => exact opWpost_keeps
  case wstart => exact opWstart_keeps
  case wcompl => exact opWcompl_keeps
  case wwait => exact opWwait_keeps
  case wlockSh | wlockEx => exact lockOp_keeps
  case wunlock => exact opWunlock_keeps
  case xget | xput | xputRel | xacc | xamo | xred => exact remOp_keeps
  case csend => exact opCsend_keeps
  case cret => exact opCret_keeps
  case preempt => exact opPreempt_keeps
  case ctxsv | ctxsvUpad | ctxsvCpad | ctxld | ctxldUpad | ctxldCpad => exact imageOp_keeps
  case ago => exact opAgo_keeps
  case event => exact opEvent_keeps
  all_goals exact base

theorem slotOp_keeps (e : Slot × Dec) : (slotOp e).Keeps := by
  unfold slotOp
  split
  · exact (opOf_keeps _).inSlot
  · exact ⟨fun _ h => h, fun _ h => h⟩

/-- The order of effects names the bundle's operations only. -/
theorem mem_of_mem_effectOrder {ops : List Op} {o : Op} (h : o ∈ effectOrder ops) : o ∈ ops := by
  simp only [effectOrder, List.mem_append, List.mem_filter] at h
  obtain (⟨ho, -⟩ | ⟨ho, -⟩) | ⟨ho, -⟩ := h <;> exact ho

theorem opsAt_keeps {s : State} {d pc o} (ho : o ∈ s.opsAt d pc) : o.Keeps := by
  unfold State.opsAt at ho
  split at ho
  · obtain rfl := List.mem_singleton.mp ho
    exact slotOp_keeps _
  · obtain ⟨e, -, rfl⟩ := List.mem_map.mp ho
    exact slotOp_keeps e

end Sys2Proof.Machine

namespace Sys2Proof.Machine.State.MemWf

variable {s : State}

theorem semUpd {core u} (h : s.MemWf) : (s.semUpd core u).MemWf := h

/-- Operations applied in turn, by what each does. -/
theorem foldlOps {f : Op → State → State} {ops : List Op} (ho : ∀ o ∈ ops, ∀ t : State, t.MemWf → (f o t).MemWf) (h : s.MemWf) :
    (ops.foldl (fun t o => f o t) s).MemWf := by
  induction ops generalizing s with
  | nil => exact h
  | cons o ops ih =>
    obtain ⟨hx, hl⟩ := List.forall_mem_cons.mp ho
    exact ih hl (hx s h)

theorem examine {ops} (ho : ∀ o ∈ ops, o.Keeps) (h : s.MemWf) : (Machine.examine ops s).MemWf :=
  .ite (.foldlOps (fun o h => (ho o h).probe) h) h

theorem perform {ops} (ho : ∀ o ∈ ops, o.Keeps) (h : s.MemWf) : (Machine.perform ops s).MemWf := by
  refine .foldlOps (fun o h => (ho o ?_).effect) (.foldl h fun _ _ h => .semUpd h)
  exact mem_of_mem_effectOrder h

theorem issue {ops} (ho : ∀ o ∈ ops, o.Keeps) (h : s.MemWf) : (Machine.issue ops s).MemWf := by
  unfold Machine.issue
  split
  · exact .trap h
  · split
    · split
      · exact .trap h
      · exact .perform ho h
    · exact .examine ho h

end Sys2Proof.Machine.State.MemWf
end

section
/-! # O57: replay, the end of kills, pre-emption, events, launches and late accesses -/

namespace Sys2Proof.Machine.State.MemWf

variable {s : State}

/-! ## The fault queue and replay -/

theorem stepFaultRecordDrain {die} (h : s.MemWf) : (Machine.stepFaultRecordDrain die s).MemWf := by
  unfold Machine.stepFaultRecordDrain
  split
  · exact h
  · exact .ite (.fqWrite h) h

theorem stepFqtail {die v} (h : s.MemWf) : (Machine.stepFqtail die v s).MemWf := .ite h h

theorem replayBeat {core b} (h : s.MemWf) : (s.replayBeat core b).MemWf := by
  simp only [State.replayBeat]
  split
  · refine .ite (.landCheck ?_) ?_ <;>
    · split
      · exact .barTake (.modCore (.engWrite h))
      · exact .modCore (.engWrite h)
  · split
    · exact .modCore (.pageToken (.engWrite h))
    · exact .engWrite h
  · exact .tableNode (.engWrite h)
  · exact .engWrite h

theorem replayNext {core token} (h : s.MemWf) : (s.replayNext core token).MemWf := by
  unfold State.replayNext
  split
  · exact h
  · exact .ite h (.modCore (.replayBeat h))

theorem stepFltreplay {die token} (h : s.MemWf) : (Machine.stepFltreplay die token s).MemWf := by
  unfold Machine.stepFltreplay
  extract_lets d
  split
  · split
    · exact .replayNext h
    · exact h
  · split
    · exact .ite h h
    · exact .replayNext (.modDie h)
    · exact h

/-! ## Kills and machine checks -/

theorem checkEnd {k task ended discarded} (h : s.MemWf) : (s.checkEnd k task ended discarded).MemWf :=
  .foldl (.modDie h) fun _ _ h => .fatal h

theorem killTask {k task} (h : s.MemWf) : (s.killTask k task).MemWf := .ite (.discAdd (.partAdd (.endRec h))) h

theorem withdraw {k} (h : s.MemWf) : (s.withdraw k).MemWf := h

theorem stepKillFinish {k} (h : s.MemWf) : (Machine.stepKillFinish k s).MemWf := by
  simp only [Machine.stepKillFinish]
  split
  · split
    · exact .withdraw h
    · split
      · exact .freeCtx (.withdraw h)
      · exact .checkEnd (.fatal (.freeCtx (.killTask (.unpin (.modDie (.withdraw h))))))
  · exact h

theorem stepMachineCheck {die addr k} (h : s.MemWf) : (Machine.stepMachineCheck die addr k s).MemWf := by
  unfold Machine.stepMachineCheck
  extract_lets chunk holds l s0 s1 x
  have h1 : s1.MemWf := .killAll h
  exact .ite (.fatal h1) (.modDie h1)

/-! ## Pre-emption -/

theorem preAnswer {k st} (h : s.MemWf) : (s.preAnswer k st).MemWf := by
  unfold State.preAnswer
  split
  · exact h
  · extract_lets s1
    have h1 : s1.MemWf := h
    split
    · exact h1
    · exact .sigDone (.ite h1 h1)

theorem stop {k ready} (h : s.MemWf) : (s.stop k ready).MemWf := h

theorem stopSelf {k} (h : s.MemWf) : (s.stopSelf k).MemWf := h

theorem preRequest {k} (h : s.MemWf) : (s.preRequest k).MemWf := .ite h h

theorem stepPreemptStop {k ask} (h : s.MemWf) : (Machine.stepPreemptStop k ask s).MemWf := by
  refine .ite (.preRequest h) (.ite h ?_)
  split
  · exact .preAnswer (.stopSelf h)
  · exact .preAnswer h
  · exact .stop h

theorem stepPreemptTimeoutKill {k} (h : s.MemWf) : (Machine.stepPreemptTimeoutKill k s).MemWf := by
  unfold Machine.stepPreemptTimeoutKill
  extract_lets c
  split
  · exact h
  · exact .ite (.kill h) h
  · exact h

/-! ## Events and launches -/

theorem stepEventDeliver {die} (h : s.MemWf) : (Machine.stepEventDeliver die s).MemWf := by
  unfold Machine.stepEventDeliver
  split
  · exact h
  · exact .ite (.sigDone (.ite (.modDie h) (.setReg (.send (.modDie h))))) h

theorem dieEvent {die vd kind} (h : s.MemWf) : (s.dieEvent die vd kind).MemWf := h

theorem launchSlotRun {die n slot r} (h : s.MemWf) : (s.launchSlotRun die n slot r).MemWf := by
  unfold State.launchSlotRun
  extract_lets vd b i img job
  refine .ite (.reqEnd h) (.ite (.reqEnd h) (.ite h ?_))
  split
  · exact .reqEnd (.discAdd (.ite (.partAdd (.partAdd h)) h))
  · split
    · exact h
    · next e =>
      have h1 := of_acceptTask e h
      exact .reqEnd (.ite (.decr h1) (.setMat h1))

theorem stepLaunch {n} (h : s.MemWf) : (Machine.stepLaunch n s).MemWf := by
  unfold Machine.stepLaunch
  split
  · exact h
  · refine .ite ?_ h
    split
    · exact .launchSlotRun h
    · exact .reqEnd h

/-! ## Late accesses -/

theorem readOn {x : Late} {a n ahead room} {run : List Byte → State → State} (hr : ∀ l t, t.MemWf → (run l t).MemWf) (h : s.MemWf) :
    (x.readOn a n ahead room run s).2.MemWf := by
  simp only [Late.readOn]
  split
  · exact hr _ _ (readGo h)
  · exact readGo (got := x.got) h

theorem lateStep {x ahead} (h : s.MemWf) : (Machine.lateStep x ahead s).2.MemWf := by
  unfold Machine.lateStep
  extract_lets rd stay
  split
  · exact readOn (fun _ _ h => spawnRun h) h
  · exact readOn (fun _ _ h => spawnRun h) h
  · exact readOn (fun _ _ h => wcreateRun h) h
  · split
    · split
      · exact h
      · exact voPerform h
    · next e =>
      have hg := go (rd := rd) (k := x.ctx) (ahead := ahead) (touch := x.touch) (got := x.got) (mopOf_keeps e) h
      exact ite (modCtx hg) hg
    · exact h

theorem lateWalk {core ahead l} (h : s.MemWf) : (Machine.lateWalk core ahead l s).MemWf := by
  induction l generalizing s ahead with
  | nil => exact h
  | cons x l ih =>
    have hx : (Machine.lateStep x ahead s).2.MemWf := lateStep h
    unfold Machine.lateWalk
    split <;> next e =>
      rw [e] at hx
      exact ih hx

theorem stepLateAccessPerform {core} (h : s.MemWf) : (Machine.stepLateAccessPerform core s).MemWf :=
  .foldl (.lateWalk (.modCore h)) fun _ _ h => .landRows h

theorem stepResultWriteback {k} (h : s.MemWf) : (Machine.stepResultWriteback k s).MemWf := .writeback h

theorem stepAgingDue {k} (h : s.MemWf) : (Machine.stepAgingDue k s).MemWf := h

theorem stepShadnWrite {core v} (h : s.MemWf) : (Machine.stepShadnWrite core v s).MemWf := h

theorem stepVdcapWindow {die} (h : s.MemWf) : (Machine.stepVdcapWindow die s).MemWf := h

end Sys2Proof.Machine.State.MemWf
end

section
/-! # O57: images of contexts and pads, and the copy engine in a cycle -/

namespace Sys2Proof.Machine

/-- The state that reading an image leaves has canonical memories. -/
def ImageRead.MemWf : ImageRead → Prop
  | .bytes _ t => t.MemWf
  | .stay t => t.MemWf

/-- The state that an outcome goes on in, if any, has canonical memories. -/
def OutcomeMemWf : Host.Outcome State Fault Refusal → Prop
  | .next t => t.MemWf
  | _ => True

end Sys2Proof.Machine

namespace Sys2Proof.Machine.State.MemWf

variable {s : State}

/-! ## Saves -/

theorem imageEnd {core x len st} (h : s.MemWf) : (s.imageEnd core x len st).MemWf := h

theorem imageWrite {core q x} (h : s.MemWf) : (s.imageWrite core q x).MemWf := by
  simp only [State.imageWrite]
  have hw {a l} : ((s.takeBanks 0 (addrBanks a l.length)).engWrite (core / 64) x.vd a l x.done true).2.MemWf := .engWrite h
  split
  · exact .setCmd hw
  · split
    · next e => exact .setCmd (of_logBeat e hw)
    · exact h
  · exact .tableNode hw
  · exact .deadCmd hw
  · exact hw

theorem saveEnd {core q x job} (h : s.MemWf) : (s.saveEnd core q x job).MemWf := by
  have h0 {c} : (s.semsEnd c).MemWf := .semsEnd h
  simp only [State.saveEnd]
  split
  · exact .ite (.imageEnd h) (.ite (.imageEnd (.freeCtx (.setRec h0))) (.setCmd h0))
  · exact .imageEnd h

theorem saveImage {core q x l} (h : s.MemWf) : (s.saveImage core q x l).MemWf := .ite (.setCmd h) (.imageEnd h)

theorem saveBegin {core q x job} (h : s.MemWf) : (s.saveBegin core q x job).MemWf := by
  unfold State.saveBegin
  extract_lets die k
  split
  · exact .ite (.imageEnd h) (.setCmd h)
  · exact .ite (.imageEnd h) (.ite h (.saveImage h))

theorem saveRead {core q x} (h : s.MemWf) : (s.saveRead core q x).MemWf := by
  unfold State.saveRead
  split
  · exact h
  · exact .setCmd (.checkAt (.takeBanks h))

theorem savePadImage {core q x unit} (h : s.MemWf) : (s.savePadImage core q x unit).MemWf := by
  unfold State.savePadImage
  split
  · exact h
  · exact .saveImage h

/-! ## Loads -/

theorem imageRead {core q x n} (h : s.MemWf) : (s.imageRead core q x n).MemWf := by
  have hr : (s.areadN (core / 64) x.vd x.b n .read (some (s.reader x.done))).2.MemWf := areadN h
  simp only [State.imageRead]
  split
  · exact hr
  · exact holdCmd hr
  · exact tableNode hr
  · exact deadCmd hr
  · exact hr

theorem of_imageRead_bytes {core q x n l t} (e : s.imageRead core q x n = .bytes l t) (h : s.MemWf) : t.MemWf := by
  have hr : (s.imageRead core q x n).MemWf := imageRead h
  rwa [e] at hr

theorem of_imageRead_stay {core q x n t} (e : s.imageRead core q x n = .stay t) (h : s.MemWf) : t.MemWf := by
  have hr : (s.imageRead core q x n).MemWf := imageRead h
  rwa [e] at hr

theorem padLoaded {core x unit} (h : s.MemWf) : (s.padLoaded core x unit).MemWf := .imageEnd (.ite (.modCore h) h)

theorem loadPad {core q x unit} (h : s.MemWf) : (s.loadPad core q x unit).MemWf := by
  simp only [State.loadPad]
  refine .ite (.imageEnd h) ?_
  split
  · next e => exact of_imageRead_stay e h
  · next t e =>
    have ht : t.MemWf := of_imageRead_bytes e h
    refine .ite (.imageEnd ht) (.ite (.imageEnd ht) ?_)
    split
    · next e' => exact of_imageRead_stay e' ht
    · next e' =>
      have ht' := of_imageRead_bytes e' ht
      split
      · exact .imageEnd ht'
      · exact .ite (.setCmd ht') (.imageEnd ht')

theorem enter {k x} (h : s.MemWf) : (s.enter k x).MemWf := by
  unfold State.enter
  extract_lets c r vals d regs s0 s1 s2
  have h2 : s2.MemWf := (opOf_keeps _).effect s1 h
  exact h2

theorem redirect {k task old} (h : s.MemWf) : (s.redirect k task old).MemWf := h

theorem loadSections {core k x l vb sb} (h : s.MemWf) : (s.loadSections core k x l vb sb).MemWf := by
  unfold State.loadSections
  extract_lets len nl nn body parts
  refine .ite (.imageEnd h) ?_
  clear_value parts
  cases parts with
  | none => exact .imageEnd h
  | some p => exact .imageEnd (.setRec (.redirect (.foldl (.modCore (.setCtx h)) fun _ _ h => .enter h)))

theorem loadCtx {core q x} (h : s.MemWf) : (s.loadCtx core q x).MemWf := by
  unfold State.loadCtx
  extract_lets die k
  refine .ite (.imageEnd h) ?_
  split
  · next e => exact of_imageRead_stay e h
  · next t e =>
    have ht : t.MemWf := of_imageRead_bytes e h
    split
    · exact .imageEnd ht
    · refine .ite (.imageEnd (.nonFatal ht)) ?_
      split
      · split
        · next e' => exact of_imageRead_stay e' ht
        · next e' => exact .loadSections (of_imageRead_bytes e' ht)
      · exact .imageEnd ht

/-! ## A queue in a cycle -/

theorem queueEnd {core q} (h : s.MemWf) : (s.queueEnd core q).MemWf := by
  unfold State.queueEnd
  split
  · exact h
  · split
    · exact .copyEnd h
    · refine .ite h (.ite ?_ (.ite ?_ (.ite h (.ite (.endCmd h) ?_))))
      · split
        · exact .loadCtx h
        · exact .loadPad h
        · exact .saveBegin h
      · split
        · exact .savePadImage h
        · exact h
      · split
        · exact .padLoaded h
        · exact .saveEnd h

theorem queueWork {core q n} (h : s.MemWf) : OutcomeMemWf (s.queueWork core q n) := by
  unfold State.queueWork
  split
  · exact h
  · split
    · have hc : (s.copyWork core q n).MemWf := copyWork h
      revert hc
      cases s.copyWork core q n with
      | ok t => exact id
      | absent a => exact fun _ => trivial
    · exact ite (beaten (ite (saveRead h) (imageWrite h))) h

theorem stepCopyComplete {core q n} (h : s.MemWf) : OutcomeMemWf (Machine.stepCopyComplete core q n s) := by
  unfold Machine.stepCopyComplete
  split
  · exact joins (queueEnd h)
  · exact queueWork h

end Sys2Proof.Machine.State.MemWf
end

section
/-! # O57: the retirement of clusters

Retirement (R14) is the one step that moves cells of memory to other addresses. The clusters kept rise, so the place of a
cluster among them rises with its number and is no larger than it: the new addresses stay within the die's slices and keep the
order of the old ones. -/

namespace Sys2Proof.Machine

theorem keptClusters_pairwise (s : State) (die : Nat) : (s.keptClusters die).Pairwise (· < ·) := by
  have hr {n} : (List.range n).Pairwise (· < ·) := List.pairwise_lt_range
  unfold State.keptClusters
  extract_lets l
  split
  · exact hr
  · exact hr.sublist List.filter_sublist

/-- In a rising list of numbers each is at least its place. -/
theorem le_getElem_of_pairwise_lt {l : List Nat} (h : l.Pairwise (· < ·)) {i : Nat} (hi : i < l.length) : i ≤ l[i] := by
  induction i with
  | zero => exact Nat.zero_le _
  | succ i ih =>
    have hlt : l[i] < l[i + 1] := List.pairwise_iff_getElem.mp h i (i + 1) (by omega) hi (by omega)
    have := ih (by omega)
    omega

/-- The place at which a number is found holds it. -/
theorem getElem_of_findIdx? {l : List Nat} {c i : Nat} (e : l.findIdx? (· == c) = some i) : ∃ hi : i < l.length, l[i] = c := by
  obtain ⟨hi, hc, -⟩ := List.findIdx?_eq_some_iff_getElem.mp e
  exact ⟨hi, by simpa using hc⟩

theorem findIdx?_le {l : List Nat} (h : l.Pairwise (· < ·)) {c i : Nat} (e : l.findIdx? (· == c) = some i) : i ≤ c := by
  obtain ⟨hi, rfl⟩ := getElem_of_findIdx? e
  exact le_getElem_of_pairwise_lt h hi

theorem findIdx?_lt {l : List Nat} (h : l.Pairwise (· < ·)) {c d i j : Nat} (ei : l.findIdx? (· == c) = some i)
    (ej : l.findIdx? (· == d) = some j) (hcd : c < d) : i < j := by
  obtain ⟨hi, rfl⟩ := getElem_of_findIdx? ei
  obtain ⟨hj, rfl⟩ := getElem_of_findIdx? ej
  rcases Nat.lt_trichotomy i j with hij | rfl | hij
  · exact hij
  · omega
  · have := List.pairwise_iff_getElem.mp h j i hj hi hij
    omega

/-- A new address is the old one, outside the die's slices, or the place of its cluster among those kept with the same offset. -/
theorem renumber_cases {die : Nat} {keep : List Nat} {a b : Nat} (e : renumber die keep a = some b) :
    ((a < hbmKey die 0 ∨ hbmKey die 0 + 2 ^ 36 ≤ a) ∧ b = a) ∨
      ∃ c i r, r < 2 ^ 32 ∧ c * 2 ^ 32 + r < 2 ^ 36 ∧ a = hbmKey die 0 + (c * 2 ^ 32 + r) ∧ keep.findIdx? (· == c) = some i ∧
        b = hbmKey die 0 + (i * 2 ^ 32 + r) := by
  unfold renumber at e
  extract_lets lo at e
  split at e
  · next ha => exact .inl ⟨ha, (Option.some.inj e).symm⟩
  · next ha =>
    obtain ⟨i, ei, rfl⟩ := Option.map_eq_some_iff.mp e
    have hdm : (a - lo) / 2 ^ 32 * 2 ^ 32 + (a - lo) % 2 ^ 32 = a - lo := Nat.div_add_mod' _ _
    exact .inr ⟨(a - lo) / 2 ^ 32, i, (a - lo) % 2 ^ 32, Nat.mod_lt _ (by decide), by omega, by omega, ei, Nat.add_assoc ..⟩

theorem slice_lt {n c d r t : Nat} (hr : r < n) (hcd : c < d) : c * n + r < d * n + t := by
  have := Nat.mul_le_mul_right n (Nat.succ_le_of_lt hcd)
  rw [Nat.succ_mul] at this
  omega

/-- Renumbering keeps the order of addresses. -/
theorem renumber_lt {die : Nat} {keep : List Nat} (h : keep.Pairwise (· < ·)) {a b a' b' : Nat}
    (ea : renumber die keep a = some a') (eb : renumber die keep b = some b') (hab : a < b) : a' < b' := by
  obtain ⟨ha, rfl⟩ | ⟨c, i, r, hr, hc, rfl, ei, rfl⟩ := renumber_cases ea <;>
    obtain ⟨hb, rfl⟩ | ⟨d, j, t, ht, hd, rfl, ej, rfl⟩ := renumber_cases eb
  · exact hab
  · refine Nat.lt_add_right _ ?_
    generalize d * 2 ^ 32 + t = x at hab hd
    omega
  · have hle := Nat.mul_le_mul_right (2 ^ 32) (findIdx?_le h ei)
    exact Nat.lt_of_le_of_lt (Nat.add_le_add_left (Nat.add_le_add_right hle r) _) hab
  · obtain hcd | rfl | hdc := Nat.lt_trichotomy c d
    · exact Nat.add_lt_add_left (slice_lt hr (findIdx?_lt h ei ej hcd)) _
    · rw [ei] at ej
      obtain rfl := Option.some.inj ej
      simpa using hab
    · exact absurd hab (Nat.lt_asymm (Nat.add_lt_add_left (slice_lt ht hdc) _))

theorem filterMap_renumberCell_wf {die : Nat} {keep : List Nat} (hk : keep.Pairwise (· < ·)) {m : List Host.Cell}
    (h : Memory.wf m = true) : Memory.wf (m.filterMap (renumberCell die keep)) = true := by
  rw [memory_wf_iff] at h ⊢
  obtain ⟨hlt, hne⟩ := h
  constructor
  · refine List.pairwise_filterMap.mpr (hlt.imp ?_)
    intro c d hcd c' ec d' ed
    obtain ⟨a, ea, rfl⟩ := Option.map_eq_some_iff.mp ec
    obtain ⟨b, eb, rfl⟩ := Option.map_eq_some_iff.mp ed
    exact renumber_lt hk ea eb hcd
  · intro c' hc'
    obtain ⟨c, hc, ec⟩ := List.mem_filterMap.mp hc'
    obtain ⟨a, -, rfl⟩ := Option.map_eq_some_iff.mp ec
    exact hne c hc

theorem State.MemWf.retire {s : State} {die} (h : s.MemWf) : (s.retire die).MemWf :=
  ⟨filterMap_renumberCell_wf (keptClusters_pairwise s die) h.1, h.2⟩

end Sys2Proof.Machine
end

section
/-! # O57: resets, control space, migration, attestation and start-up -/

namespace Sys2Proof.Machine.State.MemWf

variable {s : State}

/-! ## Resets -/

theorem stepResetContext {die vd target} (h : s.MemWf) : (Machine.stepResetContext die vd target s).MemWf := .kill h

theorem zeroCore {core} (h : s.MemWf) : (s.zeroCore core).MemWf := h

theorem clearCluster {die cl} (h : s.MemWf) : (s.clearCluster die cl).MemWf := .foldl (.zeroBytes h) fun _ _ h => .zeroBytes h

theorem zeroCluster {die cl} (h : s.MemWf) : (s.zeroCluster die cl).MemWf := .foldl (.zeroPad h) fun _ _ h => .zeroPad h

theorem resetCluster {die cl} (h : s.MemWf) : (s.resetCluster die cl).MemWf :=
  .zeroCluster (.foldl h fun _ _ h => .zeroCore h)

theorem dropHull {die vd} (h : s.MemWf) : (s.dropHull die vd).MemWf :=
  .modDie (.foldl (.modDie h) fun _ _ h => .foldl h fun _ _ h => .ite (.freeGranule h) h)

theorem peersDown {die} (h : s.MemWf) : (s.peersDown die).MemWf := .foldl h fun _ _ h => .ite h (.stepPlaceDown h)

theorem peersUp {die} (h : s.MemWf) : (s.peersUp die).MemWf := .foldl h fun _ _ h => .ite h (.stepPlaceUp h)

theorem endBegun {die vd n} (h : s.MemWf) : (s.endBegun die vd n).MemWf := by
  induction n generalizing s with
  | zero => exact h
  | succ n ih =>
    simp only [State.endBegun]
    split
    · exact ih (.reqEnd h)
    · exact h

theorem stopAgo {die vd} (h : s.MemWf) : (s.stopAgo die vd).MemWf := by
  unfold State.stopAgo
  split
  · exact h
  · exact .ite h h

theorem placeBack {die} (h : s.MemWf) : (s.placeBack die).MemWf := .ite h (.peersUp h)

theorem resetVd {die vd} (h : s.MemWf) : (s.resetVd die vd).MemWf := by
  unfold State.resetVd
  extract_lets s1 s2 b s3 s4 s5 s6
  have h2 : s2.MemWf := .foldl (.endBegun h) fun _ _ h => .endRec h
  have h3 : s3.MemWf := h2
  have h4 : s4.MemWf := .modDie (.dropHull h3)
  have h5 : s5.MemWf := .foldl h4 fun _ _ h => .clearCluster h
  have h6 : s6.MemWf := h5
  exact .placeBack (.dieEvent h6)

theorem giveHull {die} (h : s.MemWf) : (s.giveHull die).MemWf := h

theorem resetEvents {die} (h : s.MemWf) : (s.resetEvents die).MemWf := .foldl h fun _ _ h => .ite (.send h) h

theorem resetDie {die} (h : s.MemWf) : (s.resetDie die).MemWf := by
  unfold State.resetDie
  extract_lets inDie s0 s1
  have h0 : s0.MemWf := .resetEvents h
  have h1 : s1.MemWf := ⟨filter_wf _ h0.1, h0.2⟩
  exact .peersUp (.giveHull (.retire (.setDie h1)))

theorem resetEnd {die x} (h : s.MemWf) : (s.resetEnd die x).MemWf := by
  unfold State.resetEnd
  split
  · exact .zeroCore h
  · exact .resetCluster h
  · exact .resetVd h
  · exact .resetDie h

theorem resetsEnd {die} (h : s.MemWf) : (s.resetsEnd die).MemWf := .foldl h fun _ _ h => .ite (.resetEnd (.modDie h)) h

theorem resetStart {die x} (h : s.MemWf) : (s.resetStart die x).MemWf := .modDie (.killAll h)

theorem stepResetCore {die vd target} (h : s.MemWf) : (Machine.stepResetCore die vd target s).MemWf := .resetsEnd (.resetStart h)

theorem stepResetCluster {die vd target} (h : s.MemWf) : (Machine.stepResetCluster die vd target s).MemWf :=
  .resetsEnd (.resetStart h)

theorem stepResetVd {die vd} (h : s.MemWf) : (Machine.stepResetVd die vd s).MemWf :=
  .resetsEnd (.stopAgo (.resetStart (.peersDown h)))

theorem stepResetDie {die vd} (h : s.MemWf) : (Machine.stepResetDie die vd s).MemWf :=
  .resetsEnd (.foldl (.resetStart (.peersDown h)) fun _ _ h => .stopAgo h)

theorem resetDies {l : List Nat} (h : s.MemWf) : (l.foldl (fun t d => t.resetDie d) s).MemWf := .foldl h fun _ _ h => .resetDie h

theorem stepResetPackage (h : s.MemWf) : (Machine.stepResetPackage s).MemWf := by
  unfold Machine.stepResetPackage
  extract_lets s1
  have h1 : s1.MemWf := .resetDies h
  exact h1

/-! ## Migration and attestation -/

theorem stepVdfreeze {die vd frz} (h : s.MemWf) : (Machine.stepVdfreeze die vd frz s).MemWf := h

theorem freeRec {die i} (h : s.MemWf) : (s.freeRec die i).MemWf := h

theorem stepVdexport {die vd off} (h : s.MemWf) : (Machine.stepVdexport die vd off s).MemWf := by
  unfold Machine.stepVdexport
  refine .ite h ?_
  extract_lets img bytes s1
  have h1 : s1.MemWf := write h
  exact .foldl h1 fun _ _ h => .freeRec h

theorem stepVdimport {die vd off} (h : s.MemWf) : (Machine.stepVdimport die vd off s).MemWf := by
  unfold Machine.stepVdimport
  extract_lets key
  split
  · exact h
  · exact .ite h (.ite (.modDie h) (.write h))

theorem stepAttgo {die} (h : s.MemWf) : (Machine.stepAttgo die s).MemWf := .ite h (.ite h h)

theorem attleft {n} (h : s.MemWf) : ({ s with attleft := n } : State).MemWf := h

theorem stepAttestQuoteDone {die} (h : s.MemWf) : (Machine.stepAttestQuoteDone die s).MemWf := by
  unfold Machine.stepAttestQuoteDone
  refine .ite ?_ h
  generalize s.quoteBytes die = bytes
  have h1 {a} : (s.write a bytes).MemWf := .write h
  have h2 {a f n} : ({ ((s.write a bytes).modDie die f).setDreg die 0 0x128 0 with attleft := n } : State).MemWf :=
    .attleft (.setDreg (.modDie h1))
  exact .ite (.send h2) h2

/-! ## Start-up -/

theorem giveRange {die off} (h : s.MemWf) : (s.giveRange die off).MemWf := h

theorem giveMemory {die} (h : s.MemWf) : (s.giveMemory die).MemWf := .giveHull (.giveRange (.giveRange h))

theorem clearRanges {die} (h : s.MemWf) : (s.clearRanges die).MemWf := h

theorem stageDone {n} (h : s.MemWf) : (s.stageDone n).MemWf :=
  .ite (.foldl h fun _ _ h => .retire h)
    (.ite (.foldl (.foldl h fun _ _ h => .clearRanges h) fun _ _ h => .giveMemory h)
      (.ite (.foldl h fun _ _ h => .setDreg h) h))

theorem stepPowerOn (h : s.MemWf) : (Machine.stepPowerOn s).MemWf := by
  unfold Machine.stepPowerOn
  refine .ite h ?_
  extract_lets n c s1
  have h1 : s1.MemWf := h
  exact .ite h1 (.stageDone h1)

/-! ## Register writes -/

theorem resetWrite {die vd v} (h : s.MemWf) : (s.resetWrite die vd v).MemWf := by
  simp only [State.resetWrite]
  refine .ite h ?_
  split
  · exact .stepResetContext h
  · exact .stepResetCore h
  · exact .stepResetCluster h
  · exact .stepResetVd h
  · exact .ite (.stepResetDie h) h
  · exact .ite (.stepResetPackage h) h
  · exact h

theorem launchPads {die vd} (h : s.MemWf) : (s.launchPads die vd).MemWf := .zeroPad (.foldl h fun _ _ h => .zeroCluster h)

theorem vdWrite {die vd block off r v} (h : s.MemWf) : (s.vdWrite die vd block off r v).MemWf := by
  unfold State.vdWrite
  extract_lets put
  have hp : put.MemWf := h
  split
  · exact .ite (.launchPads hp) hp
  iterate 7 exact .ite h hp
  · exact h
  · exact .stepVdfreeze h
  · exact .stepVdexport h
  · exact .stepVdimport h
  · exact .resetWrite h
  · exact .stepTrgWrite h
  · exact .stepTrgWrite h
  · exact .ite h hp
  · exact .ite h hp
  · exact h
  · exact h
  · exact hp

theorem dieWrite {die block off r v} (h : s.MemWf) : (s.dieWrite die block off r v).MemWf := by
  unfold State.dieWrite
  extract_lets put
  have hp : put.MemWf := h
  split
  · exact .ite (.stepAttgo h) h
  · exact .stepFltreplay h
  · exact .stepFrpush h
  · exact .poolCheck hp
  · exact .poolCheck hp
  · exact .poolCheck hp
  · exact .foldl h fun _ _ h => .setDreg h
  · exact .stepChaudit h
  · exact .stepFqtail h
  · exact .ite h (.ite h (.ite h hp))
  · split
    · exact h
    · exact h
    · exact hp

theorem stepRegisterWrite {die copy block off v} (h : s.MemWf) : (Machine.stepRegisterWrite die copy block off v s).MemWf := by
  unfold Machine.stepRegisterWrite
  extract_lets w
  refine .ite h ?_
  split
  · exact h
  · exact .ite (.vdWrite h) (.dieWrite h)

end Sys2Proof.Machine.State.MemWf
end

section
/-! # O57: the dispatch of instructions and events, and a cycle -/

namespace Sys2Proof.Machine.State.MemWf

variable {s : State}

/-! ## One instruction or event -/

theorem issueOf {i} (h : s.MemWf) : (Machine.issue [opOf i] s).MemWf :=
  issue (List.forall_mem_singleton.mpr (opOf_keeps i)) h

theorem issueOnSlot {i sl} (h : s.MemWf) : (Machine.issue [(opOf i).onSlot sl] s).MemWf :=
  issue (List.forall_mem_singleton.mpr (opOf_keeps i).onSlot) h

theorem exec {i} (h : s.MemWf) : OutcomeMemWf (Machine.exec i s) := by
  have hx : OutcomeMemWf (.next (Machine.issue [opOf i] s)) := issueOf h
  have hv : OutcomeMemWf (.next (Machine.issue [(opOf i).onSlot s.vslot] s)) := issueOnSlot h
  cases i
  case shadnWrite => exact stepShadnWrite h
  case resultWriteback => exact stepResultWriteback h
  case lateAccessPerform => exact stepLateAccessPerform h
  case agingDue => exact stepAgingDue h
  case matrixStart => exact stepMatrixStart h
  case matrixComplete => exact stepMatrixComplete h
  case shadowRecord => exact stepShadowRecord h
  case copyComplete => exact stepCopyComplete h
  case pageWalk => exact stepPageWalk h
  case fltreplay => exact stepFltreplay h
  case frpush => exact stepFrpush h
  case trgWrite => exact stepTrgWrite h
  case migrationMove => exact stepMigrationMove h
  case rcntDecay => exact stepRcntDecay h
  case barrierUpdate => exact stepBarrierUpdate h
  case barrierAutoPhase => exact stepBarrierAutoPhase h
  case remoteSpawnArrival => exact stepRemoteSpawnArrival h
  case spawnAckArrival => exact stepSpawnAckArrival h
  case tdepArrival => exact stepTdepArrival h
  case cancelArrival => exact stepCancelArrival h
  case tjobqAnswer => exact stepTjobqAnswer h
  case jobJoinNotice => exact stepJobJoinNotice h
  case jobWave => exact stepJobWave h
  case jobDoneNotice => exact stepJobDoneNotice h
  case taskDispatch => exact stepTaskDispatch h
  case taskPriorityRise => exact stepTaskPriorityRise h
  case chordDeltaApply => exact stepChordDeltaApply h
  case fenceAnnounce => exact stepFenceAnnounce h
  case wfenceComplete => exact stepWfenceComplete h
  case postArrival => exact stepPostArrival h
  case completeArrival => exact stepCompleteArrival h
  case lockRequestArrival => exact stepLockRequestArrival h
  case lockReleaseArrival => exact stepLockReleaseArrival h
  case lockGrantArrival => exact stepLockGrantArrival h
  case lockRetry => exact stepLockRetry h
  case remoteRequest => exact stepRemoteRequest h
  case remoteAck => exact stepRemoteAck h
  case getDataLand => exact stepGetDataLand h
  case flowRetry => exact stepFlowRetry h
  case portArbitration => exact stepPortArbitration h
  case vdcapWindow => exact stepVdcapWindow h
  case placeDown => exact stepPlaceDown h
  case placeUp => exact stepPlaceUp h
  case csendSend => exact stepCsendSend h
  case cretPermitSend => exact stepCretPermitSend h
  case permitArrival => exact stepPermitArrival h
  case chanStall => exact stepChanStall h
  case chaudit => exact stepChaudit h
  case auditMark => exact stepAuditMark h
  case auditBack => exact stepAuditBack h
  case auditTimeout => exact stepAuditTimeout h
  case reduceResultArrival => exact stepReduceResultArrival h
  case reduceTimeout => exact stepReduceTimeout h
  case reduceKeyAbort => exact stepReduceKeyAbort h
  case preemptStop => exact stepPreemptStop h
  case preemptTimeoutKill => exact stepPreemptTimeoutKill h
  case killFinish => exact stepKillFinish h
  case machineCheck => exact stepMachineCheck h
  case faultRecordDrain => exact stepFaultRecordDrain h
  case fqtail => exact stepFqtail h
  case apexStart => exact stepApexStart h
  case apexEnd => exact stepApexEnd h
  case eventDeliver => exact stepEventDeliver h
  case launch => exact stepLaunch h
  case resetContext => exact stepResetContext h
  case resetCore => exact stepResetCore h
  case resetCluster => exact stepResetCluster h
  case resetVd => exact stepResetVd h
  case resetDie => exact stepResetDie h
  case resetPackage => exact stepResetPackage h
  case chantabWrite => exact stepChantabWrite h
  case vdfreeze => exact stepVdfreeze h
  case vdexport => exact stepVdexport h
  case vdimport => exact stepVdimport h
  case attgo => exact stepAttgo h
  case attestQuoteDone => exact stepAttestQuoteDone h
  case powerOn => exact stepPowerOn h
  case registerWrite => exact stepRegisterWrite h
  case releaseAcknowledgement => exact stepReleaseAcknowledgement h
  case vadd | vsub | vmul | vfma | vfms | vmin | vmax | vabs | vneg | vdot4 | vdot2 | vand | vor | vxor | vnot | vshl
      | vshlImm | vshr | vshrImm | vsra | vsraImm | vcmpeq | vcmpne | vcmplt | vcmple | vsel | vmov | vbcast
      | vbcastScalar | vlaneInsert | vlaneExtract | vperm | vrot | vcvt | vscl | vredadd | vredmax | vredmin | vscan
      | vcnt | vcntLz | vtop2 | vquant | vquantScale | vdeq | vcor => exact hv
  all_goals exact hx

/-! ## A context's bundle -/

theorem andThen {o : Host.Outcome State Fault Refusal} {f : State → Host.Outcome State Fault Refusal} (ho : OutcomeMemWf o)
    (hf : ∀ t, t.MemWf → OutcomeMemWf (f t)) : OutcomeMemWf (Machine.andThen o f) := by
  cases o with
  | next t => exact hf t ho
  | fault r => trivial
  | refused r => trivial

theorem trapReturn {k} (h : s.MemWf) : (s.trapReturn k).MemWf := h

theorem settle {k} (h : s.MemWf) : (s.settle k).MemWf := by
  simp only [State.settle]
  refine .ite h ?_
  split
  · exact .setCtx h
  · refine .ite h ?_
    split <;> exact h

theorem handOver {k} (h : s.MemWf) : (s.handOver k).MemWf := by
  refine .ite h ?_
  split
  · exact .trapEntry h
  · exact .trapReturn h
  · exact h

theorem markUpds {k} (h : s.MemWf) : (s.markUpds k).MemWf := .ite (.modDie h) h

theorem markMat {s0 k} (h : s.MemWf) : (s.markMat s0 k).MemWf := .ite (.setCore h) h

theorem advance {s0 k} (h : s.MemWf) : (s.advance s0 k).MemWf :=
  .ite h (.ite (.settle (.setCtx h)) (.settle (.markMat (.markUpds (.setCtx h)))))

theorem moveOn {s0 : State} {k} (h : s.MemWf) : (s0.moveOn k s).MemWf := .ite (.advance h) h

theorem acting {k sl} (h : s.MemWf) : (s.acting k sl).MemWf := h

theorem runHdr {k} (h : s.MemWf) : OutcomeMemWf (s.runHdr k) := by
  have ha {sl} : (s.acting k sl).MemWf := h
  simp only [State.runHdr]
  split
  · split
    · exact exec ha
    · exact issue (List.forall_mem_singleton.mpr ⟨fun _ h => h, fun _ h => h⟩) ha
  · split
    · exact exec ha
    · exact issue (List.forall_mem_map.mpr fun e _ => slotOp_keeps e) ha

theorem runBundle {k} (h : s.MemWf) : OutcomeMemWf (s.runBundle k) := by
  unfold State.runBundle
  split
  · exact advance (acting h)
  · exact andThen (runHdr h) fun _ h => moveOn h

theorem runPrimary {k} (h : s.MemWf) : OutcomeMemWf (s.runPrimary k) := by
  unfold State.runPrimary
  split
  · exact trap h
  · exact runBundle h

theorem runSecond {k} (h : s.MemWf) : OutcomeMemWf (s.runSecond k) := by
  unfold State.runSecond
  split
  · exact runBundle h
  · exact h

/-! ## A core's turn -/

theorem lookAt {k} (h : s.MemWf) : (s.lookAt k).MemWf :=
  .ite h (.examine (fun _ ho => opsAt_keeps ho) (.acting h))

theorem age {l ran} (h : s.MemWf) : (s.age l ran).MemWf := .foldl h fun _ _ h => .ite h (.modCtx h)

theorem stalls {core blocked} (h : s.MemWf) : (s.stalls core blocked).MemWf :=
  .foldl h fun _ _ h => .ite h (.ite h (.modCtx h))

theorem noteBlocked {k b} (h : s.MemWf) : (s.noteBlocked k b).MemWf := .ite h (.modCtx h)

theorem coreIssue {core} (h : s.MemWf) : OutcomeMemWf (s.coreIssue core) := by
  unfold State.coreIssue
  extract_lets js s0 s1 el bl
  have h1 : s1.MemWf := .foldl (.foldl h fun _ _ h => .noteBlocked h) fun _ _ h => .lookAt h
  clear_value s1
  split
  · exact stalls h1
  · refine andThen (runPrimary h1) fun t ht => ?_
    dsimp only
    split
    · split
      · exact andThen (runSecond ht) fun _ h => stalls (age h)
      · exact stalls (age ht)
    · exact stalls (age ht)

theorem coreTurn {core} (h : s.MemWf) : OutcomeMemWf (s.coreTurn core) := by
  simp only [State.coreTurn]
  split
  · exact coreIssue (ite (modCore h) h)
  · exact h

/-! ## The end of a cycle -/

theorem endTurns (h : s.MemWf) : s.endTurns.MemWf := h

theorem ctxEnd {k} (h : s.MemWf) : (s.ctxEnd k).MemWf := by
  simp only [State.ctxEnd]
  split
  · exact h
  · exact .ite (.leave (.preAnswer h)) h
  · exact .preAnswer (.modCtx h)
  · exact .settleUnlock h
  all_goals
    have h1 : ((s.settleUnlock k).handOver k).MemWf := .handOver (.settleUnlock h)
    split
    · exact .ite h1 (.modCtx h1)
    · exact h1

theorem lookMat {core} (h : s.MemWf) : (s.lookMat core).MemWf := .ite h (.setCore h)

theorem dieEnd {die} (h : s.MemWf) : (s.dieEnd die).MemWf := .resetsEnd (.settleCompl (.tellAll (.csendPermits (.reserve h))))

theorem cycleEnd (h : s.MemWf) : s.cycleEnd.MemWf := by
  unfold State.cycleEnd
  extract_lets s0 s1 s2
  have h0 : s0.MemWf := .countsEnd (.foldl h fun _ _ h => .apexFree h)
  have h1 : s1.MemWf := .foldl h0 fun _ _ h => .lookMat (.semsEnd h)
  have h2 : s2.MemWf := .foldl h1 fun _ _ h => .ctxEnd h
  exact .foldl h2 fun _ _ h => .dieEnd h

theorem redAbandon {p grp off tag} (h : s.MemWf) : (s.redAbandon p grp off tag).MemWf := h

theorem treeTake {m} (h : s.MemWf) : (s.treeTake m).MemWf := by
  unfold State.treeTake
  split
  · exact .ite (.contribute h) h
  · exact .redAbandon h
  · exact h

theorem treeArrivals (h : s.MemWf) : s.treeArrivals.MemWf := .foldl h fun _ _ h => .treeTake h

theorem tick (h : s.MemWf) : s.tick.MemWf := by
  unfold State.tick
  extract_lets t u v
  have ht : t.MemWf := .cycleEnd h
  have hu : u.MemWf := ht
  have hv : v.MemWf := .treeArrivals (s := { u with wire := u.wire ++ u.arriving }) hu
  exact .ite hu hv

theorem step (h : s.MemWf) : OutcomeMemWf (Machine.step s) := by
  unfold Machine.step
  split
  · exact exec h
  · split
    · exact tick h
    · split
      · exact endTurns h
      · exact coreTurn h

end Sys2Proof.Machine.State.MemWf

namespace Sys2Proof.Machine

/-- Settles O57: each operation of the model keeps memories canonical, and a step is made of them. -/
theorem stepKeepsMemory : Obligations.StepKeepsMemory := by
  unfold Obligations.StepKeepsMemory
  intro s t h e
  have ht : OutcomeMemWf (step s) := State.MemWf.step h
  rwa [e] at ht

end Sys2Proof.Machine
end

section
/-! # O20: the configuration of the matrix engine

Each of these operations is a command of the M slot that is accepted and complete in its issue cycle and changes its own context
alone: by `issues_cmd` what is left of each operation is its own checks and what it makes of the context. -/

namespace Sys2Proof.Machine

open Sys2Proof.Spec

/-! ## A command that is complete at once and changes its own context -/

@[simp] theorem settled_me (y : Sync) (s : State) : (settled y s).me = s.me := by simp [settled]

/-- A change of the acting context may read it as the bundle finds it: the sync pair leaves it alone. -/
theorem settled_modMe_congr {y : Sync} {s : State} {f g : Ctx → Ctx} (h : f s.me = g s.me) :
    (settled y s).modMe f = (settled y s).modMe g :=
  congrArg ((settled y s).setCtx (settled y s).cur) (show f (settled y s).me = g (settled y s).me by rwa [settled_me])

/-- The semaphores of an admitted pair pass the range check of a command. -/
theorem cmd_range {y : Sync} {s : State} (sl : Slot) (hy : Admits y s) : (Op.cmd sl y).range s = none := by
  simp [Op.cmd, admR hy]

/-- A check that does not hold leaves an operation's own range checks. -/
theorem rangeIf_range_of_not {o : Op} {p : State → Bool} {s : State} (h : p s = false) : (o.rangeIf p).range s = o.range s := by
  simp [Op.rangeIf, h]

/-! ## The shadow set (R127) -/

@[simp] theorem set_banda (h : Shadow) (v : BitVec 32) : h.set .banda v = { h with banda := v.setWidth 16 } := rfl
@[simp] theorem set_bandb (h : Shadow) (v : BitVec 32) : h.set .bandb v = { h with bandb := v.setWidth 16 } := rfl

/-- The low 16 bits of a word's low half are the word's. -/
theorem low16_of_low32 (w : Word) : (w.extractLsb' 0 32).setWidth 16 = w.extractLsb' 0 16 := by
  rw [← BitVec.setWidth_eq_extractLsb' (by decide), ← BitVec.setWidth_eq_extractLsb' (by decide),
    BitVec.setWidth_setWidth_of_le w (by decide)]

theorem opMcfg_effect (f : MField) (sr : Nat) (y : Sync) (s : State) : (opMcfg f sr y).effect s =
    (signalled y s).modMe fun c => { c with sh := c.sh.set f ((c.s sr).setWidth 32) } := rfl

/-- MCFG sets its field from the low 32 bits of its register. -/
theorem issues_mcfg {f : MField} {sr : Nat} {y : Sync} {s : State} (hy : Admits y s) : Issues (.mcfg f sr y) s
    ((settled y s).modMe fun c => { c with sh := c.sh.set f ((s.me.s sr).extractLsb' 0 32) }) := by
  rw [← BitVec.setWidth_eq_extractLsb' (by decide)]
  exact issues_cmd (o := opMcfg f sr y) rfl hy (cmd_range .m hy) rfl rfl rfl rfl
    ((opMcfg_effect f sr y _).trans (settled_modMe_congr rfl))

theorem issues_mcfg_banda {sr : Nat} {y : Sync} {s : State} (hy : Admits y s) : Issues (.mcfg .banda sr y) s
    ((settled y s).modMe fun c => { c with sh := { c.sh with banda := (s.me.s sr).extractLsb' 0 16 } }) := by
  simpa only [set_banda, low16_of_low32] using issues_mcfg (f := .banda) (sr := sr) hy

theorem issues_mcfg_bandb {sr : Nat} {y : Sync} {s : State} (hy : Admits y s) : Issues (.mcfg .bandb sr y) s
    ((settled y s).modMe fun c => { c with sh := { c.sh with bandb := (s.me.s sr).extractLsb' 0 16 } }) := by
  simpa only [set_bandb, low16_of_low32] using issues_mcfg (f := .bandb) (sr := sr) hy

/-- MCFGI sets its field from its immediate, in units of 16 bytes for an address. -/
theorem issues_mcfgi {f : MField} {imm : Nat} {y : Sync} {s : State} (hy : Admits y s) : Issues (.mcfgi f imm y) s
    ((settled y s).modMe fun c => { c with sh := c.sh.set f (BitVec.ofNat 32 (mcfgiVal f imm)) }) :=
  issues_cmd (o := opMcfgi f imm y) rfl hy (cmd_range .m hy) rfl rfl rfl rfl rfl

theorem issues_mcfgi_banda {imm : Nat} {y : Sync} {s : State} (hy : Admits y s) : Issues (.mcfgi .banda imm y) s
    ((settled y s).modMe fun c => { c with sh := { c.sh with banda := BitVec.ofNat 16 imm } }) := by
  simpa [mcfgiVal] using issues_mcfgi (f := .banda) (imm := imm) hy

theorem issues_mcfgi_bandb {imm : Nat} {y : Sync} {s : State} (hy : Admits y s) : Issues (.mcfgi .bandb imm y) s
    ((settled y s).modMe fun c => { c with sh := { c.sh with bandb := BitVec.ofNat 16 imm } }) := by
  simpa [mcfgiVal] using issues_mcfgi (f := .bandb) (imm := imm) hy

/-! ## The restart label and the telemetry request (R139, R140) -/

theorem issues_mrestart {off : Int} {y : Sync} {s : State} (hy : Admits y s) : Issues (.mrestart off y) s
    ((settled y s).modMe fun c => { c with rlabel := some (c.pc + BitVec.ofInt 64 (2 * off)) }) :=
  issues_cmd (o := opMrestart off y) rfl hy (cmd_range .m hy) rfl rfl rfl rfl rfl

theorem issues_mrestartOff {y : Sync} {s : State} (hy : Admits y s) :
    Issues (.mrestartOff y) s ((settled y s).modMe fun c => { c with rlabel := none }) :=
  issues_cmd (o := opMrestartOff y) rfl hy (cmd_range .m hy) rfl rfl rfl rfl rfl

theorem issues_mshad {y : Sync} {s : State} (hy : Admits y s) :
    Issues (.mshad y) s ((settled y s).modMe fun c => { c with mshad := true }) :=
  issues_cmd (o := opMshad y) rfl hy (cmd_range .m hy) rfl rfl rfl rfl rfl

/-! ## The kept tiles (R141) -/

/-- A tile mask passes when each of its set bits stands for a tile of the allotment. -/
theorem maskOut_eq_false_iff (mask : Nat) (s : State) : maskOut mask s = false ↔
    ∀ n, n < 16 → mask.testBit n = true → s.me.vbase + 64 * n + 63 < s.me.vlim := by
  simp [maskOut, Ctx.hasTile]

/-- The range checks of MKEEP and MDROP. -/
theorem mask_range {mask : Nat} {y : Sync} {s : State} (hy : Admits y s) (hm : maskOut mask s = false) :
    ((Op.cmd .m y).rangeIf (maskOut mask)).range s = none :=
  (rangeIf_range_of_not hm).trans (cmd_range .m hy)

theorem issues_mkeep {mask : Nat} {y : Sync} {s : State} (hy : Admits y s) (hm : maskOut mask s = false) :
    Issues (.mkeep mask y) s ((settled y s).modMe fun c => { c with keep := c.keep ||| BitVec.ofNat 16 mask }) :=
  issues_cmd (o := opMkeep mask y) rfl hy (mask_range hy hm) rfl rfl rfl rfl rfl

theorem issues_mdrop {mask : Nat} {y : Sync} {s : State} (hy : Admits y s) (hm : maskOut mask s = false) :
    Issues (.mdrop mask y) s ((settled y s).modMe fun c => { c with keep := c.keep &&& ~~~BitVec.ofNat 16 mask }) :=
  issues_cmd (o := opMdrop mask y) rfl hy (mask_range hy hm) rfl rfl rfl rfl rfl

/-! ## The format table (R138) -/

theorem opMfmt_effect (src : FmtSrc) (e sr : Nat) (y : Sync) (s : State) : (opMfmt src e sr y).effect s =
    (signalled y s).modMe fun c => { c with fmt := tput c.fmt (entryOf src e c) ((c.s sr).setWidth 32) } := rfl

/-- MFMT writes an entry that R64 accepts at the index that its source names. -/
theorem issues_mfmt {src : FmtSrc} {e sr : Nat} {y : Sync} {s : State} (hy : Admits y s)
    (he : entOk ((s.me.s sr).extractLsb' 0 32) = true) : Issues (.mfmt src e sr y) s
      ((settled y s).modMe fun c => { c with fmt := tput c.fmt (entryOf src e s.me) ((s.me.s sr).extractLsb' 0 32) }) := by
  rw [← BitVec.setWidth_eq_extractLsb' (by decide)] at he ⊢
  exact issues_cmd (o := opMfmt src e sr y) rfl hy (cmd_range .m hy) rfl rfl rfl (if_pos he)
    ((opMfmt_effect src e sr y _).trans (settled_modMe_congr rfl))

/-- Settles O20: each operation passes its checks and is complete in its issue cycle, so only its change of the context is left. -/
theorem matrixConfiguration : Obligations.MatrixConfiguration := by
  unfold Obligations.MatrixConfiguration
  intro s y sr imm mask e off src hy A lo set I I16
  refine ⟨?mcfg, ?mcfgi, ?others, ?tiles, ?mfmt⟩
  case mcfg =>
    exact ⟨issues_mcfg hy, issues_mcfg hy, issues_mcfg hy, issues_mcfg hy, issues_mcfg hy, issues_mcfg hy, issues_mcfg hy,
      issues_mcfg_banda hy, issues_mcfg_bandb hy⟩
  case mcfgi =>
    exact ⟨issues_mcfgi hy, issues_mcfgi hy, issues_mcfgi hy, issues_mcfgi hy, issues_mcfgi hy, issues_mcfgi hy,
      issues_mcfgi hy, issues_mcfgi_banda hy, issues_mcfgi_bandb hy⟩
  case others => exact ⟨issues_mrestart hy, issues_mrestartOff hy, issues_mshad hy⟩
  case tiles =>
    intro h
    have hm : maskOut mask s = false := (maskOut_eq_false_iff mask s).2 h
    exact ⟨issues_mkeep hy hm, issues_mdrop hy hm⟩
  case mfmt => exact fun he => issues_mfmt hy he

end Sys2Proof.Machine
end
